-- ==== Sys2Proof/Word.lean ====
section
/-! DEFINITION. The word types of the P7 and the finite index types its spec numbers things with
(00_scope, 01_the_p7_at_a_glance R13 and R24, 14_nolpicen_mesh R320, 18_orlys_and_the_ledger Table 18.10). -/

namespace Sys2Proof

/-- An octet of any P7 structure. -/
abbrev Byte := BitVec 8

/-- A 64-bit register, event word or ledger word. -/
abbrev Word := BitVec 64

/-- Host port HP0 to HP5, and the partition of the same number (01 R24, 03 Model). -/
abbrev Port := Fin 6

/-- Function of a port: 0 the PF, n the VF n (22 R495, Table 23.2). -/
abbrev Func := Fin 16

/-- Tile number (01 R13). -/
abbrev Tile := Fin 128

/-- Cluster number (01 R13). -/
abbrev Cluster := Fin 16

/-- HBM stack number (01 R22). -/
abbrev Stack := Fin 8

/-- Mesh stop number 12y + x (14 R320). -/
abbrev Stop := Fin 144

/-- Tile `t` belongs to cluster `floor(t / 8)` (01 R13). -/
def Tile.cluster (t : Tile) : Cluster := ⟨t.val / 8, by omega⟩

/-- Unit types of the unit ledger, Table 18.10. -/
inductive UnitType where
  | tile | cluster | select | warp | decode | compress | gather | hbm | port | fabric
  deriving DecidableEq, Repr

/-- The code of a unit type in ledger commands, event words and completions (Table 18.10). -/
def UnitType.code : UnitType → Nat
  | .tile => 1 | .cluster => 2 | .select => 3 | .warp => 4 | .decode => 5
  | .compress => 6 | .gather => 7 | .hbm => 8 | .port => 9 | .fabric => 10

/-- How many units of a type there are (Table 18.10). -/
def UnitType.count : UnitType → Nat
  | .tile => 128 | .cluster => 16 | .select => 16 | .warp => 16 | .decode => 12
  | .compress => 8 | .gather => 8 | .hbm => 8 | .port => 6 | .fabric => 1

/-- Index of the first ledger word of a type, the words standing in the order of Table 18.10. -/
def UnitType.base : UnitType → Nat
  | .tile => 0 | .cluster => 128 | .select => 144 | .warp => 160 | .decode => 176
  | .compress => 188 | .gather => 196 | .hbm => 204 | .port => 212 | .fabric => 218

/-- A unit: a type and an index within it. -/
structure UnitId where
  ty : UnitType
  idx : Nat
  deriving DecidableEq, Repr

/-- The place of a unit's word among the 219 ledger words. -/
def UnitId.slot (u : UnitId) : Nat := u.ty.base + u.idx

/-- Whether the unit exists (Table 18.10). -/
def UnitId.valid (u : UnitId) : Bool := u.idx < u.ty.count

end Sys2Proof
end

