-- ==== Sys2Proof/Syntax.lean ====
section
/-! DEFINITION. The commands of the P7 as a block: one constructor per row of spec/opcode_table.json, with the operands
the rows and the rules they name give a command. A command names an item by `(p, k)`: the k-th descriptor that port p
fetched since reset (13 R298: the fetch order is the admission order). -/

namespace Sys2Proof

/-- Width of a register access (22 R492: 4 or 8 bytes). -/
inductive Width where
  | w4 | w8
  deriving DecidableEq, Repr

/-- Who writes TIME_ADJ: a function's TIME block, or the management path (16 R379). -/
inductive TimeSrc where
  | fn (p : Port) (f : Func)
  | mgmt
  deriving DecidableEq, Repr

/-- Management transports (18 R409). -/
inductive Transport where
  | smbus
  | vdm (p : Port)
  deriving DecidableEq, Repr

/-- Where a Kyvel command comes from: a PF's mailbox or a management transport (18 R421). -/
inductive MgmtSrc where
  | mbx (p : Port)
  | mgmt (tr : Transport)
  deriving DecidableEq, Repr

/-- A domain that sleeps and thaws (16 Table 16.3): a cluster or a shared unit. -/
inductive Domain where
  | cluster (c : Cluster)
  | unit (u : UnitId)
  deriving DecidableEq, Repr

/-- The four mesh networks (14 Table 14.3). -/
inductive Net where
  | req | rsp | snp | dat
  deriving DecidableEq, Repr

/-- The fields of a mesh message that its receiver acts on (14 Tables 14.4, 14.6, 14.7). `part` is 0 to 5, or 6 for
device traffic. -/
structure MeshMsg where
  part : Nat
  src : Stop
  dst : Stop
  vc : Fin 4
  tag : BitVec 16
  addr : BitVec 40
  arg : BitVec 16
  deriving DecidableEq, Repr

/-- One direction of one network between neighbour stops: from a stop, 0 EAST 1 WEST 2 SOUTH 3 NORTH (14 R320, R331). -/
structure Link where
  stop : Stop
  dir : Fin 4
  net : Net
  deriving DecidableEq, Repr

/-- A flit as the receiver of a link finds it, its bits numbered as Tables 14.4 to 14.6 number them: 160 bits of a REQ or RSP
flit, 96 of an SNP flit, or the 1,024 payload bits of a DAT flit with its sideband above them. -/
structure LinkFlit where
  link : Link
  bits : BitVec 1056
  deriving DecidableEq, Repr

/-- The errors that AER reports (22 Table 22.4): first the corrected ones, then the uncorrectable ones. -/
inductive AerError where
  | receiver | badTlp | badDllp | replayRollover | replayTimeout
  | dataLinkProtocol | poisoned | flowControl | completionTimeout | completerAbort | unexpectedCompletion | receiverOverflow
  | malformed | ecrc | unsupportedRequest | internal | ideCheckFailed
  deriving DecidableEq, Repr

/-- An error that a checker detects (20 R450, R452 to R456, Table 20.3). -/
inductive ErrorReport where
  /-- ECC error in a slab byte; `ue` when uncorrectable. -/
  | slab (t : Tile) (off : Nat) (ue : Bool)
  /-- ECC error in partition p's range of a stack. -/
  | hbm (s : Stack) (p : Port) (off : Nat) (ue : Bool)
  /-- ECC error in a unit's own SRAM. -/
  | sram (u : UnitId) (ue : Bool)
  /-- Internal parity or self-check failure of a unit. -/
  | check (u : UnitId)
  /-- Error in a partition's key slot of a stack. -/
  | keySlot (s : Stack) (p : Port)
  /-- Uncorrectable error in a partition's scheduler state. -/
  | partState (p : Port)
  /-- A structure write of an image apply failed (Table 2.22). -/
  | structureWrite (p : Port)
  /-- An AER error of a function (22 Table 22.4). -/
  | aer (p : Port) (f : Func) (e : AerError)
  /-- A completion write failed after retries (Table 13.8). -/
  | cqWrite (p : Port) (f : Func) (n : Nat)
  /-- A descriptor fetch failed after retries (13 R299). -/
  | fetch (p : Port) (f : Func) (n : Nat)
  /-- Uncorrectable error in the ledger, moraine log, firmware memory or shared scheduler state. -/
  | device
  deriving DecidableEq, Repr

/-- What a rail reads (17 R392, Table 18.2): voltage in mV, current in 0.1 A. -/
structure RailReading where
  mv : Nat
  da : Nat
  /-- three READ_VOUT or READ_IOUT transactions in a row failed (17 R392) -/
  failed : Bool
  deriving DecidableEq, Repr

/-- How a regulator answers when its rail is switched on (17 R388, R391): it regulates, with the VOUT_MODE it reports; no
acknowledgement; three PEC failures in a row; out of tolerance after 2 ms. -/
inductive RailAnswer where
  | regulates (voutMode : BitVec 8)
  | noAck
  | pecFailed
  | outOfTolerance
  deriving DecidableEq, Repr

/-- The answer of a regulator to a STATUS_WORD read: its word, or three failed transactions (17 R392). -/
inductive RailStatus where
  | word (w : BitVec 16)
  | failed
  deriving DecidableEq, Repr

/-- The activity of the last 250 us outside the clusters, in thousandths of full (17 R397, Table 17.5). -/
structure Activity where
  /-- per stack, its share of full bandwidth -/
  hbm : List Nat
  engines : Nat
  mesh : Nat
  /-- the ports that are in L0 at Gen6 x16 -/
  portsL0 : BitVec 6
  deriving DecidableEq, Repr

/-- Answer of the host to a read, or the layer-3 failure of one (20 R457, R458). -/
inductive HostRead where
  | ok (addr : Nat) (bytes : List Byte)
  | poisoned
  | ecrc
  | unsupportedRequest
  | completerAbort
  deriving DecidableEq, Repr

/-- What verification reads of an ORLYS_FW bank (18 R415, R416; the manifest's own layout is not given: log 11). -/
structure FwMeta where
  /-- its signature verifies under the fused key -/
  authentic : Bool
  securityVersion : BitVec 32
  version : BitVec 64
  /-- floor-key hash of the manifest, 48 octets -/
  floorKeyHash : List Byte
  /-- SHA-384 digest of the bank -/
  digest : List Byte
  /-- every runtime module matches its manifest digest -/
  modulesOk : Bool
  deriving DecidableEq, Repr

/-- A configuration register by what it holds: a word of the header at an offset, or one of a capability (22 R487 to R509). -/
inductive CfgReg where
  | header (off : Nat)
  /-- what BAR n reads after all ones were written -/
  | barSize (n : Nat)
  | powerCaps
  | powerControl
  | deviceControl
  | deviceCaps2
  | deviceControl2
  | link
  | sriovControl
  | sriovVfs
  | sriovNumVfs
  | sriovStride
  | sriovDevice
  | msix
  | resizableCaps
  | resizableControl
  | ptmCaps
  | ptmControl
  | l1Substates
  | aerStatus
  | aerSeverity
  | aerCorrected
  | aerLog (k : Fin 8)
  | ide
  deriving DecidableEq, Repr

/-- A configuration request of the fields the manual's rules read (22 R444, R490 to R509). -/
inductive CfgReq where
  | read (r : CfgReg)
  /-- a write of the power state to PMCSR -/
  | powerState (n : Nat)
  | commonClock (on : Bool)
  | l1Substates (l11 l12 : Bool)
  | aerSeverity (v : BitVec 32)
  /-- writing ones clears the AER status bits -/
  | aerStatusClear (v : BitVec 32)
  | aerCorrectedClear (v : BitVec 32)
  | memSpaceEnable (on : Bool)
  | maxPayload (bytes : Nat)
  | maxReadRequest (bytes : Nat)
  | relaxedOrdering (on : Bool)
  | numVfs (n : Nat)
  | ariCapable (on : Bool)
  | bar4Size (mib : Nat)
  | msixEnable (on : Bool)
  | msixFunctionMask (on : Bool)
  | ptmEnable (on : Bool)
  | ltrEnable (on : Bool)
  | aspmL1 (on : Bool)
  | pmeEnable (on : Bool)
  | pmeStatusClear
  deriving DecidableEq, Repr

/-- The commands: one constructor per row of spec/opcode_table.json, in its order. -/
inductive Instr where
  /-- NOP (R301): Port opcode 0x00 completes OK with zero results once its fences are honoured. -/
  | nop (p : Port) (k : Nat)
  /-- INGEST_RECORDS (R147): Decodes an Avro, Protocol Buffers or CSV input under a decode plan into column windows in consuming tiles' slabs. -/
  | ingestRecords (p : Port) (k : Nat)
  /-- INGEST_COLUMNS (R157): Decodes a raw column block under a decode plan into column windows. -/
  | ingestColumns (p : Port) (k : Nat)
  /-- INGEST_FRAME (R252): Checks a camera frame for staleness, warps it through a mesh and writes the planes to slab or HBM. -/
  | ingestFrame (p : Port) (k : Nat)
  /-- GATHER (R203): Fetches embedding rows by index from HBM or the firn set and writes rows and status and hot masks. -/
  | gather (p : Port) (k : Nat)
  /-- SELECT (R220): Selects the top K or the above-threshold entries of score rows by radix passes and writes entry lists and summaries. -/
  | select (p : Port) (k : Nat)
  /-- SAMPLE (R228): Applies temperature, top-k and top-p to each score row and draws one index with the Rime generator. -/
  | sample (p : Port) (k : Nat)
  /-- COMPRESS (R178): Compresses input bytes into a DEFLATE, zlib, gzip or Zstandard stream, holding stream state in a context. -/
  | compress (p : Port) (k : Nat)
  /-- DECOMPRESS (R179): Decompresses a stream item into the destination within DST_CAPACITY, holding state in a context. -/
  | decompress (p : Port) (k : Nat)
  /-- FLUSH (R180): Finishes the held input of a compressor stream as a non-final block without closing the stream. -/
  | flush (p : Port) (k : Nat)
  /-- BATCH_CLOSE (R282): Closes a batch queue's fill bank once earlier items of its pipeline have completed. -/
  | batchClose (p : Port) (k : Nat)
  /-- TABLE_REPLACE_WRITE (R199): Copies bytes into an embedding table's stack outside its live regions while the table is served. -/
  | tableReplaceWrite (p : Port) (k : Nat)
  /-- TABLE_REPLACE_SWAP (R200): Pauses items naming a table so that its descriptor can be replaced. -/
  | tableReplaceSwap (p : Port) (k : Nat)
  /-- SWAP (R200): Once in-service items on the table end, all engines take the new descriptor, both firn halves are invalidated and the pause ends. -/
  | swap (p : Port) (k : Nat)
  /-- FIRN_LOAD (R194): Fills the inactive firn half of a table with hot rows and updates the directory entries. -/
  | firnLoad (p : Port) (k : Nat)
  /-- FIRN_SWAP (R195): Inverts the active-half bit of every named table in one engine cycle, or swaps nothing. -/
  | firnSwap (p : Port) (k : Nat)
  /-- AGE_TICK (R141): Sweeps a hash table's ways on the named tiles, ageing them and tombstoning those that reach TTL. -/
  | ageTick (p : Port) (k : Nat)
  /-- EPOCH_SET (R243): Sets or advances a pipeline context's SEED, EPOCH and SHUFFLE_N and derives its key again. -/
  | epochSet (p : Port) (k : Nat)
  /-- QUEUE_MARK (R286): Sets MARK of a batch queue to READ. -/
  | queueMark (p : Port) (k : Nat)
  /-- QUEUE_REWIND (R286): Sets READ to MARK and withdraws unpopped PULL deliveries so that batches are delivered again. -/
  | queueRewind (p : Port) (k : Nat)
  /-- QUEUE_RELEASE (R286): Advances REL to UPTO, freeing batch slots. -/
  | queueRelease (p : Port) (k : Nat)
  /-- BQ_RELEASE (R286): A write of UPTO to BQ_RELEASE by the consuming function acts as a queue release. -/
  | bqRelease (p : Port) (f : Func) (m : Nat) (upto : BitVec 64)
  /-- ABORT (R313): Ends the named item of the same function so that exactly one completion is posted for it, then completes. -/
  | abort (p : Port) (k : Nat)
  /-- IMAGE_BEGIN (R51): Reads the digest, checks kind, target and size, and opens the port's image session. -/
  | imageBegin (p : Port) (k : Nat)
  /-- IMAGE_CHUNK (R52): Copies a chunk of the image into the session's staging area at the next offset. -/
  | imageChunk (p : Port) (k : Nat)
  /-- IMAGE_COMMIT (R53): After the session's chunks complete, compares EXPECT_VERSION and places the session in the commit queue. -/
  | imageCommit (p : Port) (k : Nat)
  /-- IMAGE_UNLOAD (R62): Drains and fences the partition, clears its structure and slabs, and makes it EMPTY. -/
  | imageUnload (p : Port) (k : Nat)
  /-- COMMIT_VERIFY (R55): The security engine takes the next commit in arrival order and runs the verification checks. -/
  | commitVerify
  /-- POINT_OF_NO_RETURN (R58): Verification passes; the partition becomes APPLYING and the drain begins, or a VERIFY_ONLY commit completes. -/
  | pointOfNoReturn
  /-- FLOOR_APPLY (R88): A verified floor commit takes effect once no partition is APPLYING, classifying each port's change and draining Budget and Scrub partitions. -/
  | floorApply
  /-- PARTITION_DRAINED (R352): The last scoreboard entry of a draining partition leaves, letting the apply, unload, scrub or floor change proceed. -/
  | partitionDrained (p : Port)
  /-- STRUCTURE_WRITE_DONE (R59): Structure and CONST data are written; digest and version update, the partition is unfenced, becomes LOADED and the completion is posted. -/
  | structureWriteDone (p : Port)
  /-- LOCK_RESOLUTION (R467): Orlys resolves a lock or session whose owner's epoch changed, logs it and posts OWNER_LOST. -/
  | lockResolution (p : Port) (f : Func)
  /-- SQ_TAIL (R295): A doorbell write sets a queue pair's SQ tail, enters the doorbell FIFO or overflow vector, and may thaw the partition. -/
  | sqTail (p : Port) (f : Func) (n : Nat) (v : BitVec 32)
  /-- CQ_HEAD (R295): A doorbell write sets a queue pair's CQ head, freeing CQ entries. -/
  | cqHead (p : Port) (f : Func) (n : Nat) (v : BitVec 32)
  /-- THAW_DONE (R368): A domain reaches RUN with its local ports unfenced; waiting work starts. -/
  | thawDone (d : Domain)
  /-- FETCH_TURN (R298): The port fetches up to 8 descriptors of the next queue pair in round-robin and admits or immediately completes each. -/
  | fetchTurn (p : Port)
  /-- DISPATCH (R354): When a unit can take an item, the scheduler dispatches the head of the highest-class ready list, or a starved head. -/
  | dispatch (p : Port) (ty : UnitType)
  /-- SERVICE_START (R349): A queued item enters service on its unit and takes its snapshots. -/
  | serviceStart (p : Port) (k : Nat)
  /-- ITEM_COMPLETE (R352): An item in COMPLETING posts its completion once its reservations retire; dependent items are re-evaluated. -/
  | itemComplete (p : Port) (k : Nat)
  /-- COMPLETION_BURST (R310): The port writes up to 8 staged completions to the CQ with phase bits and signals MSI-X once. -/
  | completionBurst (p : Port) (f : Func) (n : Nat)
  /-- SPECULATIVE_READ (R359): A tile sequencer or gather engine reads ahead for a queued item without side effects. -/
  | speculativeRead (p : Port) (k : Nat)
  /-- SEGMENT_SWITCH (R85): A shared unit reaches a 64 KiB or 64-row segment boundary and arbitrates among partitions by weight. -/
  | segmentSwitch (u : UnitId)
  /-- TILE_PASS (R100): A dispatched pass starts on a tile with its B, D, S0 and E0, and runs its NEXT_PASS chain. -/
  | tilePass (t : Tile)
  /-- PASS_BEAT (R100): One beat loads input bindings, runs the stage words in order and hands outputs to bindings once slab and mesh grants are held. -/
  | passBeat (t : Tile)
  /-- CONTINUATION (R99): Once an engine step's writes are granted at the continuation tile, its entry pass is dispatched as a step of the same item. -/
  | continuation (p : Port) (k : Nat)
  /-- DECODE_RECORD (R158): The decode unit decodes one record under the plan into its window lane or rejects it. -/
  | decodeRecord (p : Port) (k : Nat)
  /-- DECODE_WINDOW_COMPLETE (R159): A complete window dispatches the pipeline's entry pass on every COLDEF tile. -/
  | decodeWindowComplete (p : Port) (k : Nat)
  /-- WINDOW_FINISHED (R159): Every tile finishes window w, so the decode unit may write window w + 2. -/
  | windowFinished (p : Port) (k : Nat)
  /-- SAMPLE_ARRIVAL (R272): A sample's first vector is accepted at the assembly tile and it is emitted, stored or discarded. -/
  | sampleArrival (t : Tile)
  /-- BANK_SWAP (R281): Once the other bank has drained, the banks swap and receive queue 3 accepts vectors again. -/
  | bankSwap (p : Port) (m : Nat)
  /-- SHUFFLE_EPOCH_RESET (R276): After the old-epoch fill bank closes, an EPOCH_SET clears the bitmap and resets the position counter. -/
  | shuffleEpochReset (p : Port) (m : Nat)
  /-- PACK_SLOT_WRITE (R283): While FILL is below DEPTH the draining bank writes its pack to its slot. -/
  | packSlotWrite (p : Port) (m : Nat)
  /-- DELIVERY (R287): With credits, a non-zero ring and HSTOP_n high, the pack of READ is copied to the host ring. -/
  | delivery (p : Port) (m : Nat)
  /-- DELIVERY_COMPLETE (R287): The delivery copy ends with the header written last and the vector signalled in PUSH modes. -/
  | deliveryComplete (p : Port) (m : Nat)
  /-- BQ_WANT (R288): A write adds credits and in PUSH_IDLE with nothing to deliver sends an IDLE pack. -/
  | bqWant (p : Port) (f : Func) (m : Nat) (v : BitVec 64)
  /-- BQ_POP (R289): A read returns and removes the oldest delivered unpopped pack or the not-valid tag. -/
  | bqPop (p : Port) (f : Func) (m : Nat) (w : Width)
  /-- BQ_ENABLE (R271): A BQ_CTRL write setting enable checks the configuration and initialises the queue or records a cause. -/
  | bqEnable (p : Port) (m : Nat) (v : BitVec 64)
  /-- BQ_DISABLE (R520): A BQ_CTRL write clearing enable disables the queue and discards its contents. -/
  | bqDisable (p : Port) (m : Nat)
  /-- BQ_WM (R522): A PF write changes the watermarks and re-evaluates QHI and QLO. -/
  | bqWm (p : Port) (m : Nat) (v : BitVec 64)
  /-- QP_ENABLE (R294): A QP_CTRL write setting enable checks the rings and enters ENABLED or records a cause. -/
  | qpEnable (p : Port) (f : Func) (n : Nat)
  /-- QP_DISABLE (R294): A QP_CTRL write clearing enable enters DRAINING, or DISABLED from ERROR. -/
  | qpDisable (p : Port) (f : Func) (n : Nat)
  /-- EVT_POP (R315): A read returns and removes the oldest event word or the not-valid tag. -/
  | evtPop (p : Port) (f : Func) (w : Width)
  /-- EVT_COUNT (R534): A write clears the lost-event count. -/
  | evtCount (p : Port) (f : Func) (w : Width)
  /-- TIME_NOW_LO (R533): A read returns device time and latches the high half into the function's snapshot. -/
  | timeNowLo (p : Port) (f : Func) (w : Width)
  /-- SET (R379): TIME_ADJ operation that sets device time and makes the time base valid. -/
  | set (src : TimeSrc) (d : BitVec 60)
  /-- STEP (R379): TIME_ADJ operation that adds a signed step to device time. -/
  | step (src : TimeSrc) (d : BitVec 60)
  /-- SET_AT_PPS (R379): TIME_ADJ operation that arms a time set at the next accepted PPS edge. -/
  | setAtPps (src : TimeSrc) (d : BitVec 60)
  /-- RATE (R379): TIME_ADJ operation that sets the rate adjustment while the servo is off. -/
  | rate (src : TimeSrc) (d : BitVec 60)
  /-- DISCIPLINE (R379): TIME_ADJ operation that turns the PPS servo on or off. -/
  | discipline (src : TimeSrc) (d : BitVec 60)
  /-- TIME_INVALIDATE (R379): TIME_ADJ INVALIDATE operation that clears VALID. -/
  | timeInvalidate (src : TimeSrc) (d : BitVec 60)
  /-- PPS_EDGE (R382): An accepted PPS edge stamps TIME_PPS_LAST, runs the servo and updates lock state. -/
  | ppsEdge
  /-- HOLDOVER_ENTRY (R383): No edge accepted for 1.1 s enters holdover with A set to I. -/
  | holdoverEntry
  /-- TIME_PTM_HOST (R384): A write starts a PTM dialogue when PTM is enabled and none is busy. -/
  | timePtmHost (p : Port) (f : Func)
  /-- PTM_DIALOGUE_END (R384): The PTM dialogue ends with host and device times recorded and PTM_BUSY cleared. -/
  | ptmDialogueEnd (p : Port) (f : Func) (host offset : BitVec 64)
  /-- BAR4_READ (R530): A slab window read returns slab bytes, zeros or 0xFF on an uncorrectable error, thawing if needed. -/
  | bar4Read (p : Port) (off len : Nat)
  /-- BAR4_WRITE (R531): A slab window write updates whole 64-byte units by read-modify-write. -/
  | bar4Write (p : Port) (off : Nat) (bytes : List Byte)
  /-- MBX_LOCK (R419): A read takes the free mailbox lock with a ticket or returns the holder's ticket. -/
  | mbxLock (p : Port)
  /-- MBX_LOCK_RELEASE (R419): A write of the holder's ticket releases the mailbox lock. -/
  | mbxLockRelease (p : Port) (ticket : BitVec 32)
  /-- REGISTER_WRITE (R514): A write to a register with no row of its own updates fields or is refused with a cause. -/
  | registerWrite (p : Port) (f : Func) (off : Nat) (w : Width) (v : BitVec 64)
  /-- LEDGER_READ (R421): Kyvel command returning a unit's ledger word, filtered for a PF. -/
  | ledgerRead (src : MgmtSrc) (req : List Byte)
  /-- LEDGER_ADMIN (R429): Kyvel command that changes a unit's admin state after a generation check. -/
  | ledgerAdmin (src : MgmtSrc) (req : List Byte)
  /-- ADMIN_DRAIN_END (R429): A DRAINING unit reaches an item boundary holding no item and takes its target admin state. -/
  | adminDrainEnd (u : UnitId)
  /-- FAULT_CLEAR (R431): Kyvel command that runs a MAINTENANCE unit's self-test. -/
  | faultClear (src : MgmtSrc) (req : List Byte)
  /-- SELF_TEST_DONE (R431): The self-test ends and the fault summary is cleared or set. -/
  | selfTestDone (u : UnitId) (bits : BitVec 16)
  /-- PART_SCRUB (R82): Kyvel command that scrubs a partition. -/
  | partScrub (src : MgmtSrc) (req : List Byte)
  /-- POWER_SET (R395): Kyvel command that sets the cap and THROT. -/
  | powerSet (src : MgmtSrc) (req : List Byte)
  /-- POWER_READ (R421): Kyvel command returning cap, THROT, effective cap and package power. -/
  | powerRead (src : MgmtSrc) (req : List Byte)
  /-- MORAINE_READ (R471): Kyvel command returning moraine entries by sequence. -/
  | moraineRead (src : MgmtSrc) (req : List Byte)
  /-- TIME_ADJ (R379): Kyvel command carrying a TIME_ADJ word from the management path. -/
  | timeAdj (src : MgmtSrc) (req : List Byte)
  /-- FW_INFO (R421): Kyvel command returning firmware versions, bank, fallback and floor version. -/
  | fwInfo (src : MgmtSrc) (req : List Byte)
  /-- FLOOR_BEGIN (R422): Kyvel command that opens a floor image session for the floor owner. -/
  | floorBegin (src : MgmtSrc) (req : List Byte)
  /-- FLOOR_CHUNK (R422): Kyvel command that stages a chunk of a floor image. -/
  | floorChunk (src : MgmtSrc) (req : List Byte)
  /-- FLOOR_COMMIT (R422): Kyvel command that queues a floor session for verification. -/
  | floorCommit (src : MgmtSrc) (req : List Byte)
  /-- SET_ENDPOINT_ID (R410): MCTP control command setting the endpoint ID. -/
  | setEndpointId (tr : Transport) (eid : Byte)
  /-- GET_ENDPOINT_ID (R410): MCTP control command returning the endpoint ID. -/
  | getEndpointId (tr : Transport)
  /-- GET_ENDPOINT_UUID (R410): MCTP control command returning the endpoint UUID. -/
  | getEndpointUuid (tr : Transport)
  /-- GET_MCTP_VERSION_SUPPORT (R410): MCTP control command returning supported versions. -/
  | getMctpVersionSupport (tr : Transport)
  /-- GET_MESSAGE_TYPE_SUPPORT (R410): MCTP control command returning supported message types. -/
  | getMessageTypeSupport (tr : Transport)
  /-- GET_VENDOR_DEFINED_MESSAGE_SUPPORT (R410): MCTP control command returning vendor message support. -/
  | getVendorDefinedMessageSupport (tr : Transport)
  /-- GET_TID (R411): PLDM command returning the terminus ID. -/
  | getTid (tr : Transport)
  /-- SET_TID (R411): PLDM command setting the terminus ID. -/
  | setTid (tr : Transport) (tid : Byte)
  /-- GET_PLDM_VERSION (R411): PLDM command returning versions. -/
  | getPldmVersion (tr : Transport) (ty : Byte)
  /-- GET_PLDM_TYPES (R411): PLDM command returning supported types. -/
  | getPldmTypes (tr : Transport)
  /-- GET_PLDM_COMMANDS (R411): PLDM command returning supported commands. -/
  | getPldmCommands (tr : Transport) (ty : Byte)
  /-- GET_SENSOR_READING (R413): PLDM command returning a numeric sensor reading. -/
  | getSensorReading (tr : Transport) (id : BitVec 16)
  /-- GET_STATE_SENSOR_READINGS (R413): PLDM command returning state sensor readings. -/
  | getStateSensorReadings (tr : Transport) (id : BitVec 16)
  /-- GET_NUMERIC_EFFECTER_VALUE (R413): PLDM command returning the cap or THROT effecter. -/
  | getNumericEffecterValue (tr : Transport) (id : BitVec 16)
  /-- SET_NUMERIC_EFFECTER_VALUE (R414): PLDM command setting the cap or THROT. -/
  | setNumericEffecterValue (tr : Transport) (id : BitVec 16) (v : Nat)
  /-- GET_PDR_REPOSITORY_INFO (R413): PLDM command returning PDR repository information. -/
  | getPdrRepositoryInfo (tr : Transport)
  /-- GET_PDR (R413): PLDM command returning a PDR. -/
  | getPdr (tr : Transport) (handle : Nat)
  /-- POLL_FOR_PLATFORM_EVENT_MESSAGE (R412): PLDM command returning and removing the oldest management event. -/
  | pollForPlatformEventMessage (tr : Transport)
  /-- PLDM_UNSUPPORTED (R411): Any other PLDM command returns ERROR_UNSUPPORTED_PLDM_CMD. -/
  | pldmUnsupported (tr : Transport) (ty cmd : Byte)
  /-- QUERY_DEVICE_IDENTIFIERS (R415): PLDM firmware update command returning device identifiers. -/
  | queryDeviceIdentifiers (tr : Transport)
  /-- GET_FIRMWARE_PARAMETERS (R415): PLDM firmware update command returning component parameters. -/
  | getFirmwareParameters (tr : Transport)
  /-- REQUEST_UPDATE (R415): PLDM firmware update command entering update mode. -/
  | requestUpdate (tr : Transport)
  /-- PASS_COMPONENT_TABLE (R415): PLDM firmware update command passing the component table. -/
  | passComponentTable (tr : Transport) (comp : BitVec 16)
  /-- UPDATE_COMPONENT (R415): PLDM firmware update command starting a component transfer into the inactive bank. -/
  | updateComponent (tr : Transport) (comp : BitVec 16) (size : Nat)
  /-- REQUEST_FIRMWARE_DATA (R415): The device requests the next 1,024 bytes of firmware data. -/
  | requestFirmwareData (tr : Transport) (data : List Byte)
  /-- TRANSFER_COMPLETE (R416): Transfer ends and the component's verification enters the commit queue. -/
  | transferComplete (tr : Transport)
  /-- VERIFY_COMPLETE (R416): Verification result is reported, marking the bank invalid on failure. -/
  | verifyComplete (tr : Transport) (m : FwMeta)
  /-- APPLY_COMPLETE (R415): The component is applied to the inactive bank as pending. -/
  | applyComplete (tr : Transport)
  /-- ACTIVATE_FIRMWARE (R416): Accepts activation at the next POR_n release only. -/
  | activateFirmware (tr : Transport) (selfContained : Bool)
  /-- GET_STATUS (R415): PLDM firmware update command returning update status. -/
  | getStatus (tr : Transport)
  /-- CANCEL_UPDATE_COMPONENT (R415): Cancels the component update in progress. -/
  | cancelUpdateComponent (tr : Transport)
  /-- CANCEL_UPDATE (R415): Cancels the whole firmware update. -/
  | cancelUpdate (tr : Transport)
  /-- MEASUREMENT_REQUEST (R424): SPDM request returning signed measurement blocks as they stood before any change under way. -/
  | measurementRequest (p : Port) (idx : Nat)
  /-- KEY_EXCHANGE (R508): SPDM key exchange opening a secured session. -/
  | keyExchange (p : Port)
  /-- FINISH (R508): SPDM FINISH completing the secured session. -/
  | finish (p : Port) (ok : Bool)
  /-- QUERY (R508): IDE_KM QUERY of the port's IDE stream. -/
  | query (p : Port)
  /-- KEY_PROG (R508): IDE_KM key programming for the stream. -/
  | keyProg (p : Port) (rx : Bool)
  /-- K_SET_GO (R509): IDE_KM key-set activation; both directions make the stream Secure. -/
  | kSetGo (p : Port) (rx : Bool)
  /-- K_SET_STOP (R508): IDE_KM key-set deactivation. -/
  | kSetStop (p : Port) (rx : Bool)
  /-- DOE_ABORT (R507): Discards the DOE object in progress and any partial SPDM message. -/
  | doeAbort (p : Port)
  /-- IDE_CHECK_FAILED (R509): An IDE integrity failure sets the stream Insecure and acts as a port link reset. -/
  | ideCheckFailed (p : Port)
  /-- CONFIGURATION_REQUEST (R444): A configuration request is answered from the AON shadow and writes take effect at once. -/
  | configurationRequest (p : Port) (f : Func) (r : CfgReq)
  /-- VF_ENABLE (R495): A VF Enable write creates NumVFs VFs, or stays 0 when ARI rules forbid. -/
  | vfEnable (p : Port) (on : Bool)
  /-- FLR (R497): Function Level Reset of a PF or VF increments epochs and resets the function's state within 10 ms. -/
  | flr (p : Port) (f : Func)
  /-- D3HOT_ENTRY (R498): The function enters D3hot; queue pairs drain and writes wait. -/
  | d3hotEntry (p : Port) (f : Func)
  /-- D3HOT_EXIT (R498): The function returns to D0 and waiting writes resume. -/
  | d3hotExit (p : Port) (f : Func)
  /-- PERST_ASSERT (R499): PERST_n falls: port link reset, epochs increment, partition kept or scrubbed. -/
  | perstAssert (p : Port)
  /-- HOT_RESET (R90): A hot reset acts as a port link reset. -/
  | hotReset (p : Port)
  /-- LINK_DOWN (R90): Link loss acts as a port link reset and sets LINK_DOWN. -/
  | linkDown (p : Port)
  /-- LINK_UP (R489): After PERST_n rises and the PHY is up, the port trains to its width and rate. -/
  | linkUp (p : Port) (lanes rate : Nat) (flit : Bool)
  /-- L1_ENTRY (R501): After 8 µs idle with ASPM L1 enabled the port requests L1. -/
  | l1Entry (p : Port) (sub : Nat)
  /-- L1_EXIT (R501): The link leaves L1 or a substate via CLKREQ_n or host traffic. -/
  | l1Exit (p : Port)
  /-- HOST_READ_COMPLETION (R458): A host read completion is used, re-issued on poison or ECRC, ends the item BOUNDS, or is discarded late. -/
  | hostReadCompletion (p : Port) (f : Func) (tok : BitVec 32) (off : Nat) (r : HostRead)
  /-- COMPLETION_TIMEOUT (R460): A host read's completion timeout expires and the item ends HOST_TIMEOUT. -/
  | completionTimeout (p : Port) (f : Func) (tok : BitVec 32) (off : Nat)
  /-- READ (R337): A REQ READ arrives at its destination NI and returns data along the DAT return route. -/
  | read (m : MeshMsg)
  /-- WRITE (R337): A REQ WRITE arrives and pairs with its DAT data. -/
  | write (m : MeshMsg) (data : List Byte)
  /-- DAT_PUSH (R327): A DAT push packet arrives in a reserved buffer at the destination. -/
  | datPush (m : MeshMsg) (rxq : Fin 4) (data : List Byte)
  /-- READ_DATA (R337): Read data arrives in the sender's response slot. -/
  | readData (m : MeshMsg) (data : List Byte)
  /-- WRITE_ACK (R337): A write acknowledgement arrives and frees the response slot. -/
  | writeAck (m : MeshMsg)
  /-- INVALIDATE (R145): An SNP invalidation clears a member's bucket valid bit and is answered with SNP_ACK. -/
  | invalidate (p : Port) (src dst : Fin 144) (table : Byte) (bucket : Nat)
  /-- SNP_ACK (R145): A member's acknowledgement of an invalidation arrives at the home. -/
  | snpAck (m : MeshMsg)
  /-- CREDIT (R338): A CREDIT arrives and restores reservation counters. -/
  | credit (m : MeshMsg)
  /-- ERROR (R327): An RSP ERROR carrying a status arrives for a request. -/
  | error (m : MeshMsg)
  /-- RESERVATION_GRANT (R337): A waiting send obtains its counters and response slot and leaves the NI. -/
  | reservationGrant (p : Port) (n : Nat)
  /-- FENCE (R343): FENCE(p) arrives at an NI, which stops granting sends for p. -/
  | fence (p : Port) (stop : Fin 144)
  /-- FENCE_ACK (R343): An NI's acknowledgement arrives; after all, Orlys writes routes, quotas and counters. -/
  | fenceAck (p : Port) (stop : Fin 144)
  /-- UNFENCE (R343): UNFENCE(p) arrives and the NI resumes granting. -/
  | unfence (p : Port) (stop : Fin 144)
  /-- FLIT_CRC_ERROR (R341): A flit fails its link CRC and is replayed; eight failures fence the link. -/
  | flitCrcError (l : LinkFlit)
  /-- DEVICE_ROUTE_REWRITE (R470): Once device VC 3 is idle, Orlys rewrites device routes around a fenced link. -/
  | deviceRouteRewrite
  /-- ERROR_DETECTED (R450): A detected error is corrected, contained, partition-fatal or device-fatal. -/
  | errorDetected (e : ErrorReport)
  /-- HYST_IDLE_EXPIRY (R370): A cluster's idle counter reaches HYST_IDLE and the cluster enters IDLE. -/
  | hystIdleExpiry (c : Cluster)
  /-- HYST_FLOOR_EXPIRY (R370): The counter reaches HYST_FLOOR and the cluster starts entry to its sleep floor. -/
  | hystFloorExpiry (c : Cluster)
  /-- UNIT_IDLE_ENTRY (R367): A shared unit idle 1,024 engine cycles enters IDLE. -/
  | unitIdleEntry (u : UnitId)
  /-- UNIT_OFF_ENTRY (R367): A decode or compression unit idle a further 1 ms enters OFF. -/
  | unitOffEntry (u : UnitId)
  /-- SLEEP_ENTRY_DONE (R368): After the local-port fence acknowledges, the domain gates and the ledger oper state changes. -/
  | sleepEntryDone (d : Domain)
  /-- CAP_EVALUATION (R397): Every 250 µs the power controller sets the cap setting from the effective cap. -/
  | capEvaluation (a : Activity)
  /-- OP_FREQUENCY_SWITCH (R366): After a voltage ramp the cluster switches frequency at a beat boundary. -/
  | opFrequencySwitch (c : Cluster)
  /-- PMBUS_TELEMETRY (R392): Every 1 ms Orlys reads rail voltages and currents; over-cap power steps the setting down. -/
  | pmbusTelemetry (r : List RailReading)
  /-- PMBUS_STATUS_POLL (R392): Every 10 ms Orlys reads STATUS_WORD and faults units of a failing rail. -/
  | pmbusStatusPoll (addr : Nat) (r : RailStatus)
  /-- SENSOR_SAMPLE (R402): Die sensors are read every 100 µs, driving trips and HBM throttle. -/
  | sensorSample (temps : List Int)
  /-- HBM_SENSOR_READ (R402): Orlys reads each HBM stack's sensor every 1 ms. -/
  | hbmSensorRead (temps : List Int)
  /-- THERMAL_STEP_DOWN (R403): Each ms at or above THROT lowers the thermal setting one step. -/
  | thermalStepDown (c : Cluster)
  /-- THERMAL_STEP_UP (R403): Each 10 ms at or below THROT - 3 °C raises the thermal setting one step. -/
  | thermalStepUp (c : Cluster)
  /-- THERMAL_TRIP (R405): A trip asserts THERMTRIP_n, gates every fast domain and logs. -/
  | thermalTrip (sensor : Nat) (temp : Int)
  /-- PWRBRK_FALL (R400): PWRBRK_n falls and the brake setting is forced within 1 µs. -/
  | pwrbrkFall
  /-- PWRBRK_LIFT (R400): PWRBRK_n high for 1 ms lifts its limit. -/
  | pwrbrkLift
  /-- VRHOT_FALL (R401): VRHOT_n falls; Orlys reads rail status and logs. -/
  | vrhotFall (hot : List (Nat × BitVec 16))
  /-- VRHOT_LIMIT_STEP (R401): Each ms while VRHOT_n is low the limit falls 25 W. -/
  | vrhotLimitStep
  /-- VRHOT_RECOVERY_STEP (R401): After 100 ms high, every 10 ms the limit rises 25 W. -/
  | vrhotRecoveryStep
  /-- HSTOP_FALL (R287): HSTOP_n low stops new delivery copies. -/
  | hstopFall (p : Port)
  /-- HSTOP_RISE (R287): HSTOP_n high lets deliveries resume. -/
  | hstopRise (p : Port)
  /-- POR_ASSERT (R448): POR_n asserted stops the device at once. -/
  | porAssert
  /-- POR_RELEASE (R443): Release of POR_n samples straps, clears time, sets cap and THROT and starts the boot timeline. -/
  | porRelease (floorSel : BitVec 3) (bootSrc : Bool)
  /-- LEDGER_INIT (R427): The ledger is initialised at t0 + 1 ms. -/
  | ledgerInit
  /-- BOOT_AUTHENTICATE (R440): The boot ROM authenticates an ORLYS_FW bank and starts boot firmware, with fallback. -/
  | bootAuthenticate
  /-- DEFAULT_FLOOR_VERIFY (R442): Boot firmware verifies the default floor and builds each port's shadow configuration. -/
  | defaultFloorVerify
  /-- RUNTIME_MODULES_START (R440): Runtime modules are checked and running; PLDM and Kyvel commands are answered. -/
  | runtimeModulesStart
  /-- PHY_BRINGUP (R443): Port n's PHY is brought up in its slot of the timeline. -/
  | phyBringup (p : Port)
  /-- RAIL_SWITCH_ON (R388): Orlys switches on the next PMBus rail once the previous reads within tolerance, or declares it missing. -/
  | railSwitchOn (a : RailAnswer)
  /-- HBM_INIT (R443): A pair of HBM stacks completes initialisation or is faulted. -/
  | hbmInit (pair : Fin 4) (okLo okHi : Bool)
  /-- DEFAULT_FLOOR_APPLY (R443): At step 12 the default floor is applied, keys made, partitions EMPTY and PORT_STATUS.ready set. -/
  | defaultFloorApply
  /-- TAP_RESET (R553): TRST_n low resets the TAP and returns pins to functional control. -/
  | tapReset
  /-- IDCODE (R551): JTAG instruction selecting the identification register. -/
  | idcode
  /-- SAMPLE_PRELOAD (R551): JTAG SAMPLE/PRELOAD instruction. -/
  | samplePreload (cells : List Bool)
  /-- EXTEST (R553): JTAG instruction driving pins from the boundary register while POR_n is low. -/
  | extest
  /-- EXTEST_PULSE (R553): IEEE 1149.6 pulse test of AC-coupled lanes while POR_n is low. -/
  | extestPulse
  /-- EXTEST_TRAIN (R553): IEEE 1149.6 train test of AC-coupled lanes while POR_n is low. -/
  | extestTrain
  /-- HIGHZ (R553): JTAG instruction releasing outputs while POR_n is low. -/
  | highz
  /-- JTAG_CLAMP (R553): JTAG CLAMP instruction holding pins from the boundary register while POR_n is low. -/
  | jtagClamp
  /-- BYPASS (R551): JTAG instruction selecting the bypass register, also for unlisted codes. -/
  | bypass (code : Byte)
  /-- CRYSTAL_EDGE (R376): At each rising crystal edge the time-base accumulator adds 40 × 2^32 + A, and pending TIME_ADJ writes and servo steps take effect. -/
  | crystalEdge (pps : Bool)
  /-- AON_CLOCK_START (R443): At t0 + 0.2 ms the AON clock runs and PPS_IN sampling starts. -/
  | aonClockStart
  /-- REMOVAL_OF_POWER (R81): Power, VDD_AON included, is removed: partition keys, the moraine log and the ledger history are lost, so the next start is a cold start. -/
  | removalOfPower
  /-- SLAB_ZEROING_DONE (R79): A scrub's or unload's slab zeroing, 20,480 tile cycles per tile, ends; the state is cleared, a new key is made and the partition becomes EMPTY. -/
  | slabZeroingDone (p : Port)
  /-- FLOOR_WRITE_DONE (R88): Step 4 of a floor apply ends: the budget rechecks run, IMAGE_STATE and LEDGER_CHANGE events are posted, and the floor owner's completion is posted last. -/
  | floorWriteDone
  deriving DecidableEq, Repr

end Sys2Proof
end

