-- ==== Sys2Proof/Decode.lean ====
section
/-! DEFINITION. The decoder over spec/opcode_table.json. No row of the table gives bits (every row's "fields" is empty
and none has "fixed"), so no word spells a command. The descriptors, stage words and plan instructions that the spec does
lay out in bits are decoded where the machine fetches them (Machine/Operands.lean, Machine/StageWord.lean,
Machine/PlanInstr.lean). -/

namespace Sys2Proof

/-- The command that a word spells by the table's bits: none, because the table gives no row any bits. -/
def decodeTableWord (_nbits _w : Nat) : Option Instr := none

end Sys2Proof
end

