-- ==== Sys2Proof/Config.lean ====
section
/-! DEFINITION. What one P7 fixes and the values its spec leaves open. A value that the spec leaves open is an opaque
constant with no body, applied to a counter that the step advances (State.free) or to what it depends on: nothing can be
proved of which value it is (log 7). -/

namespace Sys2Proof

/-- The two order codes (01 R26, R27). -/
inductive OrderCode where
  | plv7_288 | plv7_192
  deriving DecidableEq, Repr

/-- GB of HBM per stack (01 R26, Table 23.6). -/
def OrderCode.gbPerStack : OrderCode → Nat
  | .plv7_288 => 36 | .plv7_192 => 24

/-- GiB of each stack that a floor may assign (03 R70, Table 3.3). -/
def OrderCode.gibAssignable : OrderCode → Nat
  | .plv7_288 => 33 | .plv7_192 => 22

/-- Kyvel Vendor ID (Table 23.2). -/
def vendorId : Nat := 0x1E7C

/-- Bytes of one slab (01 R14). -/
def slabBytes : Nat := 20971520

/-- Bytes of one vector register (01 R17). -/
def vecBytes : Nat := 1024

/-- Entries of the moraine log (20 R471). -/
def moraineEntries : Nat := 4096

/-- Largest magnitude of the applied rate adjustment A (16 R376). -/
def rateLimit : Int := 34359738

/-- UNSPECIFIED: a byte of HBM that nothing has written since its partition's key was made (03 R557): it depends on the
partition, on how many keys the partition has had, and on the address. -/
opaque Config.hbmUnwritten : Nat → Nat → Nat → BitVec 8

/-- UNSPECIFIED: whether a beat that reads a vector written in the last 31 beats sees the old one (04 R121, Table 4.8). -/
opaque Config.seesOld : Nat → Bool

/-- UNSPECIFIED: the encoder's choice for the next block of a compressed stream (07 R175), a function of FORMAT, LEVEL, the
positions of items and FLUSH items so far, the dictionary, the input before the block, the block and whether it is the final
one: the bits of the block. It is used only where it decodes to the block's input and is no longer than the bound that the
spec sets (log 8). -/
opaque Config.encodeBlock :
  Nat → Nat → List Nat → List (BitVec 8) → List (BitVec 8) → List (BitVec 8) → Bool → List Bool

/-- UNSPECIFIED: a destination byte of a COMPRESS that ends NO_GAIN, by free value and offset (07 R182). -/
opaque Config.noGainByte : Nat → Nat → BitVec 8

/-- UNSPECIFIED: the symbol count of an ENUM instruction of a plan for Protocol Buffers, whose input carries no schema (06
Table 6.6; log 8). -/
opaque Config.symbolCount : BitVec 64 → Nat

/-- UNSPECIFIED: the byte offset that a reject entry gives for a record that has no place in the unwrapped input or whose
start cannot be read (06 Table 6.8): records of a compressed Avro block, records rejected with BLOCK_REST. It depends on the
input and on the record's place in it alone, so that equal items give equal entries (10 R250). -/
opaque Config.rejectOffset : List Byte → Nat → BitVec 64

/-- UNSPECIFIED: the TAG and the ADDR of a REQ or RSP flit whose KIND gives them nothing to hold, by KIND (14 Table 14.4): a
CREDIT or an SNP_ACK echoes no tag, and only a READ or WRITE has an address. -/
opaque Config.unusedTag : Nat → BitVec 16
opaque Config.unusedAddr : Nat → BitVec 40

/-- UNSPECIFIED: a payload byte of a DAT packet past the bytes that its READ asked for, by its place (14 Table 14.7). -/
opaque Config.packetPad : Nat → BitVec 8

/-- UNSPECIFIED: the length in ns of a TABLE_REPLACE pause (08 Table 8.7): how long the items in service take is not given
(log 14). -/
opaque Config.pauseLength : Nat → BitVec 32

/-- Result0 of an item that a unit written out at its end ends with LIMIT, BOUNDS or UNCORRECTABLE (05 R137, R138): the beat of a
flush that has no beat (log 95). Applied to the count of free values taken. -/
opaque Config.flushBeat : Nat → BitVec 32

/-- UNSPECIFIED: a byte that a management standard defines and this spec does not give (log 10). -/
opaque Config.standardByte : Nat → Nat → BitVec 8

/-- UNSPECIFIED: an ECDSA P-384 signature of the device over an SPDM transcript (18 R423): it depends on the key and on a
nonce. -/
opaque Config.deviceSignature : Nat → List Byte → List Byte

/-- UNSPECIFIED: header and prefix of the TLP that an AER error logs (22 R504): the commands carry no TLP. -/
opaque Config.tlpLog : Nat → BitVec 256

/-- UNSPECIFIED: raw boot ROM identity of SPDM measurement 1 (Table 18.4). -/
opaque Config.bootRomIdentity : Nat → BitVec 8

/-- Fused minimum security version of ORLYS_FW (18 R416); the spec gives no value. -/
opaque Config.fusedMinSecurity : BitVec 32

end Sys2Proof
end

