-- ==== Sys2Proof/Machine/Records.lean ====
section
/-! DEFINITION. The records the P7 holds: image sections (02 Tables 2.6 to 2.16), work items and completions (13 Tables
13.2 to 13.5, 15 Table 15.2), batch queues (12), mesh messages (14), events and moraine entries (13, 20), and the sessions
of Orlys (18). Plain data only. -/

namespace Sys2Proof.Machine

/-- Addressed memory: (address, byte) pairs at strictly rising addresses. -/
abbrev Mem := List Host.Cell

/-! ## Claque images -/

/-- A present PLACE record (Table 2.6). -/
structure Place where
  retain : Bool
  bar4 : Bool
  datVcs : Nat
  vfCount : Nat
  clusters : BitVec 16
  qpPf : Nat
  qpVf : Nat
  hbmBase : Nat
  hbmSize : Nat
  hbmWeight : Nat
  decodeWeight : Nat
  compressWeight : Nat
  gatherWeight : Nat
  msixPf : Nat
  msixVf : Nat
  admission : Nat
  flows : Nat
  firnRows : Nat
  keyHash : List Byte
  deriving DecidableEq, Repr

/-- A slab or mesh binding of a pass (Table 4.4). -/
structure Binding where
  kind : Nat
  reg : Nat
  param : Nat
  deriving DecidableEq, Repr

/-- A TILE_PROG record (Table 2.7) with its BINDINGS (Table 4.4). -/
structure TileProg where
  tile : Nat
  pipeline : Nat
  pass : Nat
  slots : Nat
  nextPass : Nat
  binds : List Binding
  passCtrl : Nat
  counts : Nat
  words : List (BitVec 64)
  deriving DecidableEq, Repr

/-- A CONST section (Table 2.8). -/
structure ConstSec where
  clusters : BitVec 16
  offset : Nat
  length : Nat
  tileMask : BitVec 8
  fill : Bool
  data : List Byte
  deriving DecidableEq, Repr

/-- A ROUTE record (Table 2.9). -/
structure Route where
  stop : Nat
  network : Nat
  entry : Nat
  route : BitVec 64
  deriving DecidableEq, Repr

/-- A QUOTA record (Table 2.10). -/
structure Quota where
  src : Nat
  dst : Nat
  network : Nat
  vc : Nat
  req : Nat
  rsp : Nat
  deriving DecidableEq, Repr

/-- A FIFO record (Table 2.11). -/
structure Fifo where
  cls : Nat
  kind : Nat
  depth : Nat
  slotBytes : Nat
  wmHigh : Nat
  wmLow : Nat
  wmHyst : Nat
  pins : Bool
  deriving DecidableEq, Repr

/-- A SCHED record (Table 2.12). -/
structure Sched where
  pipeline : Nat
  entryType : Nat
  entryUnit : Nat
  classes : Nat
  admission : Nat
  flows : Nat
  cont : Bool
  opcodes : Nat
  deriving DecidableEq, Repr

/-- A GATHER record (Table 2.13) with its TABLE_PARAMS (Table 8.2). -/
structure GatherRec where
  table : Nat
  classHot : Nat
  classCold : Nat
  rowWidth : Nat
  maxRows : Nat
  dataPage : Nat
  dirPage : Nat
  firnSlots : Nat
  hotFp16 : Bool
  coldFp16 : Bool
  firnBase : Nat
  raw : List Byte
  deriving DecidableEq, Repr

/-- A POWER record (Table 2.14). -/
structure PowerRec where
  cluster : Nat
  sleepFloor : Nat
  maxOp : Nat
  hystIdle : Nat
  hystFloor : Nat
  deriving DecidableEq, Repr

/-- A DECODE section (Table 2.15). -/
structure Plan where
  plan : Nat
  container : Nat
  columns : Nat
  params : List Byte
  instrs : List (BitVec 64)
  deriving DecidableEq, Repr

/-- A WARP section (Table 2.16); a point is an FP32 source x and y. -/
structure WarpMesh where
  mesh : Nat
  cols : Nat
  rows : Nat
  filter : Nat
  outW : Nat
  outH : Nat
  fill : BitVec 32
  units : BitVec 16
  points : List (BitVec 32 × BitVec 32)
  deriving DecidableEq, Repr

/-- The structure a PART image gives a partition (02, Layout and Section layouts). -/
structure PartImage where
  version : BitVec 64
  digest : List Byte
  progs : List TileProg
  consts : List ConstSec
  routes : List Route
  quotas : List Quota
  fifos : List Fifo
  scheds : List Sched
  plans : List Plan
  gathers : List GatherRec
  warps : List WarpMesh
  powers : List PowerRec
  /-- the image's bytes, for the recheck of a Budget change (Table 3.6) -/
  raw : List Byte
  deriving DecidableEq, Repr

/-- What a FLOOR image gives the device: six PLACE records, absent ones as `none`. -/
structure FloorImage where
  version : BitVec 64
  digest : List Byte
  places : Vector (Option Place) 6
  deriving DecidableEq, Repr

/-! ## Work items -/

/-- Status codes (Table 13.5). -/
inductive Status where
  | ok | partialDone | stopped | refused | aborted | hostTimeout | stateStale | noGain | malformed | staleDropped
  | unsupported | imageInvalid | notReady | ownerLost | uncorrectable | bounds | limit | badDescriptor | idle
  deriving DecidableEq, Repr

/-- States of a fetched item lacking a completion (Table 15.2). READY is not stored: it is `waiting` with every condition
of R350 met. `staged` is COMPLETING with the completion in the staging FIFO (13 R309). -/
inductive ItemState where
  | waiting | queued | inService | completing | staged
  deriving DecidableEq, Repr

/-- A pipeline context (10 R237, R242). -/
structure RimeCtx where
  seed : BitVec 64
  epoch : BitVec 32
  shuffleN : Nat
  k0 : BitVec 32
  k1 : BitVec 32
  k2 : BitVec 32
  k3 : BitVec 32
  deriving DecidableEq, Repr

/-- Runtime descriptor of an embedding table (08 R192, R197): region pages, rows, active half (false A), valid bits, and
the pause of a TABLE_REPLACE SWAP with the item that holds it. -/
structure GatherRun where
  table : Nat
  dataPage : Nat
  dirPage : Nat
  rows : Nat
  active : Bool
  validA : Bool
  validB : Bool
  pause : Option Nat
  deriving DecidableEq, Repr

/-- What the P7 fills into the tag of a sample that comes from a frame (12 Table 12.4, 11 R257). -/
structure FrameTag where
  maxAge : BitVec 32
  capture : BitVec 64
  untimed : Bool
  admitted : Bool
  deriving DecidableEq, Repr

/-- The values a dispatching item gives a pass (04 R98). -/
structure PassArgs where
  b : Nat
  d : Nat
  s0 : Nat
  e0 : Nat
  deriving DecidableEq, Repr

/-- How the decode of an ingest item ended (06 Table 6.9): the input's end; a rejected record in STOP mode, at its position,
with the reason; a fault at an offset. -/
inductive IngestEnd where
  | whole
  | stopped (at' reason : Nat)
  | malformed (off : Nat)
  deriving DecidableEq, Repr

/-- The block of an Avro file being decoded (06 R154, R161): the bytes left of its data, where they stand in the input (none
for a block that was compressed), where its data faults, the records left, and whether an earlier record broke it. -/
structure AvroBlock where
  rest : List Byte
  pos : Option Nat
  fault : Option Nat
  left : Nat
  broken : Bool
  deriving DecidableEq, Repr

/-- Progress of an ingest item (06 R149, R158, R159). `data` is the unwrapped input from offset `pos` on; it is `whole` where
the wrapper held to its end. An Avro file has its codec, sync marker, symbol counts and block; a raw column block its rows and
its columns: output column, width, offset. `place` is the position of the next record. `lanes` are the records of the group
being filled, `groups` the groups of the window written; a window that is `ready` waits for its dispatch. `expanded` counts
the bytes decompressed. -/
structure IngestRun where
  data : List Byte
  whole : Bool
  pos : Nat
  codec : Nat
  sync : List Byte
  symbols : List (Nat × Nat)
  block : Option AvroBlock
  rows : Nat
  cols : List (Nat × Nat × Nat)
  place : Nat
  kept : Nat
  rejected : Nat
  entries : Nat
  lanes : List (List (Nat × Nat))
  groups : Nat
  window : Nat
  ready : Bool
  ended : Option IngestEnd
  /-- windows dispatched and not finished: window number, tiles still running -/
  busy : List (Nat × List Nat)
  expanded : Nat
  deriving DecidableEq, Repr

/-- A fetched item that lacks a posted completion (13 R302, 15 R347 to R349). -/
structure Item where
  key : Nat
  fn : Func
  qp : Nat
  epoch : BitVec 32
  desc : List Byte
  /-- admission sequence, for a pipeline opcode that was admitted (15 R348) -/
  seq : Option Nat
  /-- the pipeline whose FLOWS the item's flow-table entry counts against (13 R305) -/
  flowPipe : Nat
  st : ItemState
  unit : Option UnitId
  ctx : Option RimeCtx
  snap : List GatherRun
  /-- host bytes as its read completions delivered them (20 R558) -/
  delivered : Mem
  /-- re-issues made, by offset of the read (20 R457) -/
  reissued : List (Nat × Nat)
  status : Status
  r0 : BitVec 32
  r1 : BitVec 32
  engine : UnitId
  /-- an ABORT's target, whose completion comes first (13 R313) -/
  waitsFor : Option Nat
  /-- the engine step is done and tile passes of the item remain (04 R99, 11 R262, 06 R159) -/
  stepsLeft : Nat
  /-- a continuation pass is still to be dispatched: tile and arguments (04 R99) -/
  cont : Option (Nat × PassArgs)
  frame : Option FrameTag
  ingest : Option IngestRun
  /-- its function's epoch changed and it runs on without a completion (20 R464) -/
  orphan : Bool
  /-- how an ABORT or drain ended it (Table 13.6): 0 not, 1 before service, 2 in service -/
  abortedAt : Nat
  /-- when an IMAGE_COMMIT arrived at the commit queue: the count of arrivals before it (02 R53) -/
  arrival : Option Nat
  /-- a failed host read ended it (20 R460) -/
  readFailed : Bool
  deriving DecidableEq, Repr

/-- An open compression stream (07 R176 to R180; log 13): its direction, format, level and flow, its CHECKSUM flag, its
dictionary, every input byte it has taken and the input positions at which items ended. A compressor also has the count of
input bytes not yet in a finished block and every bit it has emitted, those of an unfinished byte among them; a decompressor
the output bytes written. -/
structure Stream where
  compress : Bool
  format : Nat
  level : Nat
  flow : Nat
  checksum : Bool
  dict : List Byte
  input : List Byte
  marks : List Nat
  held : Nat
  emitted : List Bool
  written : Nat
  deriving DecidableEq, Repr

/-! ## Tiles and the mesh -/

/-- A pass dispatched to a tile: the item it belongs to, its pipeline and arguments (04 R98, 15 R347). -/
structure TileWork where
  port : Port
  key : Nat
  pipeline : Nat
  args : PassArgs
  window : Option Nat
  frame : Option FrameTag
  deriving DecidableEq, Repr

/-- A pass in progress (04 R97 to R100, R117, R121): the pass index and the next beat, B standing for the stores after the
last beat. `buffers` holds the bits of each binding's output stream that no vector has taken, as 4-bit digits; `counts` the
elements that each COMPACT word appended; `emitted` the vectors that each binding's stream has emitted. `recent` holds the
slab vectors that the last 31 beats wrote, each with the beat and the bytes it had before. `stores` holds the boundary
stores of the pass (05 R127). -/
structure PassRun where
  work : TileWork
  pass : Nat
  beat : Nat
  started : Bool
  buffers : List (List Nat)
  counts : List Nat
  emitted : List Nat
  recent : List (Nat × Nat × List Byte)
  stores : List (Nat × List Byte)
  deriving DecidableEq, Repr

/-- A staging buffer of a tile that is not empty (05 R136, R137): its table, its grace partition and the pairs in it; the items
of the partition that put pairs into it, each of which writes it out when it ends. -/
structure Staging where
  port : Port
  table : Nat
  grace : Nat
  pairs : Nat
  users : List Nat
  deriving DecidableEq, Repr

/-- A BAR4 access that waits for its clusters to reach RUN (16 R373). -/
inductive WindowAccess where
  | read (off len : Nat)
  | write (off : Nat) (bytes : List Byte)
  deriving DecidableEq, Repr

/-- A packet in a DAT receive queue of a tile stop. -/
structure RxPacket where
  part : Nat
  src : Nat
  vc : Nat
  frame : Option FrameTag
  data : List Byte
  deriving DecidableEq, Repr

/-- A sample that an assembly tile discards: its source, its VC and the payload bytes to come (12 R273). -/
structure Dropping where
  src : Nat
  vc : Nat
  left : Nat
  deriving DecidableEq, Repr

/-- A request in a reserved buffer of a tile stop that the tile has not taken (14 R345): a READ of a range, or of a replica
bucket by table and bucket, a WRITE with its data, an INVALIDATE from a stop on a VC. -/
inductive Held where
  | read (m : MeshMsg) (bucket : Option (Nat × Nat))
  | write (m : MeshMsg) (data : List Byte)
  | invalidate (src vc table bucket : Nat)
  deriving DecidableEq, Repr

/-- A tile (04 Table 4.1): VR0 to VR63, PM1 to PM7, the pass in progress, the dispatch queue, the receive queues, the grace
stager's buffers that hold pairs (05 Table 5.1), the samples that the assembly tile discards, and the requests that its stop
holds, by partition, oldest first. -/
structure TileState where
  vr : Vector (BitVec 8192) 64
  pm : Vector (BitVec 2048) 7
  run : Option PassRun
  queue : List TileWork
  rxq : Vector (List RxPacket) 4
  staging : List Staging
  dropping : List Dropping
  held : List (Port × Held)
  deriving DecidableEq, Repr

/-- What a message is for: of a tile, a packet of an OUT_MESH binding, a unit of a GRACE table for a stack, an invalidation or
a refetch of a replica bucket; of any other agent, a READ, a WRITE, the data of a WRITE, a packet (Table 14.7). -/
inductive SendKind where
  | push
  | spill (stack off : Nat)
  | snoop (table bucket : Nat)
  | fetch (table bucket : Nat)
  | read
  | write
  | writeData
  | packet
  deriving DecidableEq, Repr

/-- A message handed to an NI (14 R337): the tile that sends it (0 for another agent, of which no rule asks it), the item it
belongs to where it is a tile's, its route entry and quota, its TAG once it has arrived, its payload. A stage chain's message
holds its beat until it is granted (`beat`). Once sent, it stays until its buffer's credit has come back and, when it expects
one, its response has been taken. -/
structure Send where
  kind : SendKind
  tile : Nat
  key : Option Nat
  src : Nat
  dst : Nat
  network : Nat
  entry : Nat
  vc : Nat
  tag : BitVec 16
  rxq : Nat
  frame : Option FrameTag
  data : List Byte
  beat : Bool
  granted : Bool
  arrived : Bool
  credited : Bool
  answered : Bool
  deriving DecidableEq, Repr

/-- Valid bits of the replica buckets of a tile (05 R144): `lost` is the state of every bucket but those listed, by table and
bucket. -/
structure Replica where
  tile : Nat
  lost : Bool
  flips : List (Nat × Nat)
  deriving DecidableEq, Repr

/-- What an NI keeps of one QUOTA record: the buffers and response slots it grants, and those taken (14 R337). -/
structure QuotaUse where
  src : Nat
  dst : Nat
  network : Nat
  vc : Nat
  req : Nat
  rsp : Nat
  taken : Nat
  slots : Nat
  deriving DecidableEq, Repr

/-! ## Batch queues (12) -/

/-- A layout entry (Table 12.3). -/
structure LayoutEntry where
  name : Nat
  dtype : Nat
  dimsUsed : Nat
  dim1 : Nat
  dim2 : Nat
  sampleLen : Nat
  deriving DecidableEq, Repr

/-- The layout block as read at enable (Table 12.2). -/
structure Layout where
  shuffled : Bool
  packed : Bool
  split : Bool
  randomCrop : Bool
  pipeline : Nat
  tensors : List LayoutEntry
  s : Nat
  r : Nat
  l : Nat
  pad : BitVec 32
  bankOffset : Nat
  bitmapOffset : Nat
  ringAddr : Nat
  storeOffset : Nat
  storeStride : Nat
  deriving DecidableEq, Repr

/-- An ordinal of a bank: its sample, whether it is VOID, its frame tag, and where its elements lie. -/
structure Ordinal where
  sample : Nat
  void : Bool
  frame : Option FrameTag
  row : Nat
  col : Nat
  len : Nat
  deriving DecidableEq, Repr

/-- A bank of a batch queue: ordinals placed, `row` and `used` of R278, the FIRST_POSITION of its pack, and, once closed,
its SEQUENCE. -/
structure Bank where
  ordinals : List Ordinal
  row : Nat
  used : Nat
  firstPos : Nat
  closedSeq : Option Nat
  deriving DecidableEq, Repr

/-- A sample arriving at an assembly tile from a stop on a virtual channel: its tag, the payload bytes so far and the bytes
it needs. -/
structure Arriving where
  src : Nat
  vc : Nat
  sample : Nat
  void : Bool
  length : Nat
  frame : Option FrameTag
  payload : List Byte
  need : Nat
  deriving DecidableEq, Repr

/-- A batch queue (Tables 23.12 to 23.16, 12 R268 to R290). -/
structure BatchQueue where
  /-- BQ_CTRL as last written -/
  ctrl : BitVec 64
  ringBase : BitVec 64
  ringSize : Nat
  wmHigh : Nat
  wmLow : Nat
  wmHyst : Nat
  enabled : Bool
  cause : Nat
  layout : Option Layout
  rel : Nat
  mark : Option Nat
  read : Nat
  tail : Nat
  credits : Nat
  delivered : Nat
  /-- delivered and unpopped packs, oldest first: SEQUENCE and host slot (R289) -/
  unpopped : List (Nat × Nat)
  qhi : Bool
  qlo : Bool
  fill : Bool
  banks : Vector Bank 2
  /-- samples being received, in the order in which their first vectors were accepted (R274) -/
  arriving : List Arriving
  /-- SHUFFLED position counter p -/
  pos : Nat
  /-- EPOCH_SET waiting for the old-epoch bank to close (R276) -/
  epochPending : Bool
  /-- context of the shuffle in force for the bank being filled -/
  ctx : Option RimeCtx
  /-- a delivery copy under way: SEQUENCE and host slot -/
  copying : Option (Nat × Nat)
  deriving DecidableEq, Repr

/-! ## Sessions, commits, events, messages -/

/-- Where an image session came from: an IMAGE_BEGIN of a port's PF, or FLOOR_BEGIN on the management path (18 R422). -/
inductive Loader where
  | port (p : Port)
  | mgmt
  deriving DecidableEq, Repr

/-- Session state (Table 2.19). -/
inductive SessionState where
  | open | queued | verifying
  deriving DecidableEq, Repr

/-- An image session with its staging area (02 R51 to R53, R463: its owner's epoch). -/
structure Session where
  no : BitVec 32
  floor : Bool
  target : Nat
  size : Nat
  digest : List Byte
  bytes : List Byte
  st : SessionState
  epoch : BitVec 32
  deriving DecidableEq, Repr

/-- Who asked for a commit and is to be answered. -/
inductive Asker where
  /-- item k of port p -/
  | item (p : Port) (k : Nat)
  /-- a Kyvel command of the management path -/
  | kyvel (tr : Transport)
  /-- nobody: the asker's epoch changed, or start-up asked -/
  | nobody
  deriving DecidableEq, Repr

/-- What a commit verifies: a session, or a firmware component (18 R416). -/
inductive CommitKind where
  | session (ld : Loader)
  | firmware (floor : Bool)
  deriving DecidableEq, Repr

/-- An entry of the device-wide commit queue (02 R53). -/
structure Commit where
  /-- arrivals before it (log 61) -/
  arrival : Nat
  kind : CommitKind
  asker : Asker
  abortInFlight : Bool
  verifyOnly : Bool
  expect : BitVec 64
  deriving DecidableEq, Repr

/-- Port number of a commit, 6 for the management port, which comes after HP5 (02 R53). -/
def Commit.rank (c : Commit) : Nat :=
  match c.kind with
  | .session (.port p) => p.val
  | _ => 6

/-- Commit a is served before commit b: it arrived earlier, or in the same mesh cycle at a lower port (02 R53). -/
def Commit.before (a b : Commit) : Bool := a.arrival < b.arrival || (a.arrival == b.arrival && a.rank < b.rank)

/-- Put a commit in its place in the queue, behind those served before it. -/
def placeCommit (c : Commit) : List Commit → List Commit
  | [] => [c]
  | d :: ds => if c.before d then c :: d :: ds else d :: placeCommit c ds

/-- An image that passed its checks and has not reached its point of no return, with the results its completion takes. -/
inductive Verified where
  | part (p : Port) (img : PartImage) (c : Commit)
  | floor (img : FloorImage) (c : Commit)
  deriving DecidableEq, Repr

/-- The commit of a verified image. -/
def Verified.commit : Verified → Commit
  | .part _ _ c => c
  | .floor _ c => c

/-- What a partition drains for (02 Table 2.21, 03 Tables 3.6, 3.7). -/
inductive OpKind where
  | apply | unload | scrub | budget
  deriving DecidableEq, Repr

/-- How far it has come. -/
inductive OpPhase where
  | draining | fencing | writing | zeroing | done
  deriving DecidableEq, Repr

/-- An apply, unload, scrub or Budget drain under way. -/
structure PartOp where
  kind : OpKind
  phase : OpPhase
  abortInFlight : Bool
  image : Option PartImage
  asker : Asker
  /-- stops that acknowledged FENCE(p) -/
  acks : List Nat
  /-- the port epoch of a scrub has been incremented -/
  bumped : Bool
  deriving DecidableEq, Repr

/-- Classes of floor change (Table 3.6), mildest first. -/
inductive FloorClass where
  | none | live | shape | budget | scrub
  deriving DecidableEq, Repr

/-- A floor past its point of no return (Table 3.7). -/
structure FloorChange where
  image : FloorImage
  commit : Commit
  classes : Vector FloorClass 6
  /-- FLOOR_APPLY has started the drains -/
  started : Bool
  deriving DecidableEq, Repr

/-- Event classes (Table 13.11). -/
inductive EventClass where
  | alarmLow | alarmHigh | errorCorrected | errorContained | partitionFatal | ledgerChange | ownerLost | thermal | powerCap
  | imageState | frameDropSummary | dmaLateDiscard
  deriving DecidableEq, Repr

/-- A moraine entry (Table 20.9). -/
structure Moraine where
  seq : BitVec 32
  kind : Nat
  part : Nat
  start : BitVec 16
  time : BitVec 64
  word : BitVec 64
  data : BitVec 64
  deriving DecidableEq, Repr

/-- A lock or session whose owner's epoch changed (Table 20.7): its kind and the owner's epoch before the change. -/
structure Orphan where
  kind : Nat
  epoch : BitVec 32
  table : Nat
  deriving DecidableEq, Repr

/-- The PMBus commands that the P7 uses (17 R390). -/
inductive PmbusCommand where
  | operation (on : Bool)
  | clearFaults | voutMode | voutCommand | statusWord | readVin | readVout | readIout | readTemperature1
  deriving DecidableEq, Repr

/-- What leaves the device by a message of its own: interrupts, port messages, management answers. -/
inductive Msg where
  /-- MSI-X write of vector v of a function, to its table's address and data (13 R311) -/
  | msix (p : Port) (f : Func) (v : Nat) (addr : BitVec 64) (data : BitVec 32)
  /-- a memory read or write request of a function: address, bytes, Relaxed Ordering of a write (22 R490, R491) -/
  | memRead (p : Port) (f : Func) (addr n : Nat)
  | memWrite (p : Port) (f : Func) (addr n : Nat) (relaxed : Bool)
  /-- LTR message, active or inactive (22 R502) -/
  | ltr (p : Port) (active : Bool)
  /-- PM_PME message (22 R500) -/
  | pme (p : Port) (f : Func)
  /-- fatal AER signal on a port (20 R456, 22 R504) -/
  | fatalAer (p : Port)
  /-- a Kyvel answer: command code, status, response data (18 R410) -/
  | kyvel (tr : Transport) (code : Nat) (st : Status) (data : List Byte)
  /-- an MCTP control answer: completion code and data -/
  | mctp (tr : Transport) (code : Nat) (data : List Byte)
  /-- a PLDM answer: completion code and data -/
  | pldm (tr : Transport) (code : Nat) (data : List Byte)
  /-- a PLDM request that the P7 itself sends in a firmware update: command code and data (18 R415, R416) -/
  | pldmRequest (tr : Transport) (cmd : Nat) (data : List Byte)
  /-- a DOE answer: SPDM or IDE_KM data -/
  | doe (p : Port) (data : List Byte)
  /-- a configuration completion -/
  | config (p : Port) (f : Func) (v : BitVec 32)
  /-- a PMBus transaction with a rail's regulator (17 R390) -/
  | pmbus (addr : Nat) (c : PmbusCommand)
  /-- completion of a BAR4 read that waited for RUN (16 R373) -/
  | window (p : Port) (bytes : List Byte)
  /-- a REQ or RSP flit leaving an NI, by network number (14 Table 14.4) -/
  | flit (net : Nat) (bits : BitVec 160)
  /-- a DAT packet leaving an NI: its eight flits, the sideband above the payload (14 R327) -/
  | packet (flits : List (BitVec 1056))
  deriving DecidableEq, Repr

/-- The value a read returned: none yet, a register, or bytes. -/
inductive ReadValue where
  | none
  | reg (v : BitVec 64)
  | bytes (bs : List Byte)
  deriving DecidableEq, Repr

end Sys2Proof.Machine
end

