-- ==== Sys2Proof/Machine/Bytes.lean ====
section
/-! DEFINITION. Byte order and addressed memory: fields are little-endian (00 R1 to R3), octet strings big-endian (02 R39),
memory is a strictly rising list of cells. -/

namespace Sys2Proof.Machine

/-- The unsigned integer of little-endian bytes (R1). -/
def leNat : List Byte → Nat
  | [] => 0
  | b :: bs => b.toNat + 256 * leNat bs

/-- The n little-endian bytes of an integer (R1). -/
def leBytes : Nat → Nat → List Byte
  | 0, _ => []
  | n + 1, v => BitVec.ofNat 8 v :: leBytes n (v / 256)

/-- The integer of an octet string, first octet most significant (R39). -/
def beNat (bs : List Byte) : Nat := bs.foldl (fun a b => a * 256 + b.toNat) 0

/-- The n octets of an integer, most significant first. -/
def beBytes (n v : Nat) : List Byte := (leBytes n v).reverse

/-- n bytes of a structure from an offset, short where the structure ends. -/
def slice (bs : List Byte) (off n : Nat) : List Byte := (bs.drop off).take n

/-- The field of n bytes at an offset. -/
def field (bs : List Byte) (off n : Nat) : Nat := leNat (slice bs off n)

/-- Bits [lo + n - 1 : lo] of an integer. -/
def bitsOf (v lo n : Nat) : Nat := v / 2 ^ lo % 2 ^ n

/-- Whether every byte of `bs` in [off, off + n) is zero. -/
def zeros (bs : List Byte) (off n : Nat) : Bool := (slice bs off n).all (· == 0)

/-- `bs` followed by zeros up to n bytes. -/
def padTo (n : Nat) (bs : List Byte) : List Byte := bs ++ List.replicate (n - bs.length) 0

/-- `v` rounded up to a multiple of `m`. -/
def roundUp (v m : Nat) : Nat := (v + m - 1) / m * m

/-- ceil(v / m). -/
def ceilDiv (v m : Nat) : Nat := (v + m - 1) / m

/-- The low n bits of `v` read as a two's-complement integer (R4). -/
def toSigned (n v : Nat) : Int := if v % 2 ^ n < 2 ^ (n - 1) then (v % 2 ^ n : Nat) else (v % 2 ^ n : Nat) - (2 ^ n : Nat)

/-- The n-bit two's-complement pattern of an integer. -/
def ofSigned (n : Nat) (v : Int) : Nat := (v % (2 ^ n : Nat)).toNat

/-- Clamp to a range. -/
def clampInt (v lo hi : Int) : Int := if v < lo then lo else if hi < v then hi else v

/-- The cell listed at an address. -/
def Mem.find? : Mem → Nat → Option Byte
  | [], _ => none
  | (a, b) :: m, x => if a = x then some b else if x < a then none else Mem.find? m x

/-- List a byte at an address, in its place. -/
def Mem.put : Mem → Nat → Byte → Mem
  | [], x, v => [(x, v)]
  | (a, b) :: m, x, v =>
    if a = x then (x, v) :: m else if x < a then (x, v) :: (a, b) :: m else (a, b) :: Mem.put m x v

/-- Unlist an address. -/
def Mem.del : Mem → Nat → Mem
  | [], _ => []
  | (a, b) :: m, x => if a = x then m else if x < a then (a, b) :: m else (a, b) :: Mem.del m x

/-- Read where an unlisted byte is zero. -/
def Mem.get (m : Mem) (x : Nat) : Byte := (m.find? x).getD 0

/-- Write where an unlisted byte is zero: writing zero unlists. -/
def Mem.set (m : Mem) (x : Nat) (v : Byte) : Mem := if v = 0 then m.del x else m.put x v

/-- Read n bytes. -/
def Mem.gets (m : Mem) (x n : Nat) : List Byte := (List.range n).map fun i => m.get (x + i)

/-- Write bytes from an address on. -/
def Mem.sets : Mem → Nat → List Byte → Mem
  | m, _, [] => m
  | m, x, b :: bs => Mem.sets (m.set x b) (x + 1) bs

/-- List bytes from an address on, zeros too. -/
def Mem.puts : Mem → Nat → List Byte → Mem
  | m, _, [] => m
  | m, x, b :: bs => Mem.puts (m.put x b) (x + 1) bs

/-- Unlist [lo, hi). -/
def Mem.clear (m : Mem) (lo hi : Nat) : Mem := m.filter fun c => !(lo ≤ c.1 && c.1 < hi)

/-- Addresses strictly rise. -/
def Mem.sorted : Mem → Bool
  | [] => true
  | c :: m => m.all (fun d => c.1 < d.1) && Mem.sorted m

/-- The canonical form of a memory whose unlisted bytes are zero: addresses strictly rise and no zero is listed. -/
def Mem.wf (m : Mem) : Bool := m.sorted && m.all (fun c => c.2 != 0)

end Sys2Proof.Machine
end

