-- ==== Sys2Proof/Machine/Rime.lean ====
section
/-! DEFINITION. The Rime generator (10 R235 to R247): the mixer, the key of a pipeline context, and the shuffle. -/

namespace Sys2Proof.Machine

/-- The four output words of the mixer, or the four words of a key. -/
structure Quad where
  w0 : BitVec 32
  w1 : BitVec 32
  w2 : BitVec 32
  w3 : BitVec 32
  deriving DecidableEq, Repr

/-- Word `r mod 4` of a key. -/
def Quad.get (k : Quad) (r : Nat) : BitVec 32 :=
  match r % 4 with
  | 0 => k.w0
  | 1 => k.w1
  | 2 => k.w2
  | _ => k.w3

/-- One round of the mixer (R236). -/
def rimeRound (k : Quad) (r : Nat) (x : Quad) : Quad :=
  let x0 := x.w0 + x.w1 + k.get r
  let x3 := (x.w3 ^^^ x0).rotateLeft 13
  let x2 := x.w2 + x3
  let x1 := (x.w1 ^^^ x2).rotateLeft 17
  let x0 := x0 + x1
  let x3 := (x3 ^^^ x0).rotateLeft 5
  let x2 := x2 + x3 + BitVec.ofNat 32 (r * 0x6C8E9CF5)
  let x1 := (x1 ^^^ x2).rotateLeft 24
  { w0 := x0, w1 := x1, w2 := x2, w3 := x3 }

/-- Rounds `r` to `r + n - 1`. -/
def rimeRounds (k : Quad) : Nat → Nat → Quad → Quad
  | 0, _, x => x
  | n + 1, r, x => rimeRounds k n (r + 1) (rimeRound k r x)

/-- The mixer rime_block (R236): ten rounds, then the key is mixed in. -/
def rimeBlock (k : Quad) (c : BitVec 128) : Quad :=
  let x := rimeRounds k 10 0
    { w0 := c.extractLsb' 0 32, w1 := c.extractLsb' 32 32, w2 := c.extractLsb' 64 32, w3 := c.extractLsb' 96 32 }
  { w0 := x.w0 ^^^ k.w0, w1 := x.w1 ^^^ k.w1, w2 := x.w2 ^^^ k.w2, w3 := x.w3 ^^^ k.w3 }

/-- The counter of (stream, sample, element, draw) (R235). -/
def rimeCounter (stream sample element draw : Nat) : BitVec 128 :=
  BitVec.ofNat 128 (stream * 2 ^ 112 + sample * 2 ^ 64 + element * 2 ^ 24 + draw)

/-- The key of a context (R241). -/
def RimeCtx.key (x : RimeCtx) : Quad := { w0 := x.k0, w1 := x.k1, w2 := x.k2, w3 := x.k3 }

/-- rime(stream t, sample s, element e, draw d) under a context's key (R235, R241). -/
def RimeCtx.rime (x : RimeCtx) (t s e d : Nat) : Quad := rimeBlock x.key (rimeCounter t s e d)

/-- A context of given SEED, EPOCH and SHUFFLE_N, its key derived by R237. -/
def RimeCtx.make (seed : BitVec 64) (epoch : BitVec 32) (n : Nat) : RimeCtx :=
  let c : BitVec 128 := (0x4B595645 : BitVec 32) ++ epoch ++ seed
  let k := rimeBlock { w0 := 0, w1 := 0, w2 := 0, w3 := 0 } c
  { seed := seed, epoch := epoch, shuffleN := n, k0 := k.w0, k1 := k.w1, k2 := k.w2, k3 := k.w3 }

/-- Smallest `b` with `n ≤ 2 ^ b`: ceil(log2 n) for `n ≥ 1`. -/
def ceilLog2 (n : Nat) : Nat := if n ≤ 1 then 0 else Nat.log2 (n - 1) + 1

/-- One Feistel round of the shuffle (R247). -/
def feistelRound (x : RimeCtx) (h i : Nat) (lr : Nat × Nat) : Nat × Nat :=
  let f := (x.rime 0x0001 i lr.2 0).w0.toNat % 2 ^ h
  (lr.2, Nat.xor lr.1 f)

/-- feistel(x, h) (R247). -/
def feistel (x : RimeCtx) (h v : Nat) : Nat :=
  let lr := (List.range 4).foldl (fun a i => feistelRound x h i a) (v / 2 ^ h, v % 2 ^ h)
  lr.1 * 2 ^ h + lr.2

/-- Half-width of the shuffle's domain (R247): b is even and at least 2. -/
def shuffleHalf (n : Nat) : Nat := (max 2 (ceilLog2 n) + 1) / 2

/-- The walk of R247: feistel until the value is below N, counting evaluations; `fuel` bounds it by the size of the
domain, within which the walk always ends. -/
def shuffleWalk (x : RimeCtx) (n h : Nat) : Nat → Nat → Nat → Nat × Nat
  | 0, y, k => (y, k)
  | fuel + 1, y, k =>
    let y' := feistel x h y
    if y' < n then (y', k + 1) else shuffleWalk x n h fuel y' (k + 1)

/-- π(p) and the Feistel evaluations it took (R247). -/
def shufflePi (x : RimeCtx) (n p : Nat) : Nat × Nat :=
  let h := shuffleHalf n
  shuffleWalk x n h (2 ^ (2 * h)) p 0

/-- The reset value of a context (R242). -/
def RimeCtx.reset : RimeCtx := RimeCtx.make 0 0 0

end Sys2Proof.Machine
end

