-- ==== Sys2Proof/Machine/State.lean ====
section
/-! DEFINITION. The state of the P7: everything the spec gives the block, as plain data, and its value right after a cold
release of POR_n. INVENTORY.md lists every field with the rule that names it and its reset value. -/

namespace Sys2Proof.Machine

/-- Why the block stops. No command of the table is left without an effect, so the only stop is a command that no host,
board or unit can form. -/
inductive Fault where
  /-- Raised by no meaning: the spec gives every command an effect in every state (an error is a status, a cause, an event
  or a ledger bit). Safe. -/
  | none
  deriving DecidableEq, Repr

/-- Why a command has no meaning in the model. -/
inductive Refusal where
  /-- Raised by the arm of a command whose meaning is not written yet; safe: nothing is claimed of it. -/
  | notModelled (mnemonic : String)
  deriving DecidableEq, Repr

/-! ## Ledger -/

/-- Admin states (Table 18.9). -/
inductive Admin where
  | inService | draining | outOfService | maintenance
  deriving DecidableEq, Repr

/-- Oper states (Table 18.9). -/
inductive Oper where
  | off | retain | idle | run | faulted | fenced
  deriving DecidableEq, Repr

/-- A unit's ledger word (18 R426) and what fault detection and drains keep beside it (20 R452, R472, 18 R429, R431). -/
structure LedgerWord where
  gen : BitVec 32
  admin : Admin
  oper : Oper
  owner : BitVec 8
  fault : BitVec 16
  /-- the state a drain moves toward -/
  drainTo : Admin
  /-- corrected errors since the last start or FAULT_CLEAR -/
  ceCount : Nat
  /-- granule of the latest corrected error, of a unit whose errors have a place (20 R455) -/
  ceLast : Option Nat
  /-- corrections since the last start, for R472 -/
  ceSeen : Nat
  /-- a FAULT_CLEAR self-test runs: whom to answer -/
  selfTest : Option MgmtSrc
  deriving DecidableEq, Repr

/-! ## Device -/

/-- Power-up (Table 19.4). -/
structure Boot where
  aonClock : Bool
  ledgerInit : Bool
  fwRunning : Bool
  recovery : Bool
  floorChecked : Bool
  modules : Bool
  ready : Bool
  fatal : Bool
  /-- bank booted, and whether it is the fallback -/
  bank : Nat
  fallback : Bool
  floorFallback : Bool
  defaultFloor : Option FloorImage
  railsOn : Nat
  railMissing : Option Nat
  hbmPairs : Nat
  hbmFailed : BitVec 8
  /-- power left the AON domain since the ledger was last initialised -/
  cold : Bool
  /-- what verification read of the ORLYS_FW that was booted: an update of its bank does not change it (18 R424) -/
  running : Option FwMeta
  deriving DecidableEq, Repr

/-- An ORLYS_FW bank: what verification reads of it, or marked invalid (log 11), and the bytes that an update wrote. -/
structure FwBank where
  valid : Bool
  info : Option FwMeta
  raw : List Byte
  deriving DecidableEq, Repr

/-- The boot flash (Table 19.2): both banks of each component and the bank record. -/
structure Flash where
  fw : Vector FwBank 2
  floor : Vector (List Byte) 2
  floorValid : Vector Bool 2
  fwActive : Fin 2
  fwPending : Option (Fin 2)
  floorActive : Fin 2
  floorPending : Option (Fin 2)
  deriving DecidableEq, Repr

/-- The time base (16 R376 to R383). -/
structure TimeBase where
  acc : BitVec 96
  a : Int
  i : Int
  valid : Bool
  discipline : Bool
  locked : Bool
  holdover : Bool
  /-- SET_AT_PPS armed: seconds -/
  ppsPending : Option Nat
  lastPhase : Int
  /-- device time of the last accepted edge -/
  lastEdge : Option (BitVec 64)
  ppsLast : BitVec 64
  goodEdges : Nat
  /-- TIME_ADJ words waiting, one applied per crystal edge -/
  writes : List (BitVec 64)
  /-- servo step waiting for the next crystal edge -/
  servoStep : Option Int
  /-- PPS_IN rose at a crystal edge: the device time there, and whether a SET or STEP took effect there (16 R381, R385) -/
  rise : Option (BitVec 64 × Bool)
  deriving DecidableEq, Repr

/-- Power and heat (17). -/
structure Power where
  cap : Nat
  throt : Nat
  /-- device-wide cap setting, index 0 to 9 in the order of R396 -/
  capSetting : Nat
  thermal : Vector Nat 16
  /-- setting in force per cluster -/
  running : Vector Nat 16
  /-- cluster voltages of the integrated regulators, in mV (17 R393) -/
  volts : Vector Nat 16
  brake : Bool
  pwrbrkLimit : Option Nat
  vrhotLimit : Option Nat
  effCap : Nat
  pkg : Nat
  rails : Vector (Nat × Nat) 9
  temps : Vector Int 36
  throttled : List Nat
  hbmHalf : BitVec 8
  /-- stacks that run at twice their refresh rate (17 R404) -/
  hbmRefresh : BitVec 8
  tripped : Bool
  deriving DecidableEq, Repr

/-- PLDM firmware-update states (18 R415; DSP0267's own names). -/
inductive FuState where
  | idle | learnComponents | readyXfer | download | verify | apply | activate
  deriving DecidableEq, Repr

/-- A firmware update under way. -/
structure FwUpdate where
  st : FuState
  floorComp : Bool
  size : Nat
  bytes : List Byte
  verdict : Option Bool
  info : Option FwMeta
  deriving DecidableEq, Repr

/-- JTAG (25 R551 to R553): the instruction and data registers selected, the boundary cells, and who drives the pins. -/
inductive PinDrive where
  | functional | cells | highz | pulse | train
  deriving DecidableEq, Repr

/-- Data register between TDI and TDO. -/
inductive TapData where
  | idcode | boundary | bypass
  deriving DecidableEq, Repr

structure Tap where
  ir : BitVec 8
  dr : TapData
  cells : List Bool
  drive : PinDrive
  deriving DecidableEq, Repr

/-- A cluster's sleep machinery (16 R368 to R372): an entry under way toward a state, a thaw under way from a state. -/
structure ClusterState where
  entering : Option Oper
  thawing : Option Oper
  /-- a trigger came during an entry: thaw when it completes (Table 16.8) -/
  rethaw : Bool
  /-- one of those triggers was an Orlys operation -/
  byOrlys : Bool
  deriving DecidableEq, Repr

/-! ## Ports and functions -/

/-- Queue-pair states (13 R294). -/
inductive QpState where
  | disabled | enabled | draining | error
  deriving DecidableEq, Repr

/-- A queue pair (Tables 23.8 to 23.11). -/
structure QueuePair where
  sqBase : BitVec 64
  sqSize : Nat
  cqBase : BitVec 64
  cqSize : Nat
  msix : Nat
  st : QpState
  phase : Bool
  cause : Nat
  sqHead : Nat
  sqTail : Nat
  cqHead : Nat
  cqTail : Nat
  /-- a completion write failed: the CQ takes no more (Table 13.8) -/
  cqFailed : Bool
  deriving DecidableEq, Repr

/-- An MSI-X table entry with its Pending Bit (22 R496). -/
structure MsixEntry where
  vector : Nat
  addr : BitVec 64
  data : BitVec 32
  mask : Bool
  pending : Bool
  deriving DecidableEq, Repr

/-- A function of a port. -/
structure FnState where
  epoch : BitVec 32
  portErr : BitVec 64
  evq : List (BitVec 64)
  evLost : Nat
  evClasses : BitVec 12
  evVector : Nat
  evVecEn : Bool
  /-- F-scope counters in the order of Table 24.5 -/
  cnt : Vector (BitVec 64) 7
  snap : BitVec 32
  ptmEnable : Bool
  ptmBusy : Bool
  ptmHost : BitVec 64
  ptmDev : BitVec 64
  /-- D3hot -/
  d3 : Bool
  pmeEn : Bool
  pmeStatus : Bool
  msixEnable : Bool
  msixMask : Bool
  /-- MSI-X entries that software has written, by vector; an unlisted one holds its reset value -/
  msix : List MsixEntry
  mps : Nat
  mrrs : Nat
  relaxed : Bool
  memEnable : Bool
  ltrEnable : Bool
  aspmL1 : Bool
  /-- L1 PM Substates enabled (22 R501) -/
  l11 : Bool
  l12 : Bool
  /-- Link Control, Common Clock Configuration (22 R503) -/
  commonClock : Bool
  /-- AER (22 R504): uncorrectable and corrected status, severity, header and prefix of the latest uncorrectable error -/
  aerStatus : BitVec 32
  aerCorrected : BitVec 32
  aerSeverity : BitVec 32
  aerLog : BitVec 256
  qps : Vector QueuePair 64
  orphans : List Orphan
  deriving DecidableEq, Repr

/-- Mailbox command states (18 R420). -/
inductive MbxState where
  | idle | busy | done
  deriving DecidableEq, Repr

/-- A PF's mailbox (18 R419, R420, Table 24.8). -/
structure Mailbox where
  /-- the epoch that holds the lock -/
  holder : Option (BitVec 32)
  /-- ticket of the latest grant -/
  ticket : BitVec 32
  cmd : BitVec 64
  st : MbxState
  status : Status
  length : Nat
  cmdTicket : BitVec 32
  /-- request bytes taken at the MBX_CMD write -/
  req : List Byte
  /-- arrival number of the command (18 R418) -/
  arrival : Nat
  /-- Orlys serves the command and has not answered it yet -/
  taken : Bool
  data : Mem
  deriving DecidableEq, Repr

/-- IDE key programming of one direction (22 R508). -/
inductive IdeKeys where
  | none | programmed | active
  deriving DecidableEq, Repr

/-- SPDM session (22 R508). -/
inductive SpdmState where
  | none | exchanging | secured
  deriving DecidableEq, Repr

/-- Link power states (22 R501). -/
inductive LinkPm where
  | l0 | l1 | l11 | l12
  deriving DecidableEq, Repr

/-- The fields of a port's shape in force (03 R87, 19 R442). -/
structure Shape where
  vfCount : Nat
  qpPf : Nat
  qpVf : Nat
  msixPf : Nat
  msixVf : Nat
  bar4 : Bool
  deriving DecidableEq, Repr

/-- A host port. -/
structure PortState where
  phyUp : Bool
  linkUp : Bool
  flit : Bool
  lanes : Nat
  rate : Nat
  perstN : Bool
  hstopN : Bool
  clkreqN : Bool
  /-- clocking mode fixed at the latest link training: a common clock, else SRIS (22 R503) -/
  commonClock : Bool
  cto : Nat
  fetchNo : Nat
  /-- last queue pair fetched: function and number -/
  rr : Nat × Nat
  /-- queue pairs in the doorbell FIFO, and the overflow vector, as function and number -/
  fifo : List (Nat × Nat)
  overflow : List (Nat × Nat)
  items : List Item
  /-- completion staging FIFO: keys of items whose completion waits -/
  staged : List Nat
  /-- event staging FIFO: functions and event words (13 R315) -/
  evStaging : List (Func × BitVec 64)
  shape : Shape
  numVfs : Nat
  vfEnable : Bool
  ari : Bool
  bar4Base : Nat
  ledgerSel : BitVec 16
  bar4Mib : Nat
  bar4Next : Option Nat
  /-- BAR4 accesses that wait for RUN, oldest first (16 R373) -/
  windows : List WindowAccess
  mbx : Mailbox
  ideRx : IdeKeys
  ideTx : IdeKeys
  spdm : SpdmState
  linkPm : LinkPm
  ltrActive : Bool
  fns : Vector FnState 16
  deriving DecidableEq, Repr

/-! ## Partitions -/

/-- Partition state (Table 2.19). -/
inductive PState where
  | notReady | empty | loaded | applying | failed
  deriving DecidableEq, Repr

/-- A partition. -/
structure Partition where
  place : Option Place
  pstate : PState
  image : Option PartImage
  digest : List Byte
  version : BitVec 64
  imgError : BitVec 64
  session : Option Session
  sessionNo : BitVec 32
  keyGen : Nat
  ctx : Vector RimeCtx 256
  admSeq : Nat
  /-- pass-over counts: an item and the dispatches that it was passed over as the head of its list (15 R354) -/
  passed : List (Nat × Nat)
  gtab : List GatherRun
  /-- valid bits of replica buckets that are not all set (05 R144, R145) -/
  replicas : List Replica
  /-- open compression streams by context address (07 R176) -/
  streams : List (Nat × Stream)
  bq : Vector BatchQueue 64
  op : Option PartOp
  /-- a scrub asked for while an apply runs (Table 3.8), and whether its epoch change has been made -/
  scrubNext : Option Bool
  /-- who asked for the scrub under way or to come -/
  scrubAskers : List Asker
  /-- P-scope counters in the order of Table 24.5 -/
  cnt : Vector (BitVec 64) 37
  /-- the route tables that Orlys wrote into the NIs, and their counters (14 R330, R337, Table 14.11) -/
  routes : List Route
  quota : List QuotaUse
  waiting : List Send
  flight : List Send
  /-- stops whose NIs stopped granting for the partition (14 R343) -/
  fenced : List Nat
  deriving DecidableEq, Repr

/-! ## The machine -/

/-- The state of the P7. -/
structure State where
  orderCode : OrderCode
  porN : Bool
  floorSel : BitVec 3
  bootSrc : Bool
  pwrbrkN : Bool
  vrhotN : Bool
  ppsIn : Bool
  thermtripN : Bool
  boot : Boot
  flash : Flash
  ledger : Vector LedgerWord 219
  ledgerChanges : BitVec 64
  moraine : List Moraine
  moraineSeq : BitVec 32
  starts : BitVec 16
  time : TimeBase
  cntMeshReplay : BitVec 64
  cntPpsIgnored : BitVec 64
  power : Power
  floorVersion : BitVec 64
  floorDigest : List Byte
  floorChange : Option FloorChange
  ports : Vector PortState 6
  parts : Vector Partition 6
  tiles : Vector TileState 128
  clusters : Vector ClusterState 16
  /-- shared units with an entry or a thaw under way, and how deep: unit slot, entering, thawing -/
  unitSleep : List (Nat × Option Oper × Option Oper)
  /-- shared units by ledger slot: the partition served and the segments left of its weight (03 R85) -/
  served : List (Nat × Nat × Nat)
  slab : Mem
  slabUe : List Nat
  hbm : Mem
  hbmUe : List Nat
  host : Mem
  commitQ : List Commit
  /-- arrivals at the commit queue so far (02 R53) -/
  arrivals : Nat
  verified : Option Verified
  linksFenced : List Link
  replays : List (Link × Nat)
  /-- device routes take their Y hops first (20 R470) -/
  deviceYX : Bool
  mgmtQueue : List (BitVec 64)
  eid : BitVec 8
  tid : BitVec 8
  fu : FwUpdate
  mgmtSession : Option Session
  mgmtSessionNo : BitVec 32
  tap : Tap
  rdata : ReadValue
  msgs : List Msg
  pending : List Instr
  /-- the model's own counter of free values (log 7) -/
  free : Nat
  deriving DecidableEq, Repr

/-! ## Reset -/

/-- SHA-384-sized zeros (02 Table 2.19: digests read zero when there is no image). -/
def zeroDigest : List Byte := List.replicate 48 0

def Bank.empty : Bank := { ordinals := [], row := 0, used := 0, firstPos := 0, closedSeq := none }

def BatchQueue.reset : BatchQueue :=
  { ctrl := 0, ringBase := 0, ringSize := 0, wmHigh := 0, wmLow := 0, wmHyst := 0, enabled := false, cause := 0,
    layout := none, rel := 0, mark := none, read := 0, tail := 0, credits := 0, delivered := 0, unpopped := [],
    qhi := false, qlo := false, fill := false, banks := Vector.replicate 2 Bank.empty, arriving := [], pos := 0,
    epochPending := false, ctx := none, copying := none }

def QueuePair.reset : QueuePair :=
  { sqBase := 0, sqSize := 0, cqBase := 0, cqSize := 0, msix := 0, st := .disabled, phase := false, cause := 0,
    sqHead := 0, sqTail := 0, cqHead := 0, cqTail := 0, cqFailed := false }

/-- Place of an AER error in its status register: Uncorrectable Error Status, or Correctable Error Status of a corrected one
(PCI Express, log 113). -/
def aerBit : AerError → Nat
  | .receiver => 0 | .badTlp => 6 | .badDllp => 7 | .replayRollover => 8 | .replayTimeout => 12
  | .dataLinkProtocol => 4 | .poisoned => 12 | .flowControl => 13 | .completionTimeout => 14 | .completerAbort => 15
  | .unexpectedCompletion => 16 | .receiverOverflow => 17 | .malformed => 18 | .ecrc => 19 | .unsupportedRequest => 20
  | .internal => 22 | .ideCheckFailed => 28

/-- Reset value of the Uncorrectable Error Severity register: the errors that Table 22.4 calls fatal. -/
def aerFatalReset : BitVec 32 :=
  BitVec.ofNat 32 (([.dataLinkProtocol, .flowControl, .receiverOverflow, .malformed, .internal, .ideCheckFailed].map
    fun e => 2 ^ aerBit e).foldl (· + ·) 0)

def FnState.reset : FnState :=
  { epoch := 0, portErr := 0, evq := [], evLost := 0, evClasses := 0xFFF, evVector := 0, evVecEn := false,
    cnt := Vector.replicate 7 0, snap := 0, ptmEnable := false, ptmBusy := false, ptmHost := 0, ptmDev := 0, d3 := false,
    pmeEn := false, pmeStatus := false, msixEnable := false, msixMask := false, msix := [], mps := 128, mrrs := 512,
    relaxed := true, memEnable := false, ltrEnable := false, aspmL1 := false,
    l11 := false, l12 := false, commonClock := false, aerStatus := 0, aerCorrected := 0, aerSeverity := aerFatalReset,
    aerLog := 0, qps := Vector.replicate 64 .reset,
    orphans := [] }

def Mailbox.reset : Mailbox :=
  { holder := none, ticket := 0, cmd := 0, st := .idle, status := .ok, length := 0, cmdTicket := 0, req := [],
    arrival := 0, taken := false, data := [] }

/-- The shape a port presents while its PLACE record is absent (19 R442). -/
def Shape.absent : Shape := { vfCount := 0, qpPf := 1, qpVf := 0, msixPf := 1, msixVf := 0, bar4 := false }

def PortState.reset : PortState :=
  { phyUp := false, linkUp := false, flit := false, lanes := 0, rate := 0, perstN := false, hstopN := true, clkreqN := true, commonClock := false,
    cto := 2, fetchNo := 0, rr := (0, 0), fifo := [], overflow := [], items := [], staged := [], evStaging := [], shape := .absent,
    numVfs := 0, vfEnable := false, ari := false, bar4Base := 0, ledgerSel := 0, bar4Mib := 64, bar4Next := none, windows := [],
    mbx := .reset, ideRx := .none, ideTx := .none, spdm := .none, linkPm := .l0, ltrActive := false,
    fns := Vector.replicate 16 .reset }

def Partition.reset : Partition :=
  { place := none, pstate := .notReady, image := none, digest := zeroDigest, version := 0, imgError := 0, session := none,
    sessionNo := 0, keyGen := 0, ctx := Vector.replicate 256 RimeCtx.reset, admSeq := 0, passed := [], gtab := [],
    replicas := [], streams := [], bq := Vector.replicate 64 .reset, op := none, scrubNext := none, scrubAskers := [],
    cnt := Vector.replicate 37 0, routes := [], quota := [], waiting := [], flight := [], fenced := [] }

def TileState.reset : TileState :=
  { vr := Vector.replicate 64 0, pm := Vector.replicate 7 0, run := none, queue := [], rxq := Vector.replicate 4 [], staging := []
    dropping := [], held := [] }

def ClusterState.reset : ClusterState := { entering := none, thawing := none, rethaw := false, byOrlys := false }

/-- A ledger word after removal of power (18 R427). -/
def LedgerWord.reset : LedgerWord :=
  { gen := 1, admin := .inService, oper := .off, owner := 0xFF, fault := 0, drainTo := .outOfService, ceCount := 0,
    ceLast := none, ceSeen := 0, selfTest := none }

def Boot.reset : Boot :=
  { aonClock := false, ledgerInit := false, fwRunning := false, recovery := false, floorChecked := false, modules := false,
    ready := false, fatal := false, bank := 0, fallback := false, floorFallback := false, defaultFloor := none,
    railsOn := 0, railMissing := none, hbmPairs := 0, hbmFailed := 0, cold := true, running := none }

def Flash.reset : Flash :=
  { fw := Vector.replicate 2 { valid := true, info := none, raw := [] }, floor := Vector.replicate 2 [],
    floorValid := Vector.replicate 2 true, fwActive := 0, fwPending := none, floorActive := 0, floorPending := none }

def TimeBase.reset : TimeBase :=
  { acc := 0, a := 0, i := 0, valid := false, discipline := false, locked := false, holdover := false, ppsPending := none,
    lastPhase := 0, lastEdge := none, ppsLast := 0, goodEdges := 0, writes := [], servoStep := none, rise := none }

def Power.reset : Power :=
  { cap := 300, throt := 95, capSetting := 0, thermal := Vector.replicate 16 9, running := Vector.replicate 16 0,
    volts := Vector.replicate 16 0,
    brake := false, pwrbrkLimit := none, vrhotLimit := none, effCap := 300, pkg := 0, rails := Vector.replicate 9 (0, 0),
    temps := Vector.replicate 36 0, throttled := [], hbmHalf := 0, hbmRefresh := 0, tripped := false }

def FwUpdate.reset : FwUpdate :=
  { st := .idle, floorComp := false, size := 0, bytes := [], verdict := none, info := none }

def Tap.reset : Tap := { ir := 1, dr := .idcode, cells := [], drive := .functional }

/-- The P7 right after a cold release of POR_n (19 Tables 19.4 step 1 and 19.6), with its straps and pins as unconnected
(25 Table 25.3). -/
def State.reset : State :=
  { orderCode := .plv7_288, porN := true, floorSel := 7, bootSrc := false, pwrbrkN := true, vrhotN := true, ppsIn := false,
    thermtripN := true, boot := .reset, flash := .reset, ledger := Vector.replicate 219 .reset, ledgerChanges := 0,
    moraine := [], moraineSeq := 0, starts := 0, time := .reset, cntMeshReplay := 0, cntPpsIgnored := 0, power := .reset,
    floorVersion := 0, floorDigest := zeroDigest, floorChange := none, ports := Vector.replicate 6 .reset,
    parts := Vector.replicate 6 .reset, tiles := Vector.replicate 128 .reset, clusters := Vector.replicate 16 .reset,
    unitSleep := [], served := [], slab := [], slabUe := [], hbm := [], hbmUe := [], host := [], commitQ := [], arrivals := 0,
    verified := none, linksFenced := [], replays := [], deviceYX := false, mgmtQueue := [], eid := 0, tid := 0,
    fu := .reset, mgmtSession := none, mgmtSessionNo := 0, tap := .reset, rdata := .none, msgs := [], pending := [],
    free := 0 }

end Sys2Proof.Machine
end

