-- ==== Sys2Proof/Machine/Flags.lean ====
section
/-! DEFINITION. The codes of the P7: status codes (Table 13.5), event words (Tables 13.10, 13.11), ledger words (Table 18.9),
fault-summary bits (Table 20.3), counters (Table 24.5). -/

namespace Sys2Proof.Machine

/-- Value of a status (Table 13.5). -/
def Status.code : Status → Nat
  | .ok => 0x00 | .partialDone => 0x01 | .stopped => 0x02 | .refused => 0x03 | .aborted => 0x04 | .hostTimeout => 0x05
  | .stateStale => 0x06 | .noGain => 0x07 | .malformed => 0x08 | .staleDropped => 0x09 | .unsupported => 0x0A
  | .imageInvalid => 0x0B | .notReady => 0x0C | .ownerLost => 0x0D | .uncorrectable => 0x0E | .bounds => 0x0F
  | .limit => 0x10 | .badDescriptor => 0x11 | .idle => 0x12

/-- Value of an event class (Table 13.11). -/
def EventClass.code : EventClass → Nat
  | .alarmLow => 0x01 | .alarmHigh => 0x02 | .errorCorrected => 0x03 | .errorContained => 0x04 | .partitionFatal => 0x05
  | .ledgerChange => 0x06 | .ownerLost => 0x07 | .thermal => 0x08 | .powerCap => 0x09 | .imageState => 0x0A
  | .frameDropSummary => 0x0B | .dmaLateDiscard => 0x0C

/-- Value of an admin state (Table 18.9). -/
def Admin.code : Admin → Nat
  | .inService => 0 | .draining => 1 | .outOfService => 2 | .maintenance => 3

/-- Value of an oper state (Table 18.9). -/
def Oper.code : Oper → Nat
  | .off => 0 | .retain => 1 | .idle => 2 | .run => 3 | .faulted => 4 | .fenced => 5

/-- Value of a partition state (Table 2.19). -/
def PState.code : PState → Nat
  | .notReady => 0 | .empty => 1 | .loaded => 2 | .applying => 3 | .failed => 4

/-- Value of a session state (Table 2.19). -/
def SessionState.code : SessionState → Nat
  | .open => 1 | .queued => 2 | .verifying => 3

/-- A posted event word (Table 13.10). -/
def eventWord (c : EventClass) (u : UnitId) (detail : Nat) : BitVec 64 :=
  BitVec.ofNat 64 (2 ^ 63 + c.code * 2 ^ 56 + u.ty.code * 2 ^ 48 + u.idx % 2 ^ 16 * 2 ^ 32 + detail % 2 ^ 32)

/-- The 64-bit ledger word (Table 18.9). -/
def LedgerWord.word (w : LedgerWord) : BitVec 64 :=
  BitVec.ofNat 64
    (w.gen.toNat * 2 ^ 32 + w.admin.code * 2 ^ 28 + w.oper.code * 2 ^ 24 + w.owner.toNat * 2 ^ 16 + w.fault.toNat)

/-- Detail of a LEDGER_CHANGE event (18 R433). -/
def LedgerWord.detail (w : LedgerWord) : Nat :=
  w.admin.code + w.oper.code * 2 ^ 4 + w.owner.toNat * 2 ^ 8 + w.gen.toNat % 2 ^ 16 * 2 ^ 16

/-- The unit of a ledger slot (Table 18.10). -/
def unitOfSlot (n : Nat) : UnitId :=
  if n < 128 then ⟨.tile, n⟩ else if n < 144 then ⟨.cluster, n - 128⟩ else if n < 160 then ⟨.select, n - 144⟩
  else if n < 176 then ⟨.warp, n - 160⟩ else if n < 188 then ⟨.decode, n - 176⟩ else if n < 196 then ⟨.compress, n - 188⟩
  else if n < 204 then ⟨.gather, n - 196⟩ else if n < 212 then ⟨.hbm, n - 204⟩ else if n < 218 then ⟨.port, n - 212⟩
  else ⟨.fabric, 0⟩

/-- The unit a type code and index name, if any (Table 18.10). -/
def unitOfCode (ty idx : Nat) : Option UnitId :=
  let mk (t : UnitType) : Option UnitId := if idx < t.count then some ⟨t, idx⟩ else none
  match ty with
  | 1 => mk .tile | 2 => mk .cluster | 3 => mk .select | 4 => mk .warp | 5 => mk .decode | 6 => mk .compress
  | 7 => mk .gather | 8 => mk .hbm | 9 => mk .port | 10 => mk .fabric | _ => none

/-- The unit type of a code (Table 18.10). -/
def typeOfCode : Nat → Option UnitType
  | 1 => some .tile | 2 => some .cluster | 3 => some .select | 4 => some .warp | 5 => some .decode | 6 => some .compress
  | 7 => some .gather | 8 => some .hbm | 9 => some .port | 10 => some .fabric | _ => none

/-- Fault-summary bits whose setting makes the unit FAULTED (Table 20.3, column Oper). -/
def faultsUnit (bit : Nat) : Bool := bit == 3 || bit == 5 || bit == 6 || bit == 7 || bit == 11

/-- F-scope counters (Table 24.5), in offset order from 0x000. -/
inductive FCnt where
  | refused | doorbellDiscard | dmaLateDiscard | epochDiscard | ownerLost | mbxIgnored | timeWriteIgnored
  deriving DecidableEq, Repr

def FCnt.ix : FCnt → Fin 7
  | .refused => 0 | .doorbellDiscard => 1 | .dmaLateDiscard => 2 | .epochDiscard => 3 | .ownerLost => 4 | .mbxIgnored => 5
  | .timeWriteIgnored => 6

/-- P-scope counters (Table 24.5), in offset order from 0x040. -/
inductive PCnt where
  | admitted | starveDispatch | backpressure | specReadBytes | quotaWait | thawOff | thawRetain | thawIdle | slabOverflow
  | ageRemoved | replicaFetch | decodeRecords | decodeReject | decodeRejectLost | compressIn | compressOut | decompressOut
  | noGain | gatherRows | gatherDefault | gatherFaults | firnHits | firnStale | selectRows | sampleRows | sampleEmpty
  | shuffleEvals | shufflePositions | frameStale | frameUntimed | warpSamples | batchClosed | batchHoles | batchTruncated
  | batchBadSample | batchOutside | batchIdle
  deriving DecidableEq, Repr

def PCnt.ix : PCnt → Fin 37
  | .admitted => 0 | .starveDispatch => 1 | .backpressure => 2 | .specReadBytes => 3 | .quotaWait => 4 | .thawOff => 5
  | .thawRetain => 6 | .thawIdle => 7 | .slabOverflow => 8 | .ageRemoved => 9 | .replicaFetch => 10 | .decodeRecords => 11
  | .decodeReject => 12 | .decodeRejectLost => 13 | .compressIn => 14 | .compressOut => 15 | .decompressOut => 16
  | .noGain => 17 | .gatherRows => 18 | .gatherDefault => 19 | .gatherFaults => 20 | .firnHits => 21 | .firnStale => 22
  | .selectRows => 23 | .sampleRows => 24 | .sampleEmpty => 25 | .shuffleEvals => 26 | .shufflePositions => 27
  | .frameStale => 28 | .frameUntimed => 29 | .warpSamples => 30 | .batchClosed => 31 | .batchHoles => 32
  | .batchTruncated => 33 | .batchBadSample => 34 | .batchOutside => 35 | .batchIdle => 36

end Sys2Proof.Machine
end

