-- ==== Sys2Proof/Machine/Ops.lean ====
section
/-! DEFINITION. The named operations that every meaning is written over: updates of one port, function, partition, tile or
item; the memories; counters; MSI-X; events and the moraine log; ledger changes. -/

namespace Sys2Proof.Machine

/-! ## Parts of the state -/

def State.updPort (s : State) (p : Port) (g : PortState → PortState) : State :=
  { s with ports := s.ports.set p (g s.ports[p]) }

def State.updPart (s : State) (p : Port) (g : Partition → Partition) : State :=
  { s with parts := s.parts.set p (g s.parts[p]) }

def State.updTile (s : State) (t : Tile) (g : TileState → TileState) : State :=
  { s with tiles := s.tiles.set t (g s.tiles[t]) }

def State.updCluster (s : State) (c : Cluster) (g : ClusterState → ClusterState) : State :=
  { s with clusters := s.clusters.set c (g s.clusters[c]) }

def PortState.updFn (q : PortState) (f : Func) (g : FnState → FnState) : PortState :=
  { q with fns := q.fns.set f (g q.fns[f]) }

def State.updFn (s : State) (p : Port) (f : Func) (g : FnState → FnState) : State := s.updPort p (·.updFn f g)

def FnState.updQp (x : FnState) (n : Fin 64) (g : QueuePair → QueuePair) : FnState :=
  { x with qps := x.qps.set n (g x.qps[n]) }

def Partition.updBq (x : Partition) (m : Fin 64) (g : BatchQueue → BatchQueue) : Partition :=
  { x with bq := x.bq.set m (g x.bq[m]) }

def State.updBq (s : State) (p : Port) (m : Fin 64) (g : BatchQueue → BatchQueue) : State := s.updPart p (·.updBq m g)

/-- A queue-pair or batch-queue number as an index. -/
def qix (n : Nat) : Fin 64 := Fin.ofNat 64 n

/-- A tile number as an index. -/
def tix (n : Nat) : Tile := Fin.ofNat 128 n

/-- A port or partition number as an index. -/
def pix (n : Nat) : Port := Fin.ofNat 6 n

def State.fn (s : State) (p : Port) (f : Func) : FnState := s.ports[p].fns[f]

def State.qp (s : State) (p : Port) (f : Func) (n : Nat) : QueuePair := (s.fn p f).qps[qix n]

def State.updQp (s : State) (p : Port) (f : Func) (n : Nat) (g : QueuePair → QueuePair) : State :=
  s.updFn p f (·.updQp (qix n) g)

/-- The item that port p fetched as its k-th descriptor, while it lacks a posted completion. -/
def State.item? (s : State) (p : Port) (k : Nat) : Option Item := s.ports[p].items.find? (·.key == k)

def PortState.updItem (q : PortState) (k : Nat) (g : Item → Item) : PortState :=
  { q with items := q.items.map fun i => if i.key == k then g i else i }

def State.updItem (s : State) (p : Port) (k : Nat) (g : Item → Item) : State := s.updPort p (·.updItem k g)

/-- The device time: bits [95:32] of the accumulator (16 R376). -/
def State.deviceTime (s : State) : BitVec 64 := s.time.acc.extractLsb' 32 64

/-- Take the next free value's place (log 7). -/
def State.takeFree (s : State) : Nat × State := (s.free, { s with free := s.free + 1 })

/-! ## Functions and units -/

/-- Queue pairs that the floor grants a function (13 R292, Table 2.6). -/
def State.qpCount (s : State) (p : Port) (f : Func) : Nat :=
  if f.val = 0 then s.ports[p].shape.qpPf else s.ports[p].shape.qpVf

/-- MSI-X Table Size of a function (22 R496). -/
def State.msixSize (s : State) (p : Port) (f : Func) : Nat :=
  if f.val = 0 then s.ports[p].shape.msixPf else s.ports[p].shape.msixVf

/-- The function exists: the PF, or an enabled VF (22 R495). -/
def State.fnExists (s : State) (p : Port) (f : Func) : Bool :=
  f.val = 0 || (s.ports[p].vfEnable && f.val ≤ s.ports[p].numVfs)

/-- PFs of the partitions present in the floor. -/
def State.presentPfs (s : State) : List (Port × Func) :=
  (List.finRange 6).filterMap fun p => if s.parts[p].place.isSome then some (p, 0) else none

/-- The floor owner's port, when FLOOR_SEL names one (03 R66). -/
def State.floorOwnerPort (s : State) : Option Port :=
  if h : s.floorSel.toNat < 6 then some ⟨s.floorSel.toNat, h⟩ else none

/-- Partition p owns cluster c (03 R69). -/
def State.ownsCluster (s : State) (p : Port) (c : Nat) : Bool :=
  match s.parts[p].place with
  | some r => r.clusters.getLsbD c
  | none => false

/-- The partition's clusters, ascending. -/
def State.clustersOf (s : State) (p : Port) : List Cluster :=
  (List.finRange 16).filter fun c => s.ownsCluster p c.val

/-- The partition's tiles, ascending (08 R191, 24 R529). -/
def State.tilesOf (s : State) (p : Port) : List Nat :=
  (s.clustersOf p).flatMap fun c => (List.range 8).map fun n => 8 * c.val + n

def State.ledgerWord (s : State) (u : UnitId) : LedgerWord := s.ledger[Fin.ofNat 219 u.slot]

/-- The oper state of cluster c. -/
def State.clusterOper (s : State) (c : Nat) : Oper := (s.ledgerWord ⟨.cluster, c⟩).oper

/-! ## Counters -/

def State.countP (s : State) (p : Port) (c : PCnt) (n : Nat) : State :=
  s.updPart p fun x => { x with cnt := x.cnt.set c.ix (x.cnt[c.ix] + BitVec.ofNat 64 n) }

def State.countF (s : State) (p : Port) (f : Func) (c : FCnt) : State :=
  s.updFn p f fun x => { x with cnt := x.cnt.set c.ix (x.cnt[c.ix] + 1) }

/-! ## Memories -/

/-- Key of a slab byte (07 Table 7.3). -/
def slabKey (t off : Nat) : Nat := t * 2 ^ 25 + off

/-- Key of a byte of partition p's range in a stack. -/
def hbmKey (p : Port) (stack off : Nat) : Nat := p.val * 2 ^ 40 + stack * 2 ^ 37 + off

/-- Key of a byte of port p's host. -/
def hostKey (p : Port) (a : Nat) : Nat := p.val * 2 ^ 64 + a % 2 ^ 64

def State.slabGet (s : State) (t off n : Nat) : List Byte := s.slab.gets (slabKey t off) n

/-- Write a slab; a 64-byte unit written whole loses its error mark. -/
def State.slabPut (s : State) (t off : Nat) (bs : List Byte) : State :=
  { s with
    slab := s.slab.sets (slabKey t off) bs
    slabUe := s.slabUe.filter fun u => !(slabKey t off ≤ 64 * u && 64 * u + 64 ≤ slabKey t off + bs.length) }

/-- Zero n bytes of a slab. -/
def State.slabZero (s : State) (t off n : Nat) : State :=
  { s with
    slab := s.slab.clear (slabKey t off) (slabKey t off + n)
    slabUe := s.slabUe.filter fun u => !(slabKey t off ≤ 64 * u && 64 * u + 64 ≤ slabKey t off + n) }

/-- Some 64-byte unit of [off, off + n) holds an uncorrectable error (04 R122). -/
def State.slabBad (s : State) (t off n : Nat) : Bool :=
  s.slabUe.any fun u => 64 * u < slabKey t off + n && slabKey t off < 64 * u + 64

/-- A byte of HBM: what was written under the present key, else a free value (03 R557, log 6). -/
def State.hbmByte (s : State) (p : Port) (stack off : Nat) : Byte :=
  (s.hbm.find? (hbmKey p stack off)).getD (Config.hbmUnwritten p.val s.parts[p].keyGen (stack * 2 ^ 37 + off))

def State.hbmGet (s : State) (p : Port) (stack off n : Nat) : List Byte :=
  (List.range n).map fun i => s.hbmByte p stack (off + i)

/-- Write HBM; a 32-byte access unit written whole loses its error mark. -/
def State.hbmPut (s : State) (p : Port) (stack off : Nat) (bs : List Byte) : State :=
  { s with
    hbm := s.hbm.puts (hbmKey p stack off) bs
    hbmUe := s.hbmUe.filter fun u => !(hbmKey p stack off ≤ 32 * u && 32 * u + 32 ≤ hbmKey p stack off + bs.length) }

/-- An access to [off, off + n) of a stack meets an uncorrectable error, or the stack failed initialisation (20 R450,
19 Table 19.7). -/
def State.hbmBad (s : State) (p : Port) (stack off n : Nat) : Bool :=
  s.boot.hbmFailed.getLsbD stack ||
  s.hbmUe.any fun u => 32 * u < hbmKey p stack off + n && hbmKey p stack off < 32 * u + 32

def State.hostGet (s : State) (p : Port) (a n : Nat) : List Byte := (List.range n).map fun i => s.host.get (hostKey p (a + i))

def State.hostPut (s : State) (p : Port) (a : Nat) (bs : List Byte) : State :=
  { s with host := s.host.sets (hostKey p a) bs }

/-- The requests of an access of n bytes at address a (22 R490): each as long as the limit and the next 4 KiB boundary allow
(log 114). -/
def requests (lim : Nat) : Nat → Nat → Nat → List (Nat × Nat)
  | 0, _, _ => []
  | fuel + 1, a, n =>
    if n = 0 then []
    else
      let k := min n (min lim (4096 - a % 4096))
      (a, k) :: requests lim fuel (a + k) (n - k)

/-- A function's memory reads leave, of at most Max Read Request Size bytes each (22 R490). -/
def State.sendReads (s : State) (p : Port) (f : Func) (a n : Nat) : State :=
  { s with msgs := s.msgs ++ (requests (s.fn p f).mrrs n a n).map fun r => .memRead p f r.1 r.2 }

/-- A function's memory writes leave, of at most Max Payload Size bytes each (22 R490). -/
def State.sendWrites (s : State) (p : Port) (f : Func) (a n : Nat) (relaxed : Bool) : State :=
  { s with msgs := s.msgs ++ (requests (s.fn p f).mps n a n).map fun r => .memWrite p f r.1 r.2 relaxed }

/-! ## Interrupts, moraine log, events -/

/-- Table entry of a vector; one that software has not written is masked (22 R496, log 4). -/
def FnState.msixEntry (x : FnState) (v : Nat) : MsixEntry :=
  (x.msix.find? (·.vector == v)).getD { vector := v, addr := 0, data := 0, mask := true, pending := false }

/-- Replace a vector's entry. -/
def FnState.setMsix (x : FnState) (e : MsixEntry) : FnState :=
  { x with msix := e :: x.msix.filter (·.vector != e.vector) }

/-- Signal a vector (13 R311): a masked one sets its Pending Bit; nothing is signalled while MSI-X is not enabled. -/
def State.signalMsix (s : State) (p : Port) (f : Func) (v : Nat) : State :=
  let x := s.fn p f
  let e := x.msixEntry v
  if !x.msixEnable then s
  else if x.msixMask || e.mask then s.updFn p f (·.setMsix { e with pending := true })
  else { s with msgs := s.msgs ++ [.msix p f v e.addr e.data] }

/-- Write a moraine entry (20 R471); part is 0 to 5, or 0xFF for none. -/
def State.logMoraine (s : State) (kind part : Nat) (word data : BitVec 64) : State :=
  let e : Moraine :=
    { seq := s.moraineSeq, kind := kind, part := part, start := s.starts, time := s.deviceTime, word := word, data := data }
  let l := s.moraine ++ [e]
  { s with moraine := if moraineEntries < l.length then l.tail else l, moraineSeq := s.moraineSeq + 1 }

/-- Entries an event queue holds (13 R315). -/
def evCapacity (f : Func) : Nat := if f.val = 0 then 1024 else 256

/-- A function is in D3hot, or in D3cold while PERST_n is low (22 R499). -/
def State.asleepFn (s : State) (p : Port) (f : Func) : Bool := (s.fn p f).d3 || !s.ports[p].perstN

/-- Depth of a staging or doorbell FIFO: that of the image's record of the kind, or 8 (13 R296, R309, R315). -/
def State.fifoDepth (s : State) (p : Port) (kind : Nat) : Nat :=
  if s.parts[p].pstate == .loaded then
    ((s.parts[p].image.bind fun im => im.fifos.find? (·.kind == kind)).map (·.depth)).getD 8
  else 8

/-- An event for a function's queue is discarded and counted as lost (13 R317, Table 23.7). -/
def State.loseEvent (s : State) (p : Port) (f : Func) : State :=
  s.updFn p f fun x => { x with evLost := min 65535 (x.evLost + 1), portErr := x.portErr ||| 0x10 }

/-- A staged event enters its function's queue (13 R315, R317), lost when the queue is full; one that enters an empty queue
signals the vector; one that enters the queue of a sleeping function with PME_En set is a wake condition (22 R500). -/
def State.enterQueue (s : State) (p : Port) (f : Func) (w : BitVec 64) : State :=
  let x := s.fn p f
  if evCapacity f ≤ x.evq.length then s.loseEvent p f
  else
    let s1 := s.updFn p f fun x => { x with evq := x.evq ++ [w] }
    let s2 := if x.evq.isEmpty && x.evVecEn then s1.signalMsix p f x.evVector else s1
    if x.pmeEn && s.asleepFn p f && !x.pmeStatus then
      let s3 := s2.updFn p f fun x => { x with pmeStatus := true }
      if s.ports[p].perstN && s.ports[p].linkUp then { s3 with msgs := s3.msgs ++ [.pme p f] } else s3
    else s2

/-- The staging FIFO passes on what it holds, oldest first (13 R315). -/
def State.passEvents (s : State) (p : Port) : State :=
  s.ports[p].evStaging.foldl (fun a e => a.enterQueue p e.1 e.2) (s.updPort p ({ · with evStaging := [] }))

/-- An event for a function (13 R315, R317): one of a disabled class is not queued; one that finds the port's staging FIFO full
is lost; any other goes through the FIFO to its queue, at once (log 40). -/
def State.enqueueEvent (s : State) (p : Port) (f : Func) (c : EventClass) (w : BitVec 64) : State :=
  if !(s.fn p f).evClasses.getLsbD (c.code - 1) then s
  else if s.fifoDepth p 1 ≤ s.ports[p].evStaging.length then (s.loseEvent p f).passEvents p
  else (s.updPort p fun q => { q with evStaging := q.evStaging ++ [(f, w)] }).passEvents p

/-- The management event queue takes these classes (18 R412). -/
def mgmtTakes (c : EventClass) (u : UnitId) : Bool :=
  match c with
  | .thermal | .powerCap | .partitionFatal | .ledgerChange | .errorContained => true
  | .imageState => u.ty == .fabric
  | _ => false

/-- Post an event (13 R316 to R318, 18 R412, 20 R472): to the functions named, to the management queue where R412 says, and
to the moraine log. `part` is the partition concerned; `tok` the token concerned, 0 for none. -/
def State.postEvent (s : State) (c : EventClass) (u : UnitId) (detail : Nat) (dest : List (Port × Func)) (part : Option Port)
    (tok : Nat := 0) (log : Bool := true) : State :=
  let w := eventWord c u detail
  let s1 := dest.foldl (fun a t => a.enqueueEvent t.1 t.2 c w) s
  let s2 := if mgmtTakes c u && s1.mgmtQueue.length < 256 then { s1 with mgmtQueue := s1.mgmtQueue ++ [w] } else s1
  if log then
    s2.logMoraine 1 (part.elim 0xFF (·.val)) w
      (BitVec.ofNat 64 (tok % 2 ^ 32 + (dest.head?.elim 0 fun t => t.2.val) * 2 ^ 32))
  else s2

/-- The next generation: 0xFFFF_FFFF is followed by 1 (18 R425). -/
def nextGen (g : BitVec 32) : BitVec 32 := if g = 0xFFFFFFFF then 1 else g + 1

/-- The partition a unit's owner field names. -/
def ownerPort (o : BitVec 8) : Option Port := if h : o.toNat < 6 then some ⟨o.toNat, h⟩ else none

/-- FAULTED or FENCED. -/
def Oper.down (o : Oper) : Bool := o == .faulted || o == .fenced

/-- Change a ledger word (18 R425, R433): a change of the word takes a new generation and counts in LEDGER_GEN; a change of
admin state, owner, fault summary, or oper state to or from FAULTED or FENCED posts LEDGER_CHANGE. -/
def State.ledgerMod (s : State) (u : UnitId) (g : LedgerWord → LedgerWord) : State :=
  let w := s.ledgerWord u
  let v := g w
  let changed := v.admin != w.admin || v.oper != w.oper || v.owner != w.owner || v.fault != w.fault
  let v' := if changed then { v with gen := nextGen w.gen } else { v with gen := w.gen }
  let s1 := { s with
    ledger := s.ledger.set (Fin.ofNat 219 u.slot) v'
    ledgerChanges := if changed then s.ledgerChanges + 1 else s.ledgerChanges }
  if v.admin != w.admin || v.owner != w.owner || v.fault != w.fault || (v.oper != w.oper && (v.oper.down || w.oper.down))
  then
    let part := (ownerPort v.owner).orElse fun _ => ownerPort w.owner
    s1.postEvent .ledgerChange u v'.detail (part.elim [] fun p => [(p, 0)]) part
  else s1

/-- Set a fault-summary bit, and FAULTED where Table 20.3 says so (20 R452). -/
def State.setFault (s : State) (u : UnitId) (bit : Nat) : State :=
  s.ledgerMod u fun w =>
    { w with fault := w.fault ||| BitVec.ofNat 16 (2 ^ bit), oper := if faultsUnit bit then .faulted else w.oper }

/-- A unit shared among the partitions (03 R84). -/
def sharedUnit (u : UnitId) : Bool :=
  match u.ty with
  | .decode | .compress | .gather | .hbm | .fabric => true
  | _ => false

/-- Whom an ERROR event of a unit goes to (Table 13.7): its owner's PF; for a shared unit the PFs of the partitions
affected, or of every present partition when none is. -/
def State.errorTargets (s : State) (u : UnitId) (affected : List Port) : List (Port × Func) :=
  if u.ty == .port then [(pix u.idx, 0)]
  else if sharedUnit u then (if affected.isEmpty then s.presentPfs else affected.map fun p => (p, 0))
  else ((ownerPort (s.ledgerWord u).owner).elim [] fun p => [(p, 0)])

/-- ERROR_CONTAINED with a cause and a location (20 R453). -/
def State.contained (s : State) (u : UnitId) (cause loc : Nat) (affected : List Port) : State :=
  let dest := s.errorTargets u affected
  s.postEvent .errorContained u (cause + loc % 2 ^ 24 * 2 ^ 8) dest (dest.head?.map (·.1))

/-- IMAGE_STATE (02, What you can see): partition state, session state, sub-code. -/
def State.postImageState (s : State) (p : Port) (sub : Nat) : State :=
  let x := s.parts[p]
  s.postEvent .imageState ⟨.port, p.val⟩
    (x.pstate.code + (x.session.elim 0 fun z => z.st.code) * 2 ^ 4 + sub * 2 ^ 8) [(p, 0)] (some p)

/-- Send a message. -/
def State.send (s : State) (m : Msg) : State := { s with msgs := s.msgs ++ [m] }

end Sys2Proof.Machine
end

