-- ==== Sys2Proof/Machine/Operands.lean ====
section
/-! DEFINITION. The fields of the common work descriptor (13 Table 13.2) and the opcodes (13 Table 13.3). -/

namespace Sys2Proof.Machine

/-- The n-byte field of a descriptor at an offset. -/
def Item.fld (i : Item) (off n : Nat) : Nat := field i.desc off n

def Item.opcode (i : Item) : Nat := i.fld 0 1
def Item.irq (i : Item) : Bool := (i.fld 1 1) % 2 = 1
def Item.strict (i : Item) : Bool := bitsOf (i.fld 1 1) 1 1 = 1
def Item.fenceBefore (i : Item) : Bool := bitsOf (i.fld 1 1) 2 1 = 1
def Item.fenceAfter (i : Item) : Bool := bitsOf (i.fld 1 1) 3 1 = 1
/-- Engine-specific flag n, 4 to 7, of byte 1. -/
def Item.flag (i : Item) (n : Nat) : Bool := bitsOf (i.fld 1 1) n 1 = 1
def Item.pipeline (i : Item) : Nat := i.fld 2 1
def Item.cls (i : Item) : Nat := bitsOf (i.fld 3 1) 0 2
def Item.token (i : Item) : Nat := i.fld 4 4
def Item.flow (i : Item) : Nat := i.fld 8 3
def Item.after (i : Item) : Nat := i.fld 12 4

/-- The opcodes' codes (13 Table 13.3 and the chapters of the engines). -/
def opIngestRecords : Nat := 0x01
def opIngestColumns : Nat := 0x02
def opIngestFrame : Nat := 0x03
def opGather : Nat := 0x04
def opSelect : Nat := 0x05
def opSample : Nat := 0x06
def opCompress : Nat := 0x07
def opDecompress : Nat := 0x08
def opFlush : Nat := 0x09
def opBatchClose : Nat := 0x0A
def opTableReplace : Nat := 0x10
def opFirnLoad : Nat := 0x11
def opFirnSwap : Nat := 0x12
def opAgeTick : Nat := 0x13
def opEpochSet : Nat := 0x14
def opQueueMark : Nat := 0x18
def opQueueRewind : Nat := 0x19
def opQueueRelease : Nat := 0x1A
def opAbort : Nat := 0x1F
def opImageBegin : Nat := 0x20
def opImageChunk : Nat := 0x21
def opImageCommit : Nat := 0x22
def opImageUnload : Nat := 0x23

/-- Pipeline opcodes (Table 13.3). -/
def isPipelineOp (o : Nat) : Bool := (1 ≤ o && o ≤ 0x0A) || (0x10 ≤ o && o ≤ 0x14) || (0x18 ≤ o && o ≤ 0x1A)

/-- Image opcodes (Table 13.3). -/
def isImageOp (o : Nat) : Bool := 0x20 ≤ o && o ≤ 0x23

/-- Port opcodes (Table 13.3). -/
def isPortOp (o : Nat) : Bool := o == 0 || o == opAbort || isImageOp o

/-- The SCHED record of a pipeline in the loaded image. -/
def State.sched (s : State) (p : Port) (pipeline : Nat) : Option Sched :=
  s.parts[p].image.bind fun im => im.scheds.find? (·.pipeline == pipeline)

/-- The kind-3 FIFO record of batch queue m (12 R268). -/
def State.bqRecord (s : State) (p : Port) (m : Nat) : Option Fifo :=
  s.parts[p].image.bind fun im => im.fifos.find? fun r => r.kind == 3 && r.cls == m

/-- A status of work that was done, which a continuation follows (04 R99). -/
def Status.carriesOn (st : Status) : Bool := st == .ok || st == .partialDone || st == .stopped

/-- An item of the given opcode in service. -/
def State.serving (s : State) (p : Port) (k op : Nat) : Option Item :=
  match s.item? p k with
  | some i => if i.st == .inService && i.opcode == op then some i else none
  | none => none

/-- The context of a pipeline (10 R237). -/
def State.ctxOf (s : State) (p : Port) (pipeline : Nat) : RimeCtx := s.parts[p].ctx[Fin.ofNat 256 pipeline]

/-- Bits of an element of a format (04 Table 4.3). -/
def fmtBits (f : Nat) : Nat :=
  if f ≤ 1 then 4 else if f ≤ 3 then 8 else if f ≤ 5 then 16 else if f ≤ 7 then 32 else if f ≤ 9 then 16
  else if f = 10 then 32 else 64

/-! ## Address spaces (07 Table 7.3) -/

/-- Where an address of a space lies: the submitting host, a tile's slab, a stack of the partition's range. -/
inductive Place3 where
  | host (a : Nat)
  | slab (t off : Nat)
  | hbm (stack off : Nat)
  | bad
  deriving DecidableEq, Repr

/-- Read an address in its space (07 Table 7.3); a non-zero reserved bit or space 3 is `bad`. -/
def place3 (space addr : Nat) : Place3 :=
  match space with
  | 0 => .host addr
  | 1 => if addr < 2 ^ 32 then .slab (addr / 2 ^ 25) (addr % 2 ^ 25) else .bad
  | 2 => if addr < 2 ^ 40 then .hbm (addr / 2 ^ 37) (addr % 2 ^ 37) else .bad
  | _ => .bad

/-- Bytes of the partition's range in each stack (03 Table 3.3). -/
def State.hbmRange (s : State) (p : Port) : Nat := s.parts[p].place.elim 0 fun r => r.hbmSize * 2 ^ 30

/-- n bytes at a place lie within what partition p may touch (07 R170, 08 R202). -/
def State.inBounds (s : State) (p : Port) (x : Place3) (n : Nat) : Bool :=
  match x with
  | .host _ => true
  | .slab t off => s.ownsCluster p (t / 8) && t < 128 && off + n ≤ slabBytes
  | .hbm _ off => off + n ≤ s.hbmRange p
  | .bad => false

/-- Outcome of reading n bytes: the bytes, or an uncorrectable error. -/
inductive Fetched where
  | bytes (bs : List Byte)
  | ue
  deriving DecidableEq, Repr

/-- A byte of host memory as an item reads it: the byte its read completion delivered, else what the host's memory holds
(20 R558). -/
def State.itemHostByte (s : State) (p : Port) (i : Item) (a : Nat) : Byte :=
  (i.delivered.find? (a % 2 ^ 64)).getD (s.host.get (hostKey p a))

/-- An uncorrectable error stands in n bytes at a place. -/
def State.placeBad (s : State) (p : Port) (x : Place3) (n : Nat) : Bool :=
  match x with
  | .slab t off => s.slabBad t off n
  | .hbm st off => s.hbmBad p st off n
  | _ => false

/-- The n bytes at a place as an item reads them. -/
def State.placeBytes (s : State) (p : Port) (i : Item) (x : Place3) (n : Nat) : List Byte :=
  match x with
  | .host a => (List.range n).map fun k => s.itemHostByte p i (a + k)
  | .slab t off => s.slabGet t off n
  | .hbm st off => s.hbmGet p st off n
  | .bad => List.replicate n 0

/-- Read n bytes at a place for an item. -/
def State.readPlace (s : State) (p : Port) (i : Item) (x : Place3) (n : Nat) : Fetched :=
  if s.placeBad p x n then .ue else .bytes (s.placeBytes p i x n)

/-- Write bytes at a place. -/
def State.writePlace (s : State) (p : Port) (x : Place3) (bs : List Byte) : State :=
  match x with
  | .host a => s.hostPut p a bs
  | .slab t off => s.slabPut t off bs
  | .hbm st off => s.hbmPut p st off bs
  | .bad => s

/-- A place n bytes further on. -/
def Place3.plus (x : Place3) (n : Nat) : Place3 :=
  match x with
  | .host a => .host (a + n)
  | .slab t off => .slab t (off + n)
  | .hbm st off => .hbm st (off + n)
  | .bad => .bad

/-! ## Firn sets (08 R191, R197) -/

/-- Element bytes of a row of W elements at a width class (Table 8.3). -/
def rowElems (cls w : Nat) : Nat :=
  match cls with
  | 0 => 4 * w
  | 1 => 2 * w
  | 2 => w
  | _ => (w + 1) / 2

/-- Scale bytes of a width class. -/
def rowScale (cls : Nat) : Nat := if cls < 2 then 0 else 2

/-- Stride of a cold row. -/
def coldStride (g : GatherRec) : Nat := roundUp (rowElems g.classCold g.rowWidth) 32

/-- SLOT_BYTES of a table's firn set (08 R191). -/
def slotBytes (g : GatherRec) : Nat := roundUp (rowElems g.classHot g.rowWidth + rowScale g.classHot) 64

/-- Slots per tile per half. -/
def slotsPerTile (g : GatherRec) (tiles : Nat) : Nat := ceilDiv g.firnSlots tiles

/-- HALF_BYTES. -/
def halfBytes (g : GatherRec) (tiles : Nat) : Nat :=
  slotsPerTile g tiles * slotBytes g + roundUp (4 * slotsPerTile g tiles) 64

/-- The GATHER record of a table. -/
def State.gatherRec (s : State) (p : Port) (table : Nat) : Option GatherRec :=
  s.parts[p].image.bind fun im => im.gathers.find? (·.table == table)

/-- Half h of a table's firn set lies over a byte of a tile (R191). -/
def State.halfLies (s : State) (p : Port) (c : GatherRec) (h : Bool) (t off : Nat) : Bool :=
  let n := halfBytes c (s.tilesOf p).length
  let base := c.firnBase * 64 + h.toNat * n
  c.firnSlots != 0 && (s.tilesOf p).contains t && base ≤ off && off < base + n

/-- A table after an uncorrectable error at a byte of a tile: the half over it is invalid (R197). -/
def State.halvesAfterUe (s : State) (p : Port) (t off : Nat) (g : GatherRun) : GatherRun :=
  match s.gatherRec p g.table with
  | none => g
  | some c => { g with validA := g.validA && !s.halfLies p c false t off, validB := g.validB && !s.halfLies p c true t off }

/-- The halves of partition p's tables after an uncorrectable error at a byte of a tile. -/
def State.breakHalves (s : State) (p : Port) (t off : Nat) : State :=
  s.updPart p fun x => { x with gtab := x.gtab.map (s.halvesAfterUe p t off) }

/-- An uncorrectable error met in a tile's slab: the tile's fault summary, ERROR_CONTAINED with the 64-byte unit, and firn
halves that hold the unit invalid (20 R450, R452, 08 R197). -/
def State.slabLost (s : State) (t off : Nat) : State :=
  let u : UnitId := ⟨.tile, t⟩
  (((List.finRange 6).foldl (fun a p => a.breakHalves p t (off / 64 * 64)) s).setFault u 0).contained u 0 (off / 64) []

/-- A hardware path of a unit whose request to HBM passes its partition's range (03 R83): it gets no access, the unit is FENCED
and ERROR_CONTAINED is posted with the cause of a failed check (log 102). -/
def State.pathFails (s : State) (u : UnitId) : State :=
  if (s.ledgerWord u).oper == .fenced then s else (s.ledgerMod u ({ · with oper := .fenced })).contained u 7 0 []

end Sys2Proof.Machine
end

