-- ==== Sys2Proof/Machine/ImageParse.lean ====
section
/-! DEFINITION. Reading a Claque image: header, section table, sections and records (02 R31 to R48). -/

namespace Sys2Proof.Machine

/-! ## Header and section table -/

def imgMagic (b : List Byte) : Nat := field b 0 4
def imgMajor (b : List Byte) : Nat := field b 4 2
def imgMinor (b : List Byte) : Nat := field b 6 2
def imgKind (b : List Byte) : Nat := field b 8 1
def imgTarget (b : List Byte) : Nat := field b 9 1
def imgCount (b : List Byte) : Nat := field b 0x0A 2
def imgTotal (b : List Byte) : Nat := field b 0x10 8
def imgTable (b : List Byte) : Nat := field b 0x18 8
def imgSig (b : List Byte) : Nat := field b 0x20 8
def imgVersion (b : List Byte) : Nat := field b 0x28 8
def imgDigest (b : List Byte) : List Byte := slice b 0x60 48

/-- A section with its table entry (Table 2.3). -/
structure Sec where
  idx : Nat
  /-- image offset of its entry -/
  entry : Nat
  ty : Nat
  flags : Nat
  length : Nat
  off : Nat
  mask : Nat
  crc : Nat
  body : List Byte
  deriving DecidableEq, Repr

/-- Section k of an image. -/
def secAt (b : List Byte) (k : Nat) : Sec :=
  let e := imgTable b + 32 * k
  let off := field b (e + 8) 8
  let len := field b (e + 4) 4
  { idx := k, entry := e, ty := field b e 2, flags := field b (e + 2) 2, length := len, off := off, mask := field b (e + 16) 8
    crc := field b (e + 24) 4, body := slice b off len }

/-- The sections of an image, in table order. -/
def sections (b : List Byte) : List Sec := (List.range (imgCount b)).map (secAt b)

/-- Section type codes (Table 2.4). -/
def tyPlace : Nat := 1
def tyTileProg : Nat := 2
def tyConst : Nat := 3
def tyRoute : Nat := 4
def tyQuota : Nat := 5
def tyFifo : Nat := 6
def tySched : Nat := 7
def tyDecode : Nat := 8
def tyGather : Nat := 9
def tyWarp : Nat := 10
def tyPower : Nat := 11

/-- Record size of a type with a preamble, 0 for the others (R41, Tables 2.6 to 2.14). -/
def recordSize : Nat → Nat
  | 1 => 128 | 2 => 800 | 4 => 16 | 5 => 16 | 6 => 32 | 7 => 32 | 9 => 32 | 11 => 16 | _ => 0

/-- The sections of a type, in order. -/
def secsOf (ss : List Sec) (ty : Nat) : List Sec := ss.filter (·.ty == ty)

/-- A record of a section: its index, its image offset, its bytes. -/
structure Rec where
  sec : Nat
  idx : Nat
  off : Nat
  bytes : List Byte
  deriving DecidableEq, Repr

/-- n-byte field of a record. -/
def Rec.fld (r : Rec) (off n : Nat) : Nat := field r.bytes off n

/-- The records of a section with a preamble (R41). -/
def Sec.records (s : Sec) : List Rec :=
  let n := recordSize s.ty
  (List.range (min (field s.body 4 4) ((s.length - 16) / max 1 n))).map fun i =>
    { sec := s.idx, idx := i, off := s.off + 16 + n * i, bytes := slice s.body (16 + n * i) n }

/-- All records of a type. -/
def recordsOf (ss : List Sec) (ty : Nat) : List Rec := (secsOf ss ty).flatMap Sec.records

/-! ## Records -/

/-- Read a PLACE record (Table 2.6). -/
def parsePlace (r : List Byte) : Option Place :=
  let f := field r 1 1
  if f % 2 = 0 then none
  else some
    { retain := decide (bitsOf f 1 1 = 1), bar4 := decide (bitsOf f 2 1 = 1), datVcs := field r 2 1, vfCount := field r 3 1
      clusters := BitVec.ofNat 16 (field r 4 2), qpPf := field r 6 1, qpVf := field r 7 1, hbmBase := field r 8 2
      hbmSize := field r 10 2, hbmWeight := field r 12 2, decodeWeight := field r 14 2, compressWeight := field r 16 2
      gatherWeight := field r 18 2, msixPf := field r 20 2, msixVf := field r 22 1, admission := field r 24 4
      flows := field r 28 4, firnRows := field r 32 4, keyHash := slice r 48 48 }

/-- Read the four bindings of a TILE_PROG record (Table 4.4). -/
def parseBinds (r : List Byte) : List Binding :=
  (List.range 4).map fun i =>
    { kind := field r (8 + 5 * i) 1, reg := field r (9 + 5 * i) 1, param := field r (10 + 5 * i) 3 }

/-- Read a TILE_PROG record (Table 2.7). -/
def parseProg (r : List Byte) : TileProg :=
  { tile := field r 0 1, pipeline := field r 1 1, pass := field r 2 1, slots := field r 3 1, nextPass := field r 4 1
    binds := parseBinds r, passCtrl := field r 28 1, counts := field r 29 3
    words := (List.range 96).map fun i => BitVec.ofNat 64 (field r (32 + 8 * i) 8) }

/-- Read a CONST section (Table 2.8). -/
def parseConst (s : Sec) : ConstSec :=
  { clusters := BitVec.ofNat 16 s.mask, offset := field s.body 0 4, length := field s.body 4 4
    tileMask := BitVec.ofNat 8 (field s.body 8 1), fill := decide (field s.body 9 1 = 1), data := s.body.drop 32 }

/-- Read a ROUTE record (Table 2.9). -/
def parseRoute (r : List Byte) : Route :=
  { stop := field r 0 1, network := field r 1 1, entry := field r 2 2, route := BitVec.ofNat 64 (field r 8 8) }

/-- Read a QUOTA record (Table 2.10). -/
def parseQuota (r : List Byte) : Quota :=
  { src := field r 0 1, dst := field r 1 1, network := field r 2 1, vc := field r 3 1, req := field r 4 2, rsp := field r 6 2 }

/-- Read a FIFO record (Table 2.11). -/
def parseFifo (r : List Byte) : Fifo :=
  { cls := field r 0 1, kind := field r 1 1, depth := field r 2 2, slotBytes := field r 4 4, wmHigh := field r 8 2
    wmLow := field r 10 2, wmHyst := field r 12 2, pins := decide (field r 14 1 % 2 = 1) }

/-- Read a SCHED record (Table 2.12). -/
def parseSched (r : List Byte) : Sched :=
  { pipeline := field r 0 1, entryType := field r 1 1, entryUnit := field r 2 1, classes := field r 3 1
    admission := field r 4 4, flows := field r 8 4, cont := decide (field r 12 1 % 2 = 1), opcodes := field r 16 8 }

/-- Read a GATHER record (Tables 2.13 and 8.2). -/
def parseGather (r : List Byte) : GatherRec :=
  let a := field r 24 4
  { table := field r 0 1, classHot := field r 1 1, classCold := field r 2 1, rowWidth := field r 4 2, maxRows := field r 8 8
    dataPage := field r 16 4, dirPage := field r 20 4, firnSlots := bitsOf a 0 21, hotFp16 := decide (bitsOf a 21 1 = 1)
    coldFp16 := decide (bitsOf a 22 1 = 1), firnBase := bitsOf (field r 28 4) 0 19, raw := r }

/-- Read a DECODE section (Table 2.15). -/
def parsePlan (s : Sec) : Plan :=
  { plan := field s.body 0 2, container := field s.body 2 1, columns := field s.body 4 2, params := slice s.body 8 24
    instrs := (List.range (field s.body 6 2)).map fun i => BitVec.ofNat 64 (field s.body (64 + 8 * i) 8) }

/-- Read a WARP section (Table 2.16). -/
def parseWarp (s : Sec) : WarpMesh :=
  let c := field s.body 2 2
  let r := field s.body 4 2
  { mesh := field s.body 0 2, cols := c, rows := r, filter := field s.body 6 1, outW := field s.body 8 2
    outH := field s.body 10 2, fill := BitVec.ofNat 32 (field s.body 12 4), units := BitVec.ofNat 16 s.mask
    points := (List.range (c * r)).map fun i =>
      (BitVec.ofNat 32 (field s.body (32 + 8 * i) 4), BitVec.ofNat 32 (field s.body (36 + 8 * i) 4)) }

/-- Read a POWER record (Table 2.14). -/
def parsePower (r : List Byte) : PowerRec :=
  { cluster := field r 0 1, sleepFloor := field r 1 1, maxOp := field r 2 1, hystIdle := field r 4 4, hystFloor := field r 8 4 }

/-- The structure of a PART image. -/
def parsePart (b : List Byte) : PartImage :=
  let ss := sections b
  let recs (ty : Nat) : List (List Byte) := (recordsOf ss ty).map (·.bytes)
  { version := BitVec.ofNat 64 (imgVersion b), digest := imgDigest b, progs := (recs tyTileProg).map parseProg
    consts := (secsOf ss tyConst).map parseConst, routes := (recs tyRoute).map parseRoute
    quotas := (recs tyQuota).map parseQuota, fifos := (recs tyFifo).map parseFifo, scheds := (recs tySched).map parseSched
    plans := (secsOf ss tyDecode).map parsePlan, gathers := (recs tyGather).map parseGather
    warps := (secsOf ss tyWarp).map parseWarp, powers := (recs tyPower).map parsePower, raw := b }

/-- The PLACE records of a FLOOR image. -/
def parseFloor (b : List Byte) : FloorImage :=
  let rs := recordsOf (sections b) tyPlace
  { version := BitVec.ofNat 64 (imgVersion b), digest := imgDigest b
    places := Vector.ofFn fun (k : Fin 6) => (rs[k.val]?).bind fun r => parsePlace r.bytes }

/-! ## Routes (14 Table 14.8) -/

def routeHops (r : BitVec 64) : Nat := bitsOf r.toNat 0 5
def routeDirs (r : BitVec 64) : Nat := bitsOf r.toNat 5 44
def routeDir (r : BitVec 64) (k : Nat) : Nat := bitsOf r.toNat (5 + 2 * k) 2
def routeVc (r : BitVec 64) : Nat := bitsOf r.toNat 49 2
def routeRxq (r : BitVec 64) : Nat := bitsOf r.toNat 51 2
def routeDst (r : BitVec 64) : Nat := bitsOf r.toNat 53 8

/-- The stop one hop on: 0 EAST, 1 WEST, 2 SOUTH, 3 NORTH; none where the hop leaves the grid (R320, R331). -/
def hopFrom (stop dir : Nat) : Option Nat :=
  let x := stop % 12
  let y := stop / 12
  match dir with
  | 0 => if x < 11 then some (stop + 1) else none
  | 1 => if 0 < x then some (stop - 1) else none
  | 2 => if y < 11 then some (stop + 12) else none
  | _ => if 0 < y then some (stop - 12) else none

/-- The links of a route, as (stop, direction), from hop k on for n hops, and the stop it ends at; none where it leaves the
grid. -/
def walkRoute (r : BitVec 64) : Nat → Nat → Nat → Option (List (Nat × Nat) × Nat)
  | 0, _, stop => some ([], stop)
  | n + 1, k, stop =>
    match hopFrom stop (routeDir r k) with
    | none => none
    | some s' =>
      match walkRoute r n (k + 1) s' with
      | none => none
      | some (l, e) => some ((stop, routeDir r k) :: l, e)

/-- The links and the end of a ROUTE record's route. -/
def Route.walk (r : Route) : Option (List (Nat × Nat) × Nat) := walkRoute r.route (routeHops r.route) 0 r.stop

end Sys2Proof.Machine
end

