-- ==== Sys2Proof/Machine/Router.lean ====
section
/-! DEFINITION. The stops of the mesh, its flits, how routers forward them, and the link CRCs (14 R320 to R332, R340). -/

namespace Sys2Proof.Machine

/-! ## Stops (R320 to R323) -/

/-- Stop of a tile (R321). -/
def tileStop (t : Nat) : Nat :=
  let c := t / 8
  let n := t % 8
  let bx := if c < 6 then c else if c < 10 then c - 5 else c - 10
  let byy := if c < 6 then 0 else if c < 10 then 1 else 2
  12 * (4 * byy + n / 2) + (2 * bx + n % 2)

/-- The tile at a stop. -/
def tileAtStop (stop : Nat) : Option Nat := (List.range 128).find? fun t => tileStop t == stop

/-- Stops of the HBM controllers, stack 0 to 7 (Table 14.2). -/
def hbmStops : List Nat := [48, 60, 72, 84, 59, 71, 83, 95]

/-- Stops of the host ports, HP0 to HP5 (Table 14.2). -/
def portStops : List Nat := [49, 61, 73, 58, 70, 82]

/-- Stops of Orlys 0 and Orlys 1 (Table 14.2). -/
def orlysStops : List Nat := [85, 94]

/-- Stop of Orlys 0, to which the security engine attaches (R323); the fences of an apply leave from it (log 105). -/
def orlysStop : Nat := 85

/-- The units at a stop (R321 to R323). The units at an Orlys stop have no ledger word. -/
def unitsAtStop (stop : Nat) : List UnitId :=
  match tileAtStop stop with
  | some t =>
    [⟨.tile, t⟩] ++ (if t % 8 = 0 then [⟨.select, t / 8⟩] else []) ++ (if t % 8 = 1 then [⟨.warp, t / 8⟩] else [])
  | none =>
    match hbmStops.findIdx? (· == stop) with
    | some k => [⟨.hbm, k⟩, ⟨.gather, k⟩, ⟨.compress, k⟩]
    | none =>
      match portStops.findIdx? (· == stop) with
      | some p => [⟨.port, p⟩, ⟨.decode, 2 * p⟩, ⟨.decode, 2 * p + 1⟩]
      | none => []

/-- Network number. -/
def netCode : Net → Nat
  | .req => 0 | .rsp => 1 | .snp => 2 | .dat => 3

/-! ## Link CRCs (R340) -/

/-- One bit enters a CRC register of n bits. -/
def crcStep (n poly reg : Nat) (b : Bool) : Nat :=
  let r := reg * 2 % 2 ^ n
  if reg.testBit (n - 1) != b then r ^^^ poly else r

/-- The low k bits of x enter a CRC register, the highest first (log 106). -/
def crcRun (n poly x : Nat) : Nat → Nat → Nat
  | 0, reg => reg
  | k + 1, reg => crcRun n poly x k (crcStep n poly reg (x.testBit k))

/-- Link CRC-12: x^12 + x^11 + x^3 + x^2 + x + 1. -/
def crc12 (x k reg : Nat) : Nat := crcRun 12 0x80F x k reg

/-- Link CRC-8: x^8 + x^2 + x + 1. -/
def crc8 (x k : Nat) : Nat := crcRun 8 0x07 x k 0

/-- A REQ or RSP flit with its CRC, over bits [147:0]. -/
def sealFlit (body : Nat) : BitVec 160 := BitVec.ofNat 160 (body + crc12 body 148 0 * 2 ^ 148)

/-- An SNP flit with its CRC, over bits [87:0]. -/
def sealSnp (body : Nat) : BitVec 96 := BitVec.ofNat 96 (body + crc8 body 88 * 2 ^ 88)

/-- The sideband of a DAT flit: its header slice and its CRC, over the payload, which leaves `reg`, and then the slice. -/
def sideband (reg head : Nat) : Nat := head + crc12 head 20 reg * 2 ^ 20

/-- A DAT flit with its CRC: the sideband stands above the payload. -/
def sealDat (payload head : Nat) : BitVec 1056 :=
  BitVec.ofNat 1056 (payload + sideband (crc12 payload 1024 0) head * 2 ^ 1024)

/-- A flit received on a link passes its CRC: a REQ or RSP flit in the low 160 bits, an SNP flit in the low 96, or a DAT flit. -/
def flitPasses (net : Net) (bits : BitVec 1056) : Bool :=
  let b := bits.toNat
  match net with
  | .req | .rsp => sealFlit (bitsOf b 0 148) == BitVec.ofNat 160 b
  | .snp => sealSnp (bitsOf b 0 88) == BitVec.ofNat 96 b
  | .dat => sealDat (bitsOf b 0 1024) (bitsOf b 1024 20) == bits

/-! ## Flits -/

/-- The fields of a REQ or RSP flit that no router changes (Table 14.4). -/
structure FlitHead where
  vc : Nat
  src : Nat
  part : Nat
  kind : Nat
  tag : BitVec 16
  addr : BitVec 40
  arg : Nat

/-- A REQ or RSP flit but for its CRC; reserved bits are 0 (Table 14.4). -/
def flitBody (hops dirs : Nat) (h : FlitHead) : Nat :=
  hops + dirs * 2 ^ 5 + h.vc * 2 ^ 49 + h.src * 2 ^ 51 + h.part * 2 ^ 59 + h.kind * 2 ^ 64 + h.tag.toNat * 2 ^ 72 +
    h.addr.toNat * 2 ^ 88 + h.arg * 2 ^ 128

/-- An SNP INVALIDATE but for its CRC (Table 14.5). -/
def snpBody (hops dirs vc src table bucket : Nat) : Nat :=
  hops + dirs * 2 ^ 5 + vc * 2 ^ 49 + src * 2 ^ 51 + table * 2 ^ 60 + bucket * 2 ^ 68

/-- The header slices of a DAT packet with `hop` hops taken (Table 14.6). DIRS of flit j are the hops 4j to 4j + 3. -/
def datHeads (route : BitVec 64) (hop src part : Nat) (resp : Bool) (tag : BitVec 16) : List Nat :=
  let d (j : Nat) : Nat := bitsOf (routeDirs route) (8 * j) 8
  [routeVc route + routeHops route * 2 ^ 2 + hop * 2 ^ 7 + d 0 * 2 ^ 12,
   d 1 + src * 2 ^ 8 + part * 2 ^ 16 + resp.toNat * 2 ^ 19,
   d 2 + routeRxq route * 2 ^ 8,
   d 3 + bitsOf tag.toNat 0 12 * 2 ^ 8,
   d 4 + bitsOf tag.toNat 12 4 * 2 ^ 8,
   bitsOf (routeDirs route) 40 4, 0, 0]

/-- The 1,024 payload bytes of a packet: bytes that it does not need are open. -/
def packetBytes (bs : List Byte) : List Byte :=
  bs ++ (List.range (1024 - bs.length)).map fun n => Config.packetPad (bs.length + n)

/-- The eight flits of a DAT packet as they leave an NI (R327). -/
def datPacket (route : BitVec 64) (src part : Nat) (resp : Bool) (tag : BitVec 16) (bs : List Byte) : List (BitVec 1056) :=
  (datHeads route 0 src part resp tag).zipIdx.map fun h => sealDat (leNat (slice (packetBytes bs) (128 * h.2) 128)) h.1

/-! ## Routers (R328) -/

/-- What a router leaves of a single-flit message of a network that it forwards: DIRS shifted by a hop, HOPS_LEFT one less, the
CRC of the flit as changed. -/
def hopFlit (net b : Nat) : Nat :=
  let body (top : Nat) : Nat := bitsOf b 49 (top - 49) * 2 ^ 49 + bitsOf b 7 42 * 2 ^ 5 + (bitsOf b 0 5 - 1)
  if net = 2 then (sealSnp (body 88)).toNat else (sealFlit (body 148)).toNat

/-- A single-flit message of a network from a stop's router on: the links that it takes and the stop that ejects it. -/
def rideFlit (net : Nat) : Nat → Nat → Nat → List (Nat × Nat) × Nat
  | 0, stop, _ => ([], stop)
  | n + 1, stop, b =>
    if bitsOf b 0 5 = 0 then ([], stop)
    else
      match hopFrom stop (bitsOf b 5 2) with
      | none => ([], stop)
      | some d =>
        let r := rideFlit net n d (hopFlit net b)
        ((stop, bitsOf b 5 2) :: r.1, r.2)

/-- The direction in which the router at hop k forwards a packet: from flit floor(k / 4). -/
def datDir (heads : List Nat) (k : Nat) : Nat := bitsOf (heads.getD (k / 4) 0) ((if k < 4 then 12 else 0) + 2 * (k % 4)) 2

/-- What a router leaves of a packet's sidebands: HOP one more in flit 0, whose payload leaves `reg` in the CRC, and its CRC as
changed. -/
def hopPacket (reg : Nat) : List Nat → List Nat
  | [] => []
  | h :: hs => sideband reg (bitsOf h 0 20 + 2 ^ 7) :: hs

/-- A packet, as its sidebands and what the payload of flit 0 leaves in the CRC, from a stop's router on; its eight flits pass
each router together, which holds the output VC for them. -/
def ridePacket (reg : Nat) : Nat → Nat → List Nat → List (Nat × Nat) × Nat
  | 0, stop, _ => ([], stop)
  | n + 1, stop, hs =>
    let k := bitsOf (hs.getD 0 0) 7 5
    if k = bitsOf (hs.getD 0 0) 2 5 then ([], stop)
    else
      match hopFrom stop (datDir hs k) with
      | none => ([], stop)
      | some d =>
        let r := ridePacket reg n d (hopPacket reg hs)
        ((stop, datDir hs k) :: r.1, r.2)

/-- A message along a route entry: the links that routers take it over and the stop that ejects it. Nothing of that depends on
its payload or on the fields that no router reads, which are 0 here. -/
def Route.ride (r : Route) : List (Nat × Nat) × Nat :=
  if r.network = 3 then ridePacket 0 32 r.stop ((datHeads r.route 0 r.stop 0 false 0).map (sideband 0))
  else rideFlit r.network 32 r.stop (routeHops r.route + routeDirs r.route * 2 ^ 5)

/-! ## Device traffic (R330) -/

/-- The links of a path that takes all hops of one axis, then of the other. -/
def axisLinks (src dst : Nat) (yFirst : Bool) : List (Nat × Nat) :=
  let alongX (y x0 x1 : Nat) : List (Nat × Nat) :=
    if x0 ≤ x1 then (List.range (x1 - x0)).map fun i => (12 * y + x0 + i, 0)
    else (List.range (x0 - x1)).map fun i => (12 * y + x0 - i, 1)
  let alongY (x y0 y1 : Nat) : List (Nat × Nat) :=
    if y0 ≤ y1 then (List.range (y1 - y0)).map fun i => (12 * (y0 + i) + x, 2)
    else (List.range (y0 - y1)).map fun i => (12 * (y0 - i) + x, 3)
  let sx := src % 12
  let sy := src / 12
  let dx := dst % 12
  let dy := dst / 12
  if yFirst then alongY sx sy dy ++ alongX dy sx dx else alongX sy sx dx ++ alongY dx sy dy

/-- A flit of device traffic: the fixed route of the device bank, VC 3, PART 6. -/
def deviceFlit (net kind src dst arg : Nat) (yFirst : Bool) : Msg :=
  let ds := (axisLinks src dst yFirst).map (·.2)
  .flit net (sealFlit (flitBody ds.length (ds.foldr (fun d a => d + 4 * a) 0)
    { vc := 3, src := src, part := 6, kind := kind, tag := Config.unusedTag kind, addr := Config.unusedAddr kind, arg := arg }))

end Sys2Proof.Machine
end

