-- ==== Sys2Proof/Machine/Sleep.lean ====
section
/-! DEFINITION. Sleep and thaw of clusters and shared units (16 R367 to R375, R385). -/

namespace Sys2Proof.Machine

/-- The units of cluster c beside the cluster itself (16 Table 16.3). -/
def clusterUnits (c : Nat) : List UnitId :=
  ((List.range 8).map fun n => ⟨.tile, 8 * c + n⟩) ++ [⟨.select, c⟩, ⟨.warp, c⟩]

/-- Write an oper state where the unit is not FAULTED or FENCED (18 R425, R426). -/
def State.setOper (s : State) (o : Oper) (u : UnitId) : State :=
  s.ledgerMod u fun w => if w.oper.down then w else { w with oper := o }

/-- A cluster and each of its units take an oper state (R375). -/
def State.setClusterOper (s : State) (c : Nat) (o : Oper) : State :=
  (⟨.cluster, c⟩ :: clusterUnits c).foldl (fun a u => a.setOper o u) s

/-- Partition that owns cluster c by the ledger. -/
def State.clusterOwner (s : State) (c : Nat) : Option Port := ownerPort (s.ledgerWord ⟨.cluster, c⟩).owner

/-- The counter of thaws from a state (Table 24.5). -/
def thawCounter : Oper → PCnt
  | .off => .thawOff
  | .retain => .thawRetain
  | _ => .thawIdle

/-- A trigger starts a thaw of cluster c (R372): none while one is in progress, in RUN, in a tripped or faulted domain, or in
a cluster without an owner; a trigger during an entry thaws when the entry completes (Table 16.8); a cluster out of service
is thawed only by an Orlys operation (R374). -/
def State.startThaw (s : State) (c : Cluster) (orlys : Bool := false) : State :=
  let w := s.ledgerWord ⟨.cluster, c.val⟩
  let x := s.clusters[c]
  if s.power.tripped || w.oper.down || w.owner == 0xFF then s
  else if (w.admin == .outOfService || w.admin == .maintenance) && !orlys then s
  else if x.thawing.isSome then s
  else if x.entering.isSome then s.updCluster c fun x => { x with rethaw := true, byOrlys := x.byOrlys || orlys }
  else if w.oper == .run then s
  else
    let s1 := s.updCluster c ({ · with thawing := some w.oper })
    match ownerPort w.owner with
    | some p => s1.countP p (thawCounter w.oper) 1
    | none => s1

/-- Thaw every cluster of a partition. -/
def State.thawPartition (s : State) (p : Port) (orlys : Bool := false) : State :=
  (s.clustersOf p).foldl (fun a c => a.startThaw c orlys) s

/-- A trigger starts a thaw of a shared unit. -/
def State.startThawUnit (s : State) (u : UnitId) : State :=
  let o := (s.ledgerWord u).oper
  if s.power.tripped || o.down || o == .run || s.unitSleep.any (·.1 == u.slot) then s
  else { s with unitSleep := s.unitSleep ++ [(u.slot, none, some o)] }

/-- The unit's domain is a cluster's: that cluster. -/
def unitCluster (u : UnitId) : Option Cluster :=
  match u.ty with
  | .tile => some (Fin.ofNat 16 (u.idx / 8))
  | .cluster | .select | .warp => some (Fin.ofNat 16 u.idx)
  | _ => none

/-- Thaw the domain of a unit (Table 16.5). -/
def State.thawUnit (s : State) (u : UnitId) (orlys : Bool := false) : State :=
  match unitCluster u with
  | some c => s.startThaw c orlys
  | none =>
    match u.ty with
    | .decode | .compress | .gather => s.startThawUnit u
    | _ => s

/-! ## Units that can take work (15 R355, 18 R430) -/

/-- Units that act together as one: the eight gather engines (15 Table 15.4). -/
def unitGroup (u : UnitId) : List UnitId := if u.ty == .gather then (List.range 8).map fun n => ⟨.gather, n⟩ else [u]

/-- Every unit of a group, and its cluster, satisfies a condition on its ledger word. -/
def State.unitsAll (s : State) (u : UnitId) (ok : LedgerWord → Bool) : Bool :=
  (unitGroup u).all (fun v => ok (s.ledgerWord v)) && (unitCluster u).all fun c => ok (s.ledgerWord ⟨.cluster, c.val⟩)

/-- The unit takes dispatch: it is IN_SERVICE and neither FAULTED nor FENCED, its cluster too. -/
def State.usable (s : State) (u : UnitId) : Bool := s.unitsAll u fun w => w.admin == .inService && !w.oper.down

/-- The unit still runs what was dispatched to it: IN_SERVICE or DRAINING, neither FAULTED nor FENCED, its cluster too
(15 R364, 18 R429). -/
def State.mayRun (s : State) (u : UnitId) : Bool :=
  s.unitsAll u fun w => (w.admin == .inService || w.admin == .draining) && !w.oper.down

/-- The unit is in RUN. -/
def State.running (s : State) (u : UnitId) : Bool := (unitGroup u).all fun v => (s.ledgerWord v).oper == .run

/-- How deep a unit sleeps: 0 in RUN. -/
def State.depth (s : State) (u : UnitId) : Nat :=
  match (s.ledgerWord u).oper with
  | .run => 0
  | .idle => 1
  | .retain => 2
  | _ => 3

/-- Of some units, in ascending order: the lowest in RUN, else the lowest in the shallowest sleep state (15 R355). -/
def State.lowestAwake (s : State) (us : List UnitId) : Option UnitId :=
  (us.find? s.running).orElse fun _ => us.find? fun u => us.all fun v => s.depth u ≤ s.depth v

/-- An ingest item in service that a compression unit unwraps: its wrapper is on, or its Avro blocks are compressed
(06 R149, R162). -/
def Item.unwraps (i : Item) : Bool :=
  i.st == .inService && (field i.desc 0 1 == 1 || field i.desc 0 1 == 2) &&
  (match i.ingest with
   | none => field i.desc 34 1 != 0
   | some g => g.codec != 0)

/-- The compression unit that works for ingest: chosen as R355 chooses a unit (log 82). -/
def State.unwrapUnit (s : State) : Option UnitId :=
  s.lowestAwake (((List.range 8).map fun n => (⟨.compress, n⟩ : UnitId)).filter s.usable)

/-- An item queued on or in service at unit u, or one whose input it unwraps. -/
def State.unitHolds (s : State) (u : UnitId) : Bool :=
  s.ports.toList.any fun q => q.items.any fun i =>
    (i.unit.any (fun v => (unitGroup u).contains v) && (i.st == .queued || i.st == .inService || i.st == .completing)) ||
    (i.unwraps && s.unwrapUnit == some u)

/-- A tile has work: a pass in progress, passes queued, packets or requests waiting, or pairs staged. -/
def State.tileBusy (s : State) (t : Tile) : Bool :=
  let x := s.tiles[t]
  x.run.isSome || !x.queue.isEmpty || x.rxq.toList.any (!·.isEmpty) || !x.held.isEmpty || !x.staging.isEmpty

/-- A message to a stop of cluster c is under way, or a reservation of one from there has not ended (R345, R369). -/
def State.meshBusy (s : State) (c : Cluster) : Bool :=
  let mine (stop : Nat) : Bool := (List.range 8).any fun n => tileStop (8 * c.val + n) == stop
  s.parts.toList.any fun x => x.waiting.any (fun z => mine z.src) || x.flight.any fun z => mine z.src || (mine z.dst && !z.arrived)

/-- An Orlys operation names cluster c (R369): an image apply, an unload or a scrub of its partition that has drained, or a
self-test of the cluster or one of its units. -/
def State.orlysNames (s : State) (c : Cluster) : Bool :=
  (s.clusterOwner c.val).any (fun p => s.parts[p].op.any fun o => o.phase != .draining && o.phase != .done) ||
  (⟨.cluster, c.val⟩ :: clusterUnits c.val).any fun u => (s.ledgerWord u).selfTest.isSome

/-- Tile and offset of a byte of a port's slab window (22 R494, R530): none past a tile's slab or the partition's tiles. -/
def State.windowByte (s : State) (p : Port) (off : Nat) : Option (Nat × Nat) :=
  let a := s.ports[p].bar4Base * 16777216 + off
  match (s.tilesOf p)[a / 33554432]? with
  | some t => if a % 33554432 < slabBytes then some (t, a % 33554432) else none
  | none => none

/-- Clusters that n bytes of the window from an offset touch. -/
def State.windowClusters (s : State) (p : Port) (off n : Nat) : List Cluster :=
  ((List.finRange 16).filter fun c => (s.windowByte p off).any (fun x => x.1 / 8 == c.val) ||
    (s.windowByte p (off + n - 1)).any (fun x => x.1 / 8 == c.val))

/-- First byte and length of a BAR4 access. -/
def WindowAccess.span : WindowAccess → Nat × Nat
  | .read off n => (off, n)
  | .write off bs => (off, bs.length)

/-- A BAR4 access to a slab of cluster c is in progress (R369). -/
def State.windowBusy (s : State) (c : Cluster) : Bool :=
  (List.finRange 6).any fun p => s.ports[p].windows.any fun w => (s.windowClusters p w.span.1 w.span.2).contains c

/-- Cluster c is idle (R369): no item in service or queued, no arrival or send outstanding, no BAR4 access, no Orlys
operation. -/
def State.clusterIdle (s : State) (c : Cluster) : Bool :=
  (List.range 8).all (fun n => !s.tileBusy (tix (8 * c.val + n)) && !s.unitHolds ⟨.tile, 8 * c.val + n⟩) &&
  !s.unitHolds ⟨.select, c.val⟩ && !s.unitHolds ⟨.warp, c.val⟩ && !s.meshBusy c && !s.windowBusy c && !s.orlysNames c

/-- The POWER record in force for cluster c (R370, R371). -/
def State.powerRecord (s : State) (c : Cluster) : PowerRec :=
  let dflt : PowerRec := { cluster := c.val, sleepFloor := 0, maxOp := 3, hystIdle := 2048, hystFloor := 0 }
  match s.clusterOwner c.val with
  | none => dflt
  | some p =>
    let x := s.parts[p]
    if x.pstate == .loaded || x.pstate == .applying then
      ((x.image.bind fun im => im.powers.find? (·.cluster == c.val)).getD dflt)
    else dflt

/-- Oper state that SLEEP_FLOOR names (Table 2.14). -/
def floorOper : Nat → Oper
  | 0 => .off
  | 1 => .retain
  | _ => .idle

/-- Setting index of a MAX_OP at full duty (17 R396). -/
def maxOpSetting (op : Nat) : Nat := 6 + min op 3

/-- The setting cluster c runs at: the lowest of its MAX_OP, the cap setting and its thermal setting, or the brake setting
(17 R396, R400). -/
def State.targetSetting (s : State) (c : Cluster) : Nat :=
  if s.power.brake then 0
  else min (maxOpSetting (s.powerRecord c).maxOp) (min s.power.capSetting s.power.thermal[c])

/-- The voltage of a setting, in mV (17 Table 17.4, R396): settings 0 to 6 are at 0.8 GHz. -/
def settingVolts (i : Nat) : Nat := if i < 7 then 600 else if i = 7 then 680 else if i = 8 then 760 else 850

/-- Settings at one operating point. -/
def sameFrequency (i j : Nat) : Bool := settingVolts i == settingVolts j

/-- The setting that cluster c, in RUN, takes at once: a lower one, or one of its own frequency; a higher frequency waits for
its voltage (R366, 17 R396). -/
def State.settingNow (s : State) (c : Cluster) : Nat :=
  let r := s.power.running[c]
  let t := s.targetSetting c
  if t < r || sameFrequency r t then t else r

/-- The settings follow their targets (R366, 17 R393, R396): every cluster in RUN takes what it can at once, and its regulator
ramps to the voltage of its target. -/
def State.settle (s : State) : State :=
  let on (c : Cluster) : Bool := s.clusterOper c.val == .run
  { s with power := { s.power with
    running := Vector.ofFn fun (c : Cluster) => if on c then s.settingNow c else s.power.running[c]
    volts := Vector.ofFn fun (c : Cluster) => if on c then settingVolts (s.targetSetting c) else s.power.volts[c] } }

/-- A cluster enters RUN at its target setting, its regulator at that setting's voltage (17 R393, R398). -/
def State.runAt (s : State) (c : Cluster) : State :=
  let t := s.targetSetting c
  { s with power := { s.power with
    running := s.power.running.set c t, volts := s.power.volts.set c (settingVolts t) } }

/-- The voltage of a cluster that is gated: none at OFF, that of its slabs at RETAIN; IDLE gates the clock alone (17 Table
17.4). -/
def State.gateVolts (s : State) (c : Cluster) (o : Oper) : State :=
  match o with
  | .off => { s with power := { s.power with volts := s.power.volts.set c 0 } }
  | .retain => { s with power := { s.power with volts := s.power.volts.set c 450 } }
  | _ => s

/-- Both halves of every firn table of a partition become invalid (08 R197). -/
def State.invalidateFirn (s : State) (p : Port) : State :=
  s.updPart p fun x => { x with gtab := x.gtab.map fun g =>
    if ((x.image.bind fun im => im.gathers.find? (·.table == g.table)).elim false fun r => r.firnSlots != 0)
    then { g with validA := false, validB := false } else g }

/-- A cluster's slabs read zero, as after a thaw from OFF (R368). -/
def State.zeroCluster (s : State) (c : Cluster) : State :=
  let lo := slabKey (8 * c.val) 0
  let hi := slabKey (8 * c.val + 8) 0
  { s with slab := s.slab.clear lo hi, slabUe := s.slabUe.filter fun u => !(lo ≤ 64 * u && 64 * u < hi) }

/-- Vector registers and masks of a cluster's tiles are lost (R368). -/
def State.loseRegisters (s : State) (c : Cluster) : State :=
  (List.range 8).foldl (fun a n => a.updTile (tix (8 * c.val + n)) fun x =>
    { x with vr := Vector.replicate 64 0, pm := Vector.replicate 7 0 }) s

/-- The replica buckets of a cluster's tiles are invalid after a thaw from OFF (05 R144). -/
def State.loseReplicas (s : State) (c : Cluster) : State :=
  match s.clusterOwner c.val with
  | none => s
  | some p => s.updPart p fun x => { x with
      replicas := ((List.range 8).map fun n => { tile := 8 * c.val + n, lost := true, flips := [] }) ++
        x.replicas.filter fun r => r.tile / 8 != c.val }

/-- The end of a thaw (R368, R373, R398): the domain reaches RUN at its current setting; from OFF its slabs are zeroed. -/
def State.reachRun (s : State) : Domain → State
  | .cluster c =>
    match s.clusters[c].thawing with
    | none => s
    | some o =>
      let s1 := if o == .off then (s.zeroCluster c).loseReplicas c else s
      let s2 := if o == .off || o == .retain then s1.loseRegisters c else s1
      ((s2.updCluster c ({ · with thawing := none })).setClusterOper c.val .run).runAt c
  | .unit u =>
    if s.unitSleep.any (·.1 == u.slot) then
      ({ s with unitSleep := s.unitSleep.filter (·.1 != u.slot) }).setOper .run u
    else s

/-- HYST_IDLE_EXPIRY (R370): an idle cluster in RUN enters IDLE. -/
def State.hystIdle (s : State) (c : Cluster) : State :=
  if s.clusterOper c.val == .run && s.clusterIdle c && s.clusters[c].entering.isNone then s.setClusterOper c.val .idle else s

def execHystIdleExpiry (c : Cluster) (s : State) : Host.Outcome State Fault Refusal := .next (s.hystIdle c)

/-- HYST_FLOOR_EXPIRY (R370): an idle cluster in IDLE starts entry to its SLEEP_FLOOR; a floor of IDLE, or a HYST_FLOOR of
0xFFFF_FFFF, leaves it in IDLE. -/
def State.hystFloor (s : State) (c : Cluster) : State :=
  let r := s.powerRecord c
  let x := s.clusters[c]
  if s.clusterOper c.val == .idle && x.entering.isNone && x.thawing.isNone && s.clusterIdle c && r.sleepFloor < 2 &&
      r.hystFloor != 0xFFFFFFFF then
    s.updCluster c ({ · with entering := some (floorOper r.sleepFloor) })
  else s

def execHystFloorExpiry (c : Cluster) (s : State) : Host.Outcome State Fault Refusal := .next (s.hystFloor c)

/-- Cluster c at OFF loses the ordinals of the fill banks that its slabs hold (Tables 12.8, 21.7); the bank's bytes read zero
after the thaw. -/
def State.loseBanks (s : State) (p : Port) (c : Cluster) : State :=
  let lose (b : BatchQueue) : BatchQueue :=
    if b.enabled && bitsOf b.ctrl.toNat 8 7 / 8 == c.val then
      let i : Fin 2 := if b.fill then 1 else 0
      { b with banks := b.banks.set i { Bank.empty with closedSeq := b.banks[i].closedSeq } }
    else b
  s.updPart p fun x => { x with bq := x.bq.map lose }

/-- SLEEP_ENTRY_DONE (R345, R368, R375): the domain gates and its ledger words take the new oper state; OFF makes the firn
halves of the partition invalid (08 R197); a trigger that came meanwhile starts its thaw. -/
def State.sleepEntryDone (s : State) : Domain → State
  | .cluster c =>
    match s.clusters[c].entering with
    | none => s
    | some o =>
      let x := s.clusters[c]
      let s1 := ((s.updCluster c ({ · with entering := none, rethaw := false, byOrlys := false })).setClusterOper c.val o).gateVolts
        c o
      let s2 := if o == .off then (s1.clusterOwner c.val).elim s1 fun p => (s1.invalidateFirn p).loseBanks p c else s1
      if x.rethaw then s2.startThaw c x.byOrlys else s2
  | .unit _ => s

def execSleepEntryDone (d : Domain) (s : State) : Host.Outcome State Fault Refusal := .next (s.sleepEntryDone d)

/-- A cluster out of service goes to its sleep floor (R374), unless an Orlys operation names it. -/
def State.parkCluster (s : State) (c : Cluster) : State :=
  let w := s.ledgerWord ⟨.cluster, c.val⟩
  let fl := floorOper (s.powerRecord c).sleepFloor
  if (w.admin == .outOfService || w.admin == .maintenance) && (w.oper == .run || w.oper == .idle) && !s.orlysNames c &&
      s.clusters[c].entering.isNone && s.clusters[c].thawing.isNone then
    if fl == .idle then s.setClusterOper c.val .idle else s.updCluster c ({ · with entering := some fl })
  else s

/-- UNIT_IDLE_ENTRY (Table 16.3): an idle decode, compression or gather unit enters IDLE. -/
def execUnitIdleEntry (u : UnitId) (s : State) : Host.Outcome State Fault Refusal :=
  .next (
    if (u.ty == .decode || u.ty == .compress || u.ty == .gather) && (s.ledgerWord u).oper == .run && !s.unitHolds u
    then s.setOper .idle u else s)

/-- UNIT_OFF_ENTRY (Table 16.3): a decode or compression unit that stays idle and holds no item enters OFF. -/
def execUnitOffEntry (u : UnitId) (s : State) : Host.Outcome State Fault Refusal :=
  .next (
    if (u.ty == .decode || u.ty == .compress) && (s.ledgerWord u).oper == .idle && !s.unitHolds u &&
      s.unitSleep.all (·.1 != u.slot)
    then s.setOper .off u else s)

end Sys2Proof.Machine
end

