-- ==== Sys2Proof/Machine/Items.lean ====
section
/-! DEFINITION. Queue pairs, doorbells and the life of a fetched item up to its posted completion (13 R292 to R311, 15 R349
to R352, 23 R517 to R519). An item stays in its port's list until its completion is written to the CQ, which is when it is
posted (log 1). -/

namespace Sys2Proof.Machine

/-- PORT_STATUS.READY (Table 23.3). -/
def State.ready (s : State) : Bool := s.boot.ready && !s.boot.fatal

/-- A queue pair that the floor grants the function (R292). -/
def State.hasQp (s : State) (p : Port) (f : Func) (n : Nat) : Bool := s.fnExists p f && n < s.qpCount p f && n < 64

/-- Some queue pair of the port is ENABLED or some batch queue holds credits (22 R502). -/
def State.portActive (s : State) (p : Port) : Bool :=
  ((List.finRange 16).any fun f => s.fnExists p f && (s.fn p f).qps.toList.any (·.st == .enabled)) ||
  s.parts[p].bq.toList.any fun b => b.credits != 0

/-- The port sends an LTR message at each change between active and inactive, when LTR is enabled (22 R502). -/
def State.updateLtr (s : State) (p : Port) : State :=
  let a := s.portActive p
  if a == s.ports[p].ltrActive then s
  else
    let s1 := s.updPort p ({ · with ltrActive := a })
    if (s.fn p 0).ltrEnable then s1.send (.ltr p a) else s1

/-- The link leaves L1 or a substate (22 R501). -/
def State.exitL1 (s : State) (p : Port) : State :=
  if s.ports[p].linkPm == .l0 then s else s.updPort p ({ · with linkPm := .l0, clkreqN := false })

/-! ## Doorbells -/

/-- Count a discarded doorbell write (R295, R297, Table 23.7 bit 3). -/
def State.discardDoorbell (s : State) (p : Port) (f : Func) : State :=
  (s.countF p f .doorbellDiscard).updFn p f fun x => { x with portErr := x.portErr ||| 0x8 }

/-- A queue pair enters ERROR with a cause (Table 23.10). -/
def State.qpError (s : State) (p : Port) (f : Func) (n cause : Nat) : State :=
  (s.updQp p f n fun q => { q with
    st := .error, cause := cause, cqFailed := q.cqFailed || cause == 11 }).updateLtr p

/-- A queue pair's number enters the doorbell FIFO, or the overflow vector when the chain is full (R296). -/
def State.ringDoorbell (s : State) (p : Port) (f : Func) (n : Nat) : State :=
  let q := s.ports[p]
  let e := (f.val, n)
  if q.fifo.contains e || q.overflow.contains e then s
  else if q.fifo.length < s.fifoDepth p 0 then s.updPort p fun q => { q with fifo := q.fifo ++ [e] }
  else s.updPort p fun q => { q with overflow := q.overflow ++ [e] }

/-- The lowest queue pair of a list: function, then number. -/
def lowestPair : List (Nat × Nat) → Option (Nat × Nat)
  | [] => none
  | e :: es =>
    match lowestPair es with
    | none => some e
    | some x => if x.1 < e.1 || (x.1 == e.1 && x.2 < e.2) then some x else some e

/-- A queue pair's entry leaves the FIFO; the register that frees takes the lowest queue pair of the overflow vector
(R296). -/
def State.takeDoorbell (s : State) (p : Port) (f : Func) (n : Nat) : State :=
  let q := s.ports[p]
  let fifo := q.fifo.filter (· != (f.val, n))
  let past := q.overflow.filter (· != (f.val, n))
  if fifo.length < s.fifoDepth p 0 then
    match lowestPair past with
    | some e => s.updPort p ({ · with fifo := fifo ++ [e], overflow := past.filter (· != e) })
    | none => s.updPort p ({ · with fifo := fifo, overflow := past })
  else s.updPort p ({ · with fifo := fifo, overflow := past })

/-- Descriptors from `a` up to `b` in a ring (R295). -/
def ringDist (b a size : Nat) : Nat := (b + size - a) % size

/-- SQ_TAIL (R295 to R297): the write exits L1, sets the tail shadow, enters the doorbell FIFO, and thaws the partition when
the queue becomes non-empty (Table 16.5). -/
def State.sqTailWrite (s0 : State) (p : Port) (f : Func) (n : Nat) (v : BitVec 32) : State :=
  if !s0.fnExists p f then s0
  else
    let s := s0.exitL1 p
    let q := s.qp p f n
    let t := v.toNat % 65536
    if !s.hasQp p f n || !s.ready || q.st != .enabled then s.discardDoorbell p f
    else if q.sqSize ≤ t then s.qpError p f n 6
    else if ringDist t q.sqHead q.sqSize < ringDist q.sqTail q.sqHead q.sqSize then s.qpError p f n 7
    else
      let s1 := (s.updQp p f n ({ · with sqTail := t })).ringDoorbell p f n
      if q.sqTail == q.sqHead && t != q.sqHead then s1.thawPartition p else s1

def execSqTail (p : Port) (f : Func) (n : Nat) (v : BitVec 32) (s : State) : Host.Outcome State Fault Refusal :=
  .next (s.sqTailWrite p f n v)

/-- CQ_HEAD (R295, R297). -/
def State.cqHeadWrite (s0 : State) (p : Port) (f : Func) (n : Nat) (v : BitVec 32) : State :=
  if !s0.fnExists p f then s0
  else
    let s := s0.exitL1 p
    let q := s.qp p f n
    let h := v.toNat % 65536
    if !s.hasQp p f n || !s.ready || (q.st != .enabled && q.st != .draining) then s.discardDoorbell p f
    else if q.cqSize ≤ h then s.qpError p f n 8
    else if ringDist q.cqTail q.cqHead q.cqSize < ringDist q.cqTail h q.cqSize then s.qpError p f n 9
    else s.updQp p f n ({ · with cqHead := h })

def execCqHead (p : Port) (f : Func) (n : Nat) (v : BitVec 32) (s : State) : Host.Outcome State Fault Refusal :=
  .next (s.cqHeadWrite p f n v)

/-! ## Enabling and disabling -/

/-- An entry count is a power of two from 2 to 65,536 (R293). -/
def ringSizeOk (n : Nat) : Bool := 2 ≤ n && n ≤ 65536 && 2 ^ Nat.log2 n == n

/-- Two host ranges share a byte. -/
def overlap (a n b m : Nat) : Bool := a < b + m && b < a + n

/-- The lowest cause of Table 23.10 that keeps a queue pair from being enabled, 0 for none (R293). -/
def State.qpEnableCause (s : State) (p : Port) (f : Func) (q : QueuePair) : Nat :=
  if !ringSizeOk q.sqSize || !ringSizeOk q.cqSize then 1
  else if q.sqBase.toNat % 4096 != 0 || q.cqBase.toNat % 4096 != 0 then 2
  else if overlap q.sqBase.toNat (64 * q.sqSize) q.cqBase.toNat (16 * q.cqSize) then 3
  else if s.msixSize p f ≤ q.msix then 4
  else if !s.ready then 5
  else 0

/-- A QP_CTRL write of ENABLE 1 (R293, R294, R517). -/
def State.qpEnableWrite (s : State) (p : Port) (f : Func) (n : Nat) : State :=
  if !s.hasQp p f n then s
  else
    let q := s.qp p f n
    match q.st with
    | .enabled | .error => s
    | .draining => s.updQp p f n ({ · with cause := 12 })
    | .disabled =>
      let c := s.qpEnableCause p f q
      if c != 0 then s.updQp p f n ({ · with cause := c })
      else
        (s.updQp p f n ({ · with
          st := .enabled, phase := true, cause := 0, sqHead := 0, sqTail := 0, cqHead := 0, cqTail := 0
          cqFailed := false })).updateLtr p

def execQpEnable (p : Port) (f : Func) (n : Nat) (s : State) : Host.Outcome State Fault Refusal :=
  .next (s.qpEnableWrite p f n)

/-- An item of a queue pair lacks a posted completion. -/
def State.pairBusy (s : State) (p : Port) (f : Func) (n : Nat) : Bool :=
  s.ports[p].items.any fun i => i.fn == f && i.qp == n && !i.orphan

/-- A DRAINING queue pair becomes DISABLED once no fetched item lacks a completion (R294). -/
def State.pairDrained (s : State) (p : Port) (f : Func) (n : Nat) : State :=
  if (s.qp p f n).st == .draining && !s.pairBusy p f n then s.updQp p f n ({ · with st := .disabled }) else s

/-- An ENABLED queue pair enters DRAINING (R294, 22 R498). -/
def State.drainPair (s : State) (p : Port) (f : Func) (n : Nat) : State :=
  if (s.qp p f n).st == .enabled then ((s.updQp p f n ({ · with st := .draining })).pairDrained p f n).updateLtr p else s

/-- A QP_CTRL write of ENABLE 0 (R294). -/
def State.qpDisableWrite (s : State) (p : Port) (f : Func) (n : Nat) : State :=
  if !s.hasQp p f n then s
  else
    match (s.qp p f n).st with
    | .enabled => s.drainPair p f n
    | .error => s.updQp p f n ({ · with st := .disabled })
    | _ => s

def execQpDisable (p : Port) (f : Func) (n : Nat) (s : State) : Host.Outcome State Fault Refusal :=
  .next (s.qpDisableWrite p f n)

/-! ## Waiting on earlier items -/

/-- Items of the port fetched before an item and still lacking a completion. -/
def State.earlier (s : State) (p : Port) (i : Item) : List Item :=
  s.ports[p].items.filter fun j => j.key < i.key && !j.orphan

/-- The item's AFTER and the fences of its queue pair let it enter service (R304, R314). -/
def State.fencesOk (s : State) (p : Port) (i : Item) : Bool :=
  let e := s.earlier p i
  (i.after == 0 || e.all fun j => !(j.fn == i.fn && j.token == i.after)) &&
  (!i.fenceBefore || e.all fun j => !(j.fn == i.fn && j.qp == i.qp)) &&
  e.all fun j => !(j.fn == i.fn && j.qp == i.qp && j.fenceAfter)

/-! ## Ending an item -/

/-- An item's execution ends with a status and results (Table 15.2, COMPLETING). -/
def State.finish (s : State) (p : Port) (k : Nat) (st : Status) (r0 r1 : Nat) : State :=
  s.updItem p k fun i =>
    { i with st := .completing, status := st, r0 := BitVec.ofNat 32 r0, r1 := BitVec.ofNat 32 r1 }

/-- An item in service ends (nothing happens to an item that an ABORT already ended). -/
def State.finishService (s : State) (p : Port) (k : Nat) (st : Status) (r0 r1 : Nat) : State :=
  match s.item? p k with
  | some i => if i.st == .inService then s.finish p k st r0 r1 else s
  | none => s

/-- Units or tiles still execute the item: it is in service, or its engine step is done and passes of it remain (15 R347,
Table 15.2). -/
def Item.executing (i : Item) : Bool :=
  i.st == .inService || (i.st == .completing && i.abortedAt == 0 && (i.stepsLeft != 0 || i.cont.isSome))

/-- A send of item k of the partition holds reservations or a response slot (15 R352). -/
def State.holds (s : State) (p : Port) (k : Nat) : Bool :=
  s.parts[p].flight.any (·.key == some k) || s.parts[p].waiting.any (·.key == some k)

/-- A completion that took no unit: BAD_DESCRIPTOR, NOT_READY, REFUSED or UNSUPPORTED at the port (R306). -/
def Item.immediate (i : Item) : Bool :=
  i.unit.isNone && (i.status == .badDescriptor || i.status == .notReady || i.status == .refused || i.status == .unsupported)

/-- Nothing of a COMPLETING item remains to be done: no step, no mesh reservation, no target that comes first (R313, R352,
04 R99). -/
def State.ended (s : State) (p : Port) (i : Item) : Bool :=
  i.st == .completing && i.stepsLeft == 0 && i.cont.isNone && i.waitsFor.isNone && !s.holds p i.key

/-- The completion may enter the staging FIFO (R309): there is room, and an immediate completion keeps the fetch order of
its queue pair (R306). -/
def State.canStage (s : State) (p : Port) (i : Item) : Bool :=
  s.ended p i && s.ports[p].staged.length < s.fifoDepth p 2 &&
  (!i.immediate ||
    s.ports[p].items.all fun j =>
      !(j.key < i.key && j.fn == i.fn && j.qp == i.qp && j.st == .completing && j.immediate))

/-- An earlier-fetched IMAGE_CHUNK of the session that an IMAGE_COMMIT quotes lacks its completion (02 R53). -/
def State.chunksOut (s : State) (p : Port) (i : Item) : Bool :=
  (s.earlier p i).any fun j => j.opcode == opImageChunk && j.fld 28 4 == i.fld 16 4

/-- The item is an IMAGE_COMMIT whose arrival comes now: every earlier chunk of its session has completed. -/
def State.arrivesNow (s : State) (p : Port) (i : Item) : Bool :=
  i.opcode == opImageCommit && i.st == .waiting && i.arrival.isNone && !s.chunksOut p i

/-- IMAGE_COMMITs arrive at the commit queue: at their fetch, or when the last earlier chunk of their session posts its
completion (02 R53). -/
def State.commitsArrive (s : State) (p : Port) : State :=
  if s.ports[p].items.any (s.arrivesNow p) then
    let stamp (i : Item) : Item := if s.arrivesNow p i then { i with arrival := some s.arrivals } else i
    { s.updPort p (fun q => { q with items := q.items.map stamp }) with arrivals := s.arrivals + 1 }
  else s

/-- Take an item off the port: its completion is posted, or it never posts one. ABORTs that wait for it take its status
(R313), and an IMAGE_COMMIT that waited for a chunk arrives (02 R53). -/
def State.retire (s : State) (p : Port) (i : Item) : State :=
  ((s.updPort p fun q => { q with
    items := (q.items.filter (·.key != i.key)).map fun j =>
      if j.waitsFor == some i.key then { j with waitsFor := none, r1 := BitVec.ofNat 32 i.status.code } else j
    staged := q.staged.filter (· != i.key) }).pairDrained p i.fn i.qp).commitsArrive p

/-- The tiles whose staging buffers hold pairs of an item (05 R137). -/
def State.stagingTiles (s : State) (p : Port) (k : Nat) : List Tile :=
  (List.finRange 128).filter fun t => s.tiles[t].staging.any fun z => z.port == p && z.users.contains k

/-- An ended item's completion enters the staging FIFO, where it waits for its burst; an item that posts no completion leaves
(R349, R352, 20 R464). -/
def State.itemComplete (s : State) (p : Port) (k : Nat) : State :=
  match s.item? p k with
  | none => s
  | some i =>
    if i.orphan then (if s.ended p i then s.retire p i else s)
    else if s.canStage p i then
      s.updPort p fun q => { q.updItem k ({ · with st := .staged }) with staged := q.staged ++ [k] }
    else s

/-- Complete at once, with no unit: the completion is staged when the FIFO has room (R306). -/
def State.completeNow (s : State) (p : Port) (k : Nat) (st : Status) (r0 r1 : Nat) : State :=
  (s.finish p k st r0 r1).itemComplete p k

/-! ## Writing completions -/

/-- The 16 bytes of a completion (Table 13.4). -/
def Item.completion (i : Item) (phase more : Bool) : List Byte :=
  leBytes 4 i.token ++ leBytes 1 i.status.code ++ leBytes 1 (phase.toNat + 2 * more.toNat) ++
    leBytes 2 (i.engine.ty.code * 256 + i.engine.idx % 256) ++ leBytes 4 i.r0.toNat ++ leBytes 4 i.r1.toNat

/-- Write one completion at the CQ tail, strongly ordered, and advance it (R309, 22 R491). -/
def State.writeCompletion (s : State) (p : Port) (i : Item) (more : Bool) : State :=
  let q := s.qp p i.fn i.qp
  let t := (q.cqTail + 1) % q.cqSize
  let a := q.cqBase.toNat + 16 * q.cqTail
  let s1 := (s.hostPut p a (i.completion q.phase more)).sendWrites p i.fn a 16 false
  (s1.updQp p i.fn i.qp fun q => { q with cqTail := t, phase := if t = 0 then !q.phase else q.phase }).retire p i

/-- Write the completions of a burst in order; MORE is set in all but the last (R310). -/
def State.writeBurst (p : Port) : List Item → State → State
  | [], s => s
  | i :: is, s => State.writeBurst p is (s.writeCompletion p i (!is.isEmpty))

/-- Entries of the CQ free for completions (R309). -/
def QueuePair.cqFree (q : QueuePair) : Nat := if q.cqSize = 0 then 0 else ringDist (q.cqHead + q.cqSize - 1) q.cqTail q.cqSize

/-- The staged items of a queue pair, oldest first. -/
def State.stagedOf (s : State) (p : Port) (f : Func) (n : Nat) : List Item :=
  s.ports[p].staged.filterMap fun k => (s.item? p k).bind fun i => if i.fn == f && i.qp == n then some i else none

/-- COMPLETION_BURST (R309 to R311, 22 R498): up to 8 staged completions of a queue pair go to its CQ as far as it has room,
and the vector is signalled once when any has IRQ set. While the function sleeps they wait; for a DISABLED queue pair, which
has no CQ, they leave unwritten. -/
def State.completionBurst (s : State) (p : Port) (f : Func) (n : Nat) : State :=
  let q := s.qp p f n
  let is := s.stagedOf p f n
  if s.asleepFn p f then s
  else
    match q.st with
    | .disabled => is.foldl (fun a i => a.retire p i) s
    | _ =>
      if q.cqFailed then s
      else
        let burst := is.take (min 8 q.cqFree)
        let s1 := State.writeBurst p burst s
        if burst.any (·.irq) then s1.signalMsix p f q.msix else s1

def execCompletionBurst (p : Port) (f : Func) (n : Nat) (s : State) : Host.Outcome State Fault Refusal :=
  .next (s.completionBurst p f n)

/-! ## NOP -/

/-- A fetched port-opcode item of the given opcode whose fences let it be served. -/
def State.portItem (s : State) (p : Port) (k op : Nat) : Option Item :=
  match s.item? p k with
  | some i => if i.st == .waiting && i.opcode == op && s.fencesOk p i then some i else none
  | none => none

/-- NOP (R301): completes OK with zero results once its fences are honoured. -/
def execNop (p : Port) (k : Nat) (s : State) : Host.Outcome State Fault Refusal :=
  .next (if (s.portItem p k 0).isSome then s.completeNow p k .ok 0 0 else s)

end Sys2Proof.Machine
end

