-- ==== Sys2Proof/Machine/Quota.lean ====
section
/-! DEFINITION. Reservation of mesh sends (14 R337, Table 14.10): the route and quota of a message, taking and giving back its
counters, the responses of its receiver. -/

namespace Sys2Proof.Machine

/-- The message expects a response, so it takes a response slot (Table 14.10, step 4). -/
def SendKind.responds : SendKind → Bool
  | .snoop _ _ | .fetch _ _ | .read | .write => true
  | .push | .spill _ _ | .writeData | .packet => false

/-- The QUOTA record of a pair, network and VC, as its NI keeps it. -/
def Partition.quotaFor (x : Partition) (src dst net vc : Nat) : Option QuotaUse :=
  x.quota.find? fun q => q.src == src && q.dst == dst && q.network == net && q.vc == vc

/-- The route-table entry of a stop. -/
def Partition.routeAt (x : Partition) (stop net entry : Nat) : Option Route :=
  x.routes.find? fun r => r.stop == stop && r.network == net && r.entry == entry

/-- The first route of a stop's table to a destination. -/
def Partition.routeTo (x : Partition) (stop net dst : Nat) : Option Route :=
  x.routes.find? fun r => r.stop == stop && r.network == net && routeDst r.route == dst

/-- The first route of a stop's table to a destination on a VC, into a receive queue. -/
def Partition.routeOn (x : Partition) (stop net dst vc rxq : Nat) : Option Route :=
  x.routes.find? fun r => r.stop == stop && r.network == net && routeDst r.route == dst && routeVc r.route == vc &&
    routeRxq r.route == rxq

/-- The message of an agent along a route, none where its quota is missing (Table 14.10, step 2). -/
def Partition.sendAlong (x : Partition) (kind : SendKind) (tile : Nat) (key : Option Nat) (frame : Option FrameTag)
    (data : List Byte) (beat : Bool) (r : Option Route) : Option Send :=
  match r with
  | none => none
  | some r =>
    if (x.quotaFor r.stop (routeDst r.route) r.network (routeVc r.route)).isSome then
      some { kind := kind, tile := tile, key := key, src := r.stop, dst := routeDst r.route, network := r.network
             entry := r.entry, vc := routeVc r.route, tag := 0, rxq := routeRxq r.route, frame := frame, data := data
             beat := beat, granted := false, arrived := false, credited := false, answered := false }
    else none

/-- The counters of a pair. -/
def QuotaUse.of (u : QuotaUse) (z : Send) : Bool :=
  u.src == z.src && u.dst == z.dst && u.network == z.network && u.vc == z.vc

/-- Change the counters of a send's pair. -/
def Partition.modQuota (x : Partition) (z : Send) (g : QuotaUse → QuotaUse) : Partition :=
  { x with quota := x.quota.map fun u => if u.of z then g u else u }

/-- The NI grants the message: it does not hold the partition's sends, a buffer is free, and a slot when it expects a response
(Table 14.10, step 3; Table 14.11, step 2). -/
def Partition.grantable (x : Partition) (z : Send) : Bool :=
  !x.fenced.contains z.src &&
  (x.quotaFor z.src z.dst z.network z.vc).any fun u => u.taken < u.req && (!z.kind.responds || u.slots < u.rsp)

/-- Take the message's counters (Table 14.10, step 4). -/
def Partition.takeQuota (x : Partition) (z : Send) : Partition :=
  x.modQuota z fun u => { u with taken := u.taken + 1, slots := u.slots + z.kind.responds.toNat }

/-- Give back what an unsent message holds. -/
def Partition.giveQuota (x : Partition) (z : Send) : Partition :=
  if z.granted then x.modQuota z fun u => { u with taken := u.taken - 1, slots := u.slots - z.kind.responds.toNat } else x

/-- Take the counters of all of some messages, or none. -/
def Partition.takeAll (x : Partition) : List Send → Option Partition
  | [] => some x
  | z :: zs => if x.grantable z then (x.takeQuota z).takeAll zs else none

/-- Forget waiting messages, giving back what they hold. -/
def Partition.dropWaiting (x : Partition) (which : Send → Bool) : Partition :=
  let y := (x.waiting.filter which).foldl (fun a z => a.giveQuota z) x
  { y with waiting := x.waiting.filter fun z => !which z }

/-! ## Responses -/

/-- A response of a kind from stop `a` to stop `b`, along RSP entry b of its table (R332, Table 14.10, step 7); TAG echoes the
request's. An NI without that entry, which R333 keeps from happening, sends nothing. -/
def State.reply (s : State) (p : Port) (kind a b : Nat) (tag : BitVec 16) (arg : Nat) : State :=
  match s.parts[p].routeAt a 1 b with
  | none => s
  | some r => s.send (.flit 1 (sealFlit (flitBody (routeHops r.route) (routeDirs r.route)
      { vc := routeVc r.route, src := a, part := p.val, kind := kind, tag := tag, addr := Config.unusedAddr kind, arg := arg })))

/-- CREDIT of one buffer of a network and VC from the receiver to the sender (Table 14.7; Table 14.10, step 6). -/
def State.returnCredit (s : State) (p : Port) (net vc src dst : Nat) : State :=
  s.reply p 0x84 dst src (Config.unusedTag 0x84) (net + 4 * vc + 16)

end Sys2Proof.Machine
end

