-- ==== Sys2Proof/Machine/Abort.lean ====
section
/-! DEFINITION. Ending items from outside: ABORT (13 R312 to R314), drains with ABORT_IN_FLIGHT, port-epoch changes and the
locks they orphan (20 R463 to R469). -/

namespace Sys2Proof.Machine

/-- Take a session's commit off the device-wide queue. -/
def dropSessionCommit (ld : Loader) (q : List Commit) : List Commit :=
  q.filter fun c => c.kind != .session ld

/-- Forget what a loader has in the commit queue and in the security engine. -/
def State.dropCommit (s : State) (ld : Loader) : State :=
  { s with
    commitQ := dropSessionCommit ld s.commitQ
    verified := s.verified.filter fun v => v.commit.kind != .session ld }

/-- Discard the image session of a port, its commit too (02 R57, Table 2.22). -/
def State.dropSession (s : State) (p : Port) : State := (s.updPart p ({ · with session := none })).dropCommit (.port p)

/-- Item k of the port is an IMAGE_COMMIT before its point of no return. -/
def State.commitWaits (s : State) (p : Port) (k : Nat) : Bool :=
  s.commitQ.any (fun c => c.asker == .item p k) || s.verified.any fun v => v.commit.asker == .item p k

/-- The item names a stream context (07 R176): its stream's context address. -/
def Item.stream? (i : Item) : Option Nat :=
  if i.opcode == opFlush then some (i.fld 48 8)
  else if (i.opcode == opCompress || i.opcode == opDecompress) && bitsOf (i.fld 43 1) 0 2 != 3 then some (i.fld 48 8)
  else none

/-- A stream fails: its context holds no stream that a later item could match (07 R177, Table 7.7). -/
def State.failStream (s : State) (p : Port) (i : Item) : State :=
  match i.stream? with
  | some a => s.updPart p fun x => { x with streams := x.streams.filter (·.1 != a) }
  | none => s

/-- An item that runs on past an ABORT (Tables 2.22, 5.5, 8.10, 10.5). -/
def State.runsOn (s : State) (p : Port) (i : Item) : Bool :=
  i.st == .inService &&
  (i.opcode == opEpochSet || i.opcode == opAgeTick || (i.opcode == opImageCommit && !s.commitWaits p i.key))

/-- A message that waits only for the beat or the lookup of a pass: a packet or unit of a beat, or a refetch. The invalidations
of BUILDs and tombstones that stand, and units of staging buffers written out, are not (05 R145, R137). -/
def Send.ofPass (z : Send) : Bool :=
  z.beat || match z.kind with
    | .fetch _ _ => true
    | _ => false

/-- The tile passes of an item stop at a beat boundary and its dispatches leave the tiles' queues (04 Table 4.8). -/
def State.stopTiles (s : State) (p : Port) (k : Nat) : State :=
  let s1 := { s with tiles := s.tiles.map fun (x : TileState) => { x with
    run := x.run.filter fun r => !(r.work.port == p && r.work.key == k)
    queue := x.queue.filter fun w => !(w.port == p && w.key == k) } }
  s1.updPart p (·.dropWaiting fun z => z.key == some k && z.ofPass)

/-- An ingest item: the windows it has dispatched run to their end (06 Table 6.10). -/
def Item.isIngest (i : Item) : Bool := i.opcode == opIngestRecords || i.opcode == opIngestColumns

/-- End the pause that item k holds on any table (Table 8.10). -/
def State.endPause (s : State) (p : Port) (k : Nat) : State :=
  s.updPart p fun x => { x with gtab := x.gtab.map fun g => if g.pause == some k then { g with pause := none } else g }

/-- An IMAGE_UNLOAD stops: a drain under way is given up, past it the unload goes on for nobody (log 16). -/
def State.stopUnload (s : State) (p : Port) (k : Nat) : State :=
  s.updPart p fun x =>
    match x.op with
    | some o =>
      if o.asker == .item p k then
        { x with op := if o.phase == .draining then none else some { o with asker := .nobody } }
      else x
    | none => x

/-- The unit that serves an item stops: what the opcode's chapter says of its side effects. An IMAGE_COMMIT takes its session
with it, but for one that quotes a session which another commit has queued (log 79). -/
def State.stopItem (s : State) (p : Port) (i : Item) : State :=
  let s1 := if i.isIngest then s else s.stopTiles p i.key
  if i.opcode == opImageCommit then
    if s.parts[p].session.any (fun z => z.no.toNat == i.fld 16 4 && (z.st == .open || s.commitWaits p i.key)) then
      s1.dropSession p
    else s1
  else if i.opcode == opImageUnload then s1.stopUnload p i.key
  else if i.opcode == opTableReplace then s1.endPause p i.key
  else if i.executing then s1.failStream p i
  else s1

/-- Windows of an item whose passes still run. -/
def Item.openWindows (i : Item) : Nat := i.ingest.elim 0 fun r => r.busy.length

/-- A pass that belonged to the item is over: its window loses the tile, or the item has one step less to wait for. -/
def Item.passOver (i : Item) (w : TileWork) (t : Nat) : Item :=
  match w.window with
  | some n =>
    { i with ingest := i.ingest.map fun g => { g with
        busy := g.busy.map fun b => if b.1 == n then (b.1, b.2.filter (· != t)) else b } }
  | none => { i with stepsLeft := i.stepsLeft - 1 }

/-- Complete an item ABORTED (13 R313): `how` is 1 before service, 2 in service. -/
def State.abortItem (s : State) (p : Port) (i : Item) (how : Nat) : State :=
  (s.stopItem p i).updItem p i.key fun j => { j with
    st := .completing, status := .aborted, r0 := 0, r1 := 0, abortedAt := how, cont := none
    unit := if how = 1 then none else j.unit
    stepsLeft := if j.isIngest then j.openWindows else 0 }

/-- Abort an item wherever it stands, unless it runs on or has ended (15 R349). -/
def State.abortAny (s : State) (p : Port) (i : Item) : State :=
  match i.st with
  | .waiting | .queued => s.abortItem p i 1
  | _ => if i.executing && !s.runsOn p i then s.abortItem p i 2 else s

/-- TARGET of an ABORT (13 R312): the item of the same function with that token, fetched before it, not an ABORT. -/
def State.abortTarget (s : State) (p : Port) (i : Item) : Option Item :=
  s.ports[p].items.find? fun j =>
    j.fn == i.fn && j.token == i.fld 16 4 && j.key < i.key && j.opcode != opAbort && !j.orphan

/-- Result0 of an ABORT for a target as it stands (Table 13.6, Table 13.8). -/
def State.abortResult (s : State) (p : Port) (t : Item) : Nat :=
  match t.st with
  | .waiting | .queued => 1
  | _ => if t.executing && !s.runsOn p t then 2 else if t.abortedAt = 0 then 3 else t.abortedAt

/-- ABORT (13 R312 to R314): no fence holds it; its own completion follows its target's. -/
def State.abort (s : State) (p : Port) (k : Nat) : State :=
  match s.item? p k with
  | none => s
  | some i =>
    if !(i.st == .waiting && i.opcode == opAbort) then s
    else
      match s.abortTarget p i with
      | none => s.completeNow p k .ok 0 0xFF
      | some t =>
        ((s.abortAny p t).finish p k .ok (s.abortResult p t) t.status.code).updItem p k ({ · with waitsFor := some t.key })

def execAbort (p : Port) (k : Nat) (s : State) : Host.Outcome State Fault Refusal := .next (s.abort p k)

/-! ## Port epochs -/

/-- The table that a GATHER, FIRN_LOAD or TABLE_REPLACE names (08 Tables 8.5, 8.6, 8.8). -/
def Item.table (i : Item) : Nat := if i.opcode == opGather then i.fld 44 1 else i.fld 36 1

/-- Lock kinds of Table 20.7 that an item holds. -/
def State.itemLocks (s : State) (p : Port) (i : Item) : List (Nat × Nat) :=
  if i.st != .inService then []
  else
    let own : List (Nat × Nat) :=
      if i.opcode == opTableReplace && s.parts[p].gtab.any (·.pause == some i.key) then [(1, i.table)]
      else if i.opcode == opFirnLoad then [(3, i.table)]
      else if i.opcode == opAgeTick then [(9, 0)]
      else if i.stream?.isSome then [(10, 0)]
      else if i.opcode == opImageCommit && !s.commitWaits p i.key then
        [(if s.floorChange.any (·.commit.asker == .item p i.key) then 11 else 8, 0)]
      else []
    own ++ (if i.flow != 0 then [(5, 0)] else [])

/-- Locks of the PF: the mailbox and the image session (Table 20.7, kinds 6, 7, 11). -/
def State.pfLocks (s : State) (p : Port) : List (Nat × Nat) :=
  let q := s.ports[p]
  (if q.mbx.holder.isSome || q.mbx.st == .busy then [(6, 0)] else []) ++
  match s.parts[p].session with
  | some z => [(if z.floor then 11 else 7, 0)]
  | none => []

/-- Record the locks of a function whose epoch is about to change (20 R467). -/
def State.orphanLocks (s : State) (p : Port) (f : Func) : State :=
  let e := (s.fn p f).epoch
  let items := (s.ports[p].items.filter fun i => i.fn == f && !i.orphan).flatMap (s.itemLocks p)
  let ls := (if f.val = 0 then s.pfLocks p else []) ++ items
  s.updFn p f fun x => { x with orphans := x.orphans ++ ls.map fun l => { kind := l.1, epoch := e, table := l.2 } }

/-- An item of a function whose epoch increments (20 R464): it runs on without a completion, or stops and leaves, once what it
left in staging buffers is written out (05 R137). A pause it holds stays until LOCK_RESOLUTION. -/
def State.epochEnd (s : State) (p : Port) (i : Item) : State :=
  let s1 := s.countF p i.fn .epochDiscard
  if s.runsOn p i || (i.isIngest && i.st != .waiting && i.st != .queued && i.openWindows != 0) then
    s1.updItem p i.key fun j => { j with
      orphan := true
      st := if s.runsOn p i then j.st else .completing
      stepsLeft := if j.isIngest then j.openWindows else j.stepsLeft }
  else
    let s2 := if i.opcode == opImageCommit || i.opcode == opTableReplace then s1.stopTiles p i.key else s1.stopItem p i
    if (s2.stagingTiles p i.key).isEmpty then
      s2.updPort p fun q => { q with items := q.items.filter (·.key != i.key), staged := q.staged.filter (· != i.key) }
    else
      s2.updItem p i.key ({ · with orphan := true, st := .completing, stepsLeft := 0, cont := none, waitsFor := none })

/-- Batch queues of a consuming function whose epoch changes (Table 12.8, 23 R523). -/
def BatchQueue.consumerEpoch (b : BatchQueue) : BatchQueue :=
  { b with ringSize := 0, credits := 0, delivered := 0, read := b.rel, unpopped := [], copying := none }

/-- FUNCTION of BQ_CTRL (Table 23.12). -/
def BatchQueue.consumer (b : BatchQueue) : Nat := bitsOf b.ctrl.toNat 4 4

/-- The PF's epoch change discards the port's image session and resets its mailbox (Table 2.22, 24 R536). -/
def State.pfEpoch (s : State) (p : Port) : State :=
  (s.dropSession p).updPort p fun q => { q with mbx := .reset }

/-- Increment the epochs of functions (20 R463, R464, R467): locks are recorded with the epoch before, items end, batch
queues restart their delivery, those that are not enabled among them (12 R268, 23 R523). `by'` is 0 where the increment has
been made already (03 Table 3.8, two scrub triggers). -/
def State.bumpEpoch (s : State) (p : Port) (fs : List Func) (by' : BitVec 32 := 1) : State :=
  let s1 := fs.foldl (fun a f => a.orphanLocks p f) s
  let ended := s1.ports[p].items.filter fun i => fs.contains i.fn && !i.orphan
  let s2 := ended.foldl (fun a i => a.epochEnd p i) s1
  let s3 := fs.foldl (fun a f => a.updFn p f fun x => { x with epoch := x.epoch + by' }) s2
  let again (b : BatchQueue) : BatchQueue := if fs.any (·.val == b.consumer) then b.consumerEpoch else b
  let s4 := s3.updPart p fun x => { x with bq := x.bq.map again }
  if fs.contains 0 then s4.pfEpoch p else s4

/-- LOCK_RESOLUTION (20 R467, R468): Orlys resolves the function's oldest orphaned lock, writes a LOCK entry and posts
OWNER_LOST. -/
def State.lockResolution (s : State) (p : Port) (f : Func) : State :=
  match (s.fn p f).orphans with
  | [] => s
  | o :: rest =>
    let s1 := s.updFn p f ({ · with orphans := rest })
    let s2 :=
      if o.kind = 1 || o.kind = 2 then
        s1.updPart p fun x => { x with gtab := x.gtab.map fun g =>
          if g.table == o.table && g.pause.any (fun k => !(s.ports[p].items.any (·.key == k))) then { g with pause := none }
          else g }
      else s1
    let s3 := s2.logMoraine 6 p.val (BitVec.ofNat 64 (o.kind + p.val * 2 ^ 16 + f.val * 2 ^ 24)) (o.epoch.setWidth 64)
    (s3.postEvent .ownerLost ⟨.port, p.val⟩ o.kind [(p, f)] (some p)).countF p f .ownerLost

def execLockResolution (p : Port) (f : Func) (s : State) : Host.Outcome State Fault Refusal := .next (s.lockResolution p f)

end Sys2Proof.Machine
end

