-- ==== Sys2Proof/Machine/Batch.lean ====
section
/-! DEFINITION. Batch queues: layout, arrival, emission, packing, closing, delivery and queue operations (12 R268 to R291, 21
R473 to R479, 23 R520 to R523). -/

namespace Sys2Proof.Machine

/-! ## BQ_CTRL fields and the layout block -/

def BatchQueue.mode (b : BatchQueue) : Nat := bitsOf b.ctrl.toNat 2 2
def BatchQueue.tile (b : BatchQueue) : Nat := bitsOf b.ctrl.toNat 8 7
def BatchQueue.layoutOffset (b : BatchQueue) : Nat := 64 * bitsOf b.ctrl.toNat 16 19
def BatchQueue.vector (b : BatchQueue) : Nat := bitsOf b.ctrl.toNat 48 11
/-- PULL (Table 23.12). -/
def BatchQueue.pull (b : BatchQueue) : Bool := b.mode == 2

/-- Elements per position of a tensor: the product of its used dimensions (R270). -/
def LayoutEntry.inner (e : LayoutEntry) : Nat :=
  (if 1 ≤ e.dimsUsed then e.dim1 else 1) * (if 2 ≤ e.dimsUsed then e.dim2 else 1)

/-- Bytes per position of a tensor. -/
def LayoutEntry.posBytes (e : LayoutEntry) : Nat := e.inner * fmtBits e.dtype / 8

/-- A layout entry of Table 12.3. -/
def parseEntry (packed : Bool) (b : List Byte) : Option LayoutEntry :=
  let e : LayoutEntry :=
    { name := field b 0 2, dtype := field b 2 1, dimsUsed := field b 3 1, dim1 := field b 4 4, dim2 := field b 8 4,
      sampleLen := field b 12 4 }
  let dimOk (used : Bool) (d : Nat) : Bool := if used then 1 ≤ d else d == 0
  if e.name ≤ 0xFFEF && 2 ≤ e.dtype && e.dtype ≤ 11 && e.dimsUsed ≤ 2 && dimOk (1 ≤ e.dimsUsed) e.dim1 &&
      dimOk (2 ≤ e.dimsUsed) e.dim2 && (if packed then e.sampleLen == 0 else 1 ≤ e.sampleLen)
  then some e else none

/-- The layout header of Table 12.2 and its entries. -/
def parseLayout (b : List Byte) : Option Layout :=
  let emit := field b 0 1
  let batching := field b 1 1
  let past := field b 2 1
  let n := field b 4 2
  let shuffled := emit == 1
  let packed := batching == 1
  let ring := field b 32 8
  let l : Layout :=
    { shuffled := shuffled, packed := packed, split := bitsOf past 0 1 = 1, randomCrop := bitsOf past 1 1 = 1,
      pipeline := field b 3 1, tensors := [], s := field b 8 4, r := field b 12 4, l := field b 16 4,
      pad := BitVec.ofNat 32 (field b 20 4), bankOffset := field b 24 4, bitmapOffset := field b 28 4, ringAddr := ring,
      storeOffset := field b 40 8, storeStride := field b 48 4 }
  let shapeOk :=
    if packed then 1 ≤ l.r && l.r ≤ 65535 && 1 ≤ l.l && l.l ≤ 65536 && past < 4 else l.r == 0 && l.l == 0 && past == 0
  let storeOk :=
    if shuffled then l.bitmapOffset % 64 == 0 && l.storeOffset % 4096 == 0 && l.storeStride % 64 == 0
    else l.bitmapOffset == 0 && l.storeOffset == 0 && l.storeStride == 0
  let entries := (List.range n).map fun k => parseEntry packed (slice b (64 + 16 * k) 16)
  if emit ≤ 1 && batching ≤ 1 && 1 ≤ n && n ≤ 29 && 1 ≤ l.s && l.s ≤ 65535 && shapeOk && storeOk &&
      l.bankOffset % 1024 == 0 && ring < 2 ^ 40 && ring % 4096 == 0 && zeros b 6 2 && zeros b 52 12 &&
      entries.all (·.isSome)
  then some { l with tensors := entries.filterMap id } else none

/-- Bytes of the layout block. -/
def Layout.bytes (l : Layout) : Nat := 64 + 16 * l.tensors.length

/-- A tensor of a pack: name, format and shape. -/
structure PackTensor where
  name : Nat
  dtype : Nat
  dims : List Nat
  deriving DecidableEq, Repr

/-- Shape of a user tensor (R270). -/
def Layout.shape (l : Layout) (e : LayoutEntry) : List Nat :=
  ((if l.packed then [l.r, l.l] else [l.s, e.sampleLen]) ++ [e.dim1, e.dim2]).take (2 + e.dimsUsed)

/-- Every tensor of a pack in its order: user tensors, SAMPLE_INDEX, SEGMENT, POSITION (R270, R284). -/
def Layout.packTensors (l : Layout) : List PackTensor :=
  (l.tensors.map fun e => { name := e.name, dtype := e.dtype, dims := l.shape e }) ++
    [{ name := 0xFFFF, dtype := 11, dims := [l.s] }] ++
    (if l.packed then [{ name := 0xFFFE, dtype := 6, dims := [l.r, l.l] }, { name := 0xFFFD, dtype := 6, dims := [l.r, l.l] }]
     else [])

def PackTensor.bytes (x : PackTensor) : Nat := x.dims.foldl (· * ·) 1 * fmtBits x.dtype / 8

/-- Bytes of the header and directory, rounded (R270). -/
def Layout.headBytes (l : Layout) : Nat := roundUp (64 + 32 * l.packTensors.length) 256

/-- Offset of tensor k within the pack (R284). -/
def Layout.tensorOffset (l : Layout) (k : Nat) : Nat :=
  ((l.packTensors.take k).map fun x => roundUp x.bytes 256).foldl (· + ·) l.headBytes

/-- The pack size P (R270). -/
def Layout.packBytes (l : Layout) : Nat := l.tensorOffset l.packTensors.length

/-! ## State of a queue -/

/-- Batch queue m of partition p. -/
def State.bq (s : State) (p : Port) (m : Nat) : BatchQueue := s.parts[p].bq[qix m]

def State.setBq (s : State) (p : Port) (m : Nat) (g : BatchQueue → BatchQueue) : State := s.updBq p (qix m) g

/-- The fill bank and the other bank: false is bank 0. -/
def bankIx (b : Bool) : Fin 2 := if b then 1 else 0

def BatchQueue.fillBank (b : BatchQueue) : Bank := b.banks[bankIx b.fill]
def BatchQueue.otherBank (b : BatchQueue) : Bank := b.banks[bankIx !b.fill]
def BatchQueue.setBank (b : BatchQueue) (i : Bool) (x : Bank) : BatchQueue := { b with banks := b.banks.set (bankIx i) x }

/-- FILL = TAIL − REL (R285). -/
def BatchQueue.fillCount (b : BatchQueue) : Nat := b.tail - b.rel

/-- Post an ALARM event (R290). -/
def State.postAlarm (s : State) (p : Port) (m : Nat) (c : EventClass) : State :=
  s.postEvent c ⟨.port, p.val⟩ (m % 64 + (s.bq p m).fillCount % 65536 * 2 ^ 16) [(p, 0)] (some p)

/-- Re-evaluate QHI and QLO and post an alarm on each assertion (R290). -/
def State.evalMarks (s : State) (p : Port) (m : Nat) : State :=
  let b := s.bq p m
  if !b.enabled then s
  else
    let n := b.fillCount
    let hi := if b.wmHigh ≤ n then true else if n + b.wmHyst < b.wmHigh then false else b.qhi
    let lo := if n ≤ b.wmLow then true else if b.wmLow + b.wmHyst < n then false else b.qlo
    let s1 := s.setBq p m ({ · with qhi := hi, qlo := lo })
    let s2 := if hi && !b.qhi then s1.postAlarm p m .alarmHigh else s1
    if lo && !b.qlo then s2.postAlarm p m .alarmLow else s2

/-- The designated queue of the partition while it is enabled (R290). -/
def State.pinQueue (s : State) (p : Port) : Option BatchQueue :=
  (((List.range 64).find? fun m => (s.bqRecord p m).any (·.pins)).map (s.bq p)).filter (·.enabled)

/-- The port's pins QHI_n and QLO_n, true while released: low while the designated queue asserts its watermark (R290). -/
def State.qhiN (s : State) (p : Port) : Bool := !(s.pinQueue p).any (·.qhi)
def State.qloN (s : State) (p : Port) : Bool := !(s.pinQueue p).any (·.qlo)

/-- SLOT_BYTES and DEPTH of the queue's record. -/
def State.slotBytes (s : State) (p : Port) (m : Nat) : Nat := (s.bqRecord p m).elim 0 (·.slotBytes)
def State.bqDepth (s : State) (p : Port) (m : Nat) : Nat := (s.bqRecord p m).elim 0 (·.depth)

/-- Slab offset of a bank (Table 12.2). -/
def State.bankBase (s : State) (p : Port) (m : Nat) (l : Layout) (i : Bool) : Nat :=
  l.bankOffset + (if i then s.slotBytes p m else 0)

/-- A closed bank waits for a free slot: TAIL does not count its batch yet (R283, log 17). -/
def BatchQueue.waits (b : BatchQueue) (i : Bool) : Bool := b.banks[bankIx i].closedSeq.any (b.tail ≤ ·)

/-- The sequence the next closed batch takes: TAIL, plus one while the other bank waits for a free slot (R281, R283). -/
def BatchQueue.nextSeq (b : BatchQueue) : Nat := b.tail + (b.waits !b.fill).toNat

/-- TAIL counts the oldest closed bank that waits, once a slot is free (R281 step 3, R283, R285). -/
def BatchQueue.countOne (b : BatchQueue) (depth : Nat) : BatchQueue :=
  if (b.waits false || b.waits true) && b.fillCount < depth then { b with tail := b.tail + 1 } else b

/-- TAIL counts closed banks as far as slots are free. -/
def BatchQueue.countClosed (b : BatchQueue) (depth : Nat) : BatchQueue := (b.countOne depth).countOne depth

/-- The pack of a sequence stands in a bank still: its slot is not written. -/
def BatchQueue.unwritten (b : BatchQueue) (seq : Nat) : Bool :=
  b.fillBank.closedSeq == some seq || b.otherBank.closedSeq == some seq

/-- The context whose EPOCH the pack shows (Table 12.5): for SHUFFLED the shuffle's in force (R276). -/
def State.bqCtx (s : State) (p : Port) (m : Nat) (l : Layout) : RimeCtx :=
  (if l.shuffled then (s.bq p m).ctx else none).getD (s.ctxOf p l.pipeline)

/-! ## Closing -/

/-- The pad bytes of one element of a format (Table 12.2). -/
def Layout.padElement (l : Layout) (dtype : Nat) : List Byte :=
  leBytes (fmtBits dtype / 8) (if dtype = 11 then ofSigned 64 l.pad.toInt else l.pad.toNat)

/-- n elements of pad. -/
def Layout.pads (l : Layout) (dtype n : Nat) : List Byte := (List.replicate n (l.padElement dtype)).flatten

/-- A frame is fresh at time t (11 R255): its age is at most MAX_AGE microseconds, or MAX_AGE is 0. -/
def frameFresh (maxAge : Nat) (capture t : Nat) : Bool := maxAge == 0 || t - capture ≤ maxAge * 1000

/-- The batch-close check drops a sample (11 R257). -/
def State.dropped (s : State) (o : Ordinal) : Bool :=
  match o.frame with
  | none => false
  | some f =>
    if f.untimed || f.maxAge == 0 then false
    else if s.time.valid then !frameFresh f.maxAge.toNat f.capture.toNat s.deviceTime.toNat
    else !f.admitted

/-- Ordinal j is a hole (R280). -/
def State.hole (s : State) (o : Ordinal) : Bool := o.void || s.dropped o

/-- The pack header (Table 12.5). -/
def packHeader (flags seq epoch samples tensors holes total first : Nat) : List Byte :=
  leBytes 4 0x4B424154 ++ leBytes 2 1 ++ leBytes 2 flags ++ leBytes 8 seq ++ leBytes 4 epoch ++ leBytes 4 samples ++
    leBytes 2 tensors ++ leBytes 2 holes ++ leBytes 4 0 ++ leBytes 8 total ++ leBytes 8 first ++ leBytes 16 0

/-- A directory entry (Table 12.6). -/
def packEntry (x : PackTensor) (off : Nat) : List Byte :=
  let d (k : Nat) : List Byte := leBytes 4 ((x.dims[k]?).getD 0)
  leBytes 2 x.name ++ leBytes 1 x.dtype ++ leBytes 1 x.dims.length ++ d 0 ++ d 1 ++ d 2 ++ d 3 ++ leBytes 4 off ++
    leBytes 4 x.bytes ++ leBytes 4 0

/-- The positions that hold elements of ordinals that are no holes: for FORWARD the ordinal's own index, for PACKED its cells
of the grid, with the ordinal and the element's index (R277, R279, R280). -/
def State.cells (s : State) (l : Layout) (b : Bank) : List (Nat × Nat × Nat) :=
  (b.ordinals.zipIdx.filter fun o => !s.hole o.1).flatMap fun o =>
    if l.packed then (List.range o.1.len).map fun i => (o.1.row * l.l + o.1.col + i, o.2, i) else [(o.2, o.2, 0)]

/-- A tensor's bytes at the close: what the samples wrote, PAD elsewhere (R279, R280). -/
def State.closedTensor (s : State) (l : Layout) (cells : List (Nat × Nat × Nat)) (t base k : Nat) (e : LayoutEntry) :
    List Byte :=
  let per := if l.packed then e.posBytes else e.sampleLen * e.posBytes
  let n := if l.packed then l.r * l.l else l.s
  (List.range n).flatMap fun q =>
    if cells.any (·.1 == q) then s.slabGet t (base + l.tensorOffset k + q * per) per
    else l.pads e.dtype (per * 8 / fmtBits e.dtype)

/-- SAMPLE_INDEX, SEGMENT and POSITION at the close (R279, R280). -/
def State.closedIndex (s : State) (l : Layout) (b : Bank) (cells : List (Nat × Nat × Nat)) (name : Nat) : List Byte :=
  if name = 0xFFFF then
    (List.range l.s).flatMap fun j =>
      match b.ordinals[j]? with
      | some o => if s.hole o then leBytes 8 (2 ^ 64 - 1) else leBytes 8 o.sample
      | none => leBytes 8 (2 ^ 64 - 1)
  else
    (List.range (l.r * l.l)).flatMap fun q =>
      match cells.find? (·.1 == q) with
      | some c => leBytes 4 (if name = 0xFFFE then c.2.1 + 1 else c.2.2)
      | none => leBytes 4 0

/-- The batch pack that closing the fill bank makes (R279 to R281, R284). -/
def State.closedPack (s : State) (p : Port) (m : Nat) (l : Layout) (b : Bank) (seq : Nat) : List Byte :=
  let q := s.bq p m
  let base := s.bankBase p m l q.fill
  let cells := s.cells l b
  let ts := l.packTensors
  let holes := (b.ordinals.filter s.hole).length
  let flags := (if 0 < holes then 2 else 0) + (if l.packed then 4 else 0) + (if b.ordinals.length < l.s then 8 else 0)
  let head := packHeader flags seq (s.bqCtx p m l).epoch.toNat b.ordinals.length ts.length holes l.packBytes
    (if l.shuffled then b.firstPos else 0)
  let dir := ts.zipIdx.flatMap fun x => packEntry x.1 (l.tensorOffset x.2)
  let data := ts.zipIdx.flatMap fun x =>
    padTo (roundUp x.1.bytes 256)
      (match l.tensors[x.2]? with
       | some e => s.closedTensor l cells q.tile base x.2 e
       | none => s.closedIndex l b cells x.1.name)
  padTo l.headBytes (head ++ dir) ++ data

/-- TAIL counts what slots are free for, and the watermarks follow (R281, R283, R290). -/
def State.countBanks (s : State) (p : Port) (m : Nat) : State :=
  (s.setBq p m (·.countClosed (s.bqDepth p m))).evalMarks p m

/-- Close the fill bank (R281): the batch-close check, the pack, SEQUENCE, TAIL. The swap waits for the other bank. -/
def State.closeBank (s : State) (p : Port) (m : Nat) : State :=
  let q := s.bq p m
  let b := q.fillBank
  match q.layout with
  | none => s
  | some l =>
    if !q.enabled || b.ordinals.isEmpty || b.closedSeq.isSome then s
    else
      let seq := q.nextSeq
      let drops := (b.ordinals.filter s.dropped).length
      let holes := (b.ordinals.filter s.hole).length
      let s1 := s.slabPut q.tile (s.bankBase p m l q.fill) (s.closedPack p m l b seq)
      let s2 := (s1.setBq p m fun x => x.setBank x.fill { b with closedSeq := some seq }).countBanks p m
      let s3 := ((s2.countP p .batchClosed 1).countP p .batchHoles holes).countP p .frameStale drops
      if 0 < drops then
        s3.postEvent .frameDropSummary ⟨.port, p.val⟩ (drops % 65536 + seq % 65536 * 2 ^ 16) [(p, 0)] (some p)
      else s3

/-! ## Emission and placement -/

/-- Where a sample of n kept elements from element `off` on goes under PACKED (R278): whether the bank must close first, and
the row, column, kept length and first element. -/
structure Placement where
  closeFirst : Bool
  row : Nat
  col : Nat
  len : Nat
  off : Nat
  truncated : Bool
  deriving DecidableEq, Repr

/-- R278 up to the placing of elements. -/
def placePacked (l : Layout) (x : RimeCtx) (b : Bank) (sample n0 : Nat) : Placement :=
  let cut := decide (l.l < n0) && !l.split
  let off :=
    if cut && l.randomCrop then ((x.rime 0x0006 sample 0 0).w0.toNat / 256) * (n0 - l.l + 1) / 2 ^ 24 else 0
  let n1 := if cut then l.l else n0
  let k1 := max 1 (ceilDiv n1 l.l)
  let past := decide (l.r < k1)
  let n := if past then l.r * l.l else n1
  let k := if past then l.r else k1
  let wrap := decide (l.l - b.used < n) && decide (0 < b.used)
  let r0 := if wrap then b.row + 1 else b.row
  let c0 := if wrap then 0 else b.used
  if 0 < n && l.r < r0 + k then { closeFirst := true, row := 0, col := 0, len := n, off := off, truncated := cut || past }
  else { closeFirst := false, row := r0, col := c0, len := n, off := off, truncated := cut || past }

/-- Write a sample's slices into the fill bank (R277, R278): the payload holds each tensor's slice of n0 positions in layout
order; positions `off` to `off + len − 1` go from grid position `pos` on. -/
def State.writeSlices (s : State) (t base : Nat) (l : Layout) (pos off len n0 : Nat) :
    List (LayoutEntry × Nat) → List Byte → State
  | [], _ => s
  | (e, k) :: es, bytes =>
    let per := if l.packed then e.posBytes else e.sampleLen * e.posBytes
    let s1 := s.slabPut t (base + l.tensorOffset k + pos * per) (slice bytes (off * per) (len * per))
    s1.writeSlices t base l pos off len n0 es (bytes.drop (n0 * per))

/-- Emit one sample into an open fill bank (R277, R278): `none` when the bank has to close first. `first` is the position of
a SHUFFLED sample. -/
def State.placeSample (s : State) (p : Port) (m : Nat) (l : Layout) (a : Arriving) (first : Nat) : Option State :=
  let q := s.bq p m
  let b := q.fillBank
  let base := s.bankBase p m l q.fill
  let n0 := if a.void then 0 else if l.packed then a.length else 1
  let fp := if b.ordinals.isEmpty then first else b.firstPos
  if l.packed then
    let x := placePacked l (s.ctxOf p l.pipeline) b a.sample n0
    if x.closeFirst && !b.ordinals.isEmpty then none
    else
      let o : Ordinal := { sample := a.sample, void := a.void, frame := a.frame, row := x.row, col := x.col, len := x.len }
      let k := max 1 (ceilDiv x.len l.l)
      let b1 : Bank := { b with
        ordinals := b.ordinals ++ [o], firstPos := fp
        row := if 0 < x.len then x.row + k - 1 else b.row
        used := if 0 < x.len then x.col + x.len - (k - 1) * l.l else b.used }
      let s1 := s.writeSlices q.tile base l (x.row * l.l + x.col) x.off x.len n0 l.tensors.zipIdx a.payload
      let s2 := s1.setBq p m fun y => y.setBank y.fill b1
      let s3 := if x.truncated then s2.countP p .batchTruncated 1 else s2
      some (if b1.ordinals.length == l.s || (b1.row == l.r - 1 && b1.used == l.l) then s3.closeBank p m else s3)
  else
    let j := b.ordinals.length
    let o : Ordinal := { sample := a.sample, void := a.void, frame := a.frame, row := j, col := 0, len := n0 }
    let b1 : Bank := { b with ordinals := b.ordinals ++ [o], firstPos := fp }
    let s1 := s.writeSlices q.tile base l j 0 n0 n0 l.tensors.zipIdx a.payload
    let s2 := s1.setBq p m fun y => y.setBank y.fill b1
    some (if j + 1 == l.s then s2.closeBank p m else s2)

/-- Bytes of payload that a sample of the layout needs (R272). -/
def Layout.need (l : Layout) (length : Nat) : Nat :=
  (l.tensors.map fun e => (if l.packed then length else e.sampleLen) * e.posBytes).foldl (· + ·) 0

/-- The tag of a sample (Table 12.4) as the P7 fills it. -/
def sampleTag (a : Arriving) (m : Nat) : List Byte :=
  let f := a.frame.getD { maxAge := 0, capture := 0, untimed := false, admitted := false }
  leBytes 6 a.sample ++ leBytes 1 a.void.toNat ++ leBytes 1 m ++ leBytes 4 a.length ++ leBytes 4 f.maxAge.toNat ++
    leBytes 8 f.capture.toNat ++
    leBytes 1 (a.frame.isSome.toNat + 2 * f.untimed.toNat + 4 * f.admitted.toNat) ++ leBytes 7 0

/-- A frame tag read from a stored sample tag. -/
def frameOfTag (b : List Byte) : Option FrameTag :=
  let g := field b 24 1
  if g % 2 = 1 then
    some { maxAge := BitVec.ofNat 32 (field b 12 4), capture := BitVec.ofNat 64 (field b 16 8), untimed := bitsOf g 1 1 = 1,
           admitted := bitsOf g 2 1 = 1 }
  else none

/-- Stack and offset of the store entry of sample n (R275). -/
def Layout.storeAt (l : Layout) (n : Nat) : Nat × Nat := (n % 8, l.storeOffset + n / 8 * l.storeStride)

/-- The bitmap bit of sample n (R275). -/
def State.bitmapBit (s : State) (t : Nat) (l : Layout) (n : Nat) : Bool :=
  (leNat (s.slabGet t (l.bitmapOffset + n / 8) 1)).testBit (n % 8)

/-- Set it. -/
def State.setBitmap (s : State) (t : Nat) (l : Layout) (n : Nat) : State :=
  let b := leNat (s.slabGet t (l.bitmapOffset + n / 8) 1)
  s.slabPut t (l.bitmapOffset + n / 8) (leBytes 1 (Nat.lor b (2 ^ (n % 8))))

/-- A stored sample read back; one whose entry is uncorrectable is VOID (log 18). -/
def State.storedSample (s : State) (p : Port) (l : Layout) (n : Nat) : Arriving :=
  let (st, off) := l.storeAt n
  let tag := s.hbmGet p st off 32
  let void := field tag 6 1 % 2 = 1 || s.hbmBad p st off l.storeStride
  let len := field tag 8 4
  { src := 0, vc := 0, sample := n, void := void, length := len, frame := frameOfTag tag
    payload := if void then [] else s.hbmGet p st (off + 32) (l.need len), need := 0 }

/-- Emit SHUFFLED positions while their samples are there and the fill bank is open (R275, R476). Position N − 1 closes the
bank. `fuel` bounds the walk by N. -/
def State.emitShuffled (p : Port) (m : Nat) (l : Layout) : Nat → State → State
  | 0, s => s
  | fuel + 1, s =>
    let q := s.bq p m
    match q.ctx with
    | none => s
    | some x =>
      if !q.enabled || q.epochPending || q.fillBank.closedSeq.isSome || x.shuffleN ≤ q.pos || 2 ^ 26 < x.shuffleN then s
      else
        let (n, evals) := shufflePi x x.shuffleN q.pos
        if !s.bitmapBit q.tile l n then s
        else
          match s.placeSample p m l (s.storedSample p l n) q.pos with
          | none => State.emitShuffled p m l fuel (s.closeBank p m)
          | some s1 =>
            let s2 := ((s1.setBq p m fun y => { y with pos := y.pos + 1 }).countP p .shuffleEvals evals).countP p
              .shufflePositions 1
            let s3 := if q.pos + 1 == x.shuffleN then s2.closeBank p m else s2
            State.emitShuffled p m l fuel s3

/-- Store a whole sample for the shuffle (R275); one outside the shuffle or already there is discarded. An entry past the
partition's range is not reached (03 R70, R83). -/
def State.storeSample (s : State) (p : Port) (m : Nat) (l : Layout) (a : Arriving) : State :=
  let q := s.bq p m
  let n := (q.ctx.map (·.shuffleN)).getD 0
  if n ≤ a.sample || 2 ^ 26 < n || s.bitmapBit q.tile l a.sample then s.countP p .batchOutside 1
  else
    let big := l.storeStride < 32 + a.payload.length
    let a1 := if big then { a with void := true, payload := [] } else a
    let (st, off) := l.storeAt a.sample
    if !s.inBounds p (.hbm st off) l.storeStride then s.pathFails ⟨.tile, q.tile⟩
    else (s.hbmPut p st off (sampleTag a1 m ++ a1.payload)).setBitmap q.tile l a.sample

/-- Emit what can be emitted: under ARRIVAL the samples in the order of their first vectors, as far as they are complete
(R274); under SHUFFLED complete samples are stored and positions follow. -/
def State.emitArrived (p : Port) (m : Nat) (l : Layout) : Nat → State → State
  | 0, s => s
  | fuel + 1, s =>
    let q := s.bq p m
    let complete (a : Arriving) : Bool := a.need ≤ a.payload.length
    if l.shuffled then
      match q.arriving.find? complete with
      | none => State.emitShuffled p m l ((q.ctx.map (·.shuffleN)).getD 0 + 1) s
      | some a =>
        let s1 := s.setBq p m fun y => { y with arriving := y.arriving.erase a }
        State.emitArrived p m l fuel (s1.storeSample p m l { a with payload := a.payload.take a.need })
    else
      match q.arriving with
      | [] => s
      | a :: rest =>
        if !complete a || q.fillBank.closedSeq.isSome then s
        else
          match s.placeSample p m l { a with payload := a.payload.take a.need } 0 with
          | none => s.closeBank p m
          | some s1 => State.emitArrived p m l fuel (s1.setBq p m ({ · with arriving := rest }))

/-- Emit as far as possible. -/
def State.emit (s : State) (p : Port) (m : Nat) : State :=
  match (s.bq p m).layout with
  | some l => if (s.bq p m).enabled then State.emitArrived p m l ((s.bq p m).arriving.length + 1) s else s
  | none => s

/-! ## Arrival -/

/-- The partition whose cluster holds a tile. -/
def State.tilePart (s : State) (t : Nat) : Option Port := (List.finRange 6).find? fun p => s.ownsCluster p (t / 8)

/-- Queues that a BQ_CTRL write has given a tile as assembly tile (R272). -/
def State.queuesAt (s : State) (p : Port) (t : Nat) : List Nat :=
  (List.range 64).filter fun m => (s.bq p m).ctrl != 0 && (s.bq p m).tile == t

/-- The queue accepts no vector: its fill bank waits for the swap, or an EPOCH_SET waits for it (R276, R281). -/
def BatchQueue.holding (b : BatchQueue) : Bool :=
  b.enabled && (b.fillBank.closedSeq.isSome || (b.epochPending && b.layout.any (·.shuffled)))

/-- Payload bytes of a sample that names a queue which takes none: by the layout the queue holds or its block spells, and its
tag; no queue with a layout, no payload (log 101). -/
def State.refusedBytes (s : State) (p : Port) (m : Nat) (b : List Byte) : Nat :=
  let q := s.bq p m
  if 64 ≤ m || q.ctrl = 0 || field b 6 1 % 2 = 1 then 0
  else
    match q.layout.orElse fun _ => parseLayout (s.slabGet q.tile q.layoutOffset 528) with
    | none => 0
    | some l => l.need (field b 8 4)

/-- A sample that names a disabled queue is discarded and counted (R273); its later vectors go with it. -/
def State.refuseSample (s : State) (p : Port) (t : Tile) (pk : RxPacket) : State :=
  let left := s.refusedBytes p (field pk.data 7 1) pk.data - (pk.data.length - 32)
  (s.countP p .batchBadSample 1).updTile t fun x =>
    if left = 0 then x else { x with dropping := { src := pk.src, vc := pk.vc, left := left } :: x.dropping }

/-- The next vector of a sample that is being discarded. -/
def State.dropVector (s : State) (t : Tile) (pk : RxPacket) : State :=
  s.updTile t fun x => { x with dropping := x.dropping.filterMap fun d =>
    if d.src != pk.src || d.vc != pk.vc then some d
    else if d.left ≤ pk.data.length then none else some { d with left := d.left - pk.data.length } }

/-- The first vector of a sample (R272, R273): its tag decides. -/
def State.firstVector (s : State) (p : Port) (t : Tile) (pk : RxPacket) : State :=
  let b := pk.data
  let m := field b 7 1
  let q := s.bq p m
  match q.layout with
  | none => s.refuseSample p t pk
  | some l =>
    if 64 ≤ m || !q.enabled || q.tile != t.val then s.refuseSample p t pk
    else
      let flags := field b 6 1
      let len := field b 8 4
      let bad := 2 ≤ flags || !zeros b 25 7 || (!l.packed && len != 0) || (l.packed && 16777216 ≤ len)
      let void := flags % 2 = 1 || bad
      let a : Arriving :=
        { src := pk.src, vc := pk.vc, sample := field b 0 6, void := void, length := if void then 0 else len,
          frame := pk.frame, payload := if void then [] else b.drop 32, need := if void then 0 else l.need len }
      let s1 := s.setBq p m fun y => { y with arriving := y.arriving ++ [a] }
      let s2 := if bad then s1.countP p .batchBadSample 1 else s1
      s2.emit p m

/-- The unfinished sample of a source among the tile's queues. -/
def State.continues (s : State) (p : Port) (t : Nat) (pk : RxPacket) : Option Nat :=
  (s.queuesAt p t).find? fun m => (s.bq p m).enabled &&
    (s.bq p m).arriving.any fun a => a.src == pk.src && a.vc == pk.vc && a.payload.length < a.need

/-- A later vector of a sample. -/
def State.nextVector (s : State) (p : Port) (m : Nat) (pk : RxPacket) : State :=
  (s.setBq p m fun y => { y with arriving := y.arriving.map fun a =>
    if a.src == pk.src && a.vc == pk.vc && a.payload.length < a.need then { a with payload := a.payload ++ pk.data }
    else a }).emit p m

/-- CREDIT owed for a freed buffer: the sender's counter comes back when the CREDIT arrives (14 R337 step 6). -/
def State.creditOwed (s : State) (dst : Nat) (pk : RxPacket) : State :=
  s.returnCredit (pix pk.part) 3 pk.vc pk.src dst

/-- SAMPLE_ARRIVAL (R272 to R275): the assembly tile takes the next vector of receive queue 3. -/
def State.sampleArrival (s : State) (t : Tile) : State :=
  match s.tilePart t.val with
  | none => s
  | some p =>
    let qs := s.queuesAt p t.val
    if qs.isEmpty || qs.any (fun m => (s.bq p m).holding) || s.clusterOper (t.val / 8) != .run ||
      (s.ledgerWord ⟨.tile, t.val⟩).oper == .fenced then s
    else
      match s.tiles[t].rxq[(3 : Fin 4)] with
      | [] => s
      | pk :: rest =>
        let s1 := (s.updTile t fun x => { x with rxq := x.rxq.set (3 : Fin 4) rest }).creditOwed (tileStop t.val) pk
        match s1.continues p t.val pk with
        | some m => s1.nextVector p m pk
        | none =>
          if s1.tiles[t].dropping.any (fun d => d.src == pk.src && d.vc == pk.vc) then s1.dropVector t pk
          else s1.firstVector p t pk

def execSampleArrival (t : Tile) (s : State) : Host.Outcome State Fault Refusal := .next (s.sampleArrival t)

/-- BANK_SWAP (R281): once the other bank has drained the banks swap, and emission goes on. -/
def State.bankSwap (s : State) (p : Port) (m : Nat) : State :=
  let q := s.bq p m
  if q.enabled && q.fillBank.closedSeq.isSome && q.otherBank.closedSeq.isNone then
    (s.setBq p m fun y => { y.setBank (!y.fill) Bank.empty with fill := !y.fill }).emit p m
  else s

def execBankSwap (p : Port) (m : Nat) (s : State) : Host.Outcome State Fault Refusal := .next (s.bankSwap p m)

/-- SHUFFLE_EPOCH_RESET (R276): after the bank of the old epoch has closed, the bitmap is cleared, p is 0 and the context of
the EPOCH_SET is in force. -/
def State.shuffleEpochReset (s : State) (p : Port) (m : Nat) : State :=
  let q := s.bq p m
  match q.layout with
  | none => s
  | some l =>
    if q.enabled && q.epochPending && (q.fillBank.closedSeq.isSome || q.fillBank.ordinals.isEmpty) then
      let s1 := s.slabZero q.tile l.bitmapOffset 8388608
      (s1.setBq p m ({ · with pos := 0, epochPending := false, ctx := some (s.ctxOf p l.pipeline) })).emit p m
    else s

def execShuffleEpochReset (p : Port) (m : Nat) (s : State) : Host.Outcome State Fault Refusal :=
  .next (s.shuffleEpochReset p m)

/-- Stack and offset of slot n of the queue's ring. -/
def State.slotAt (s : State) (p : Port) (m : Nat) (l : Layout) (seq : Nat) : Nat × Nat :=
  (l.ringAddr / 2 ^ 37, l.ringAddr % 2 ^ 37 + seq % s.bqDepth p m * s.slotBytes p m)

/-- PACK_SLOT_WRITE (R283, R285): the draining bank writes its pack to its slot, once a slot was free for it and TAIL counts it
(log 17). A bank that holds an uncorrectable error is not written (20 R451, log 18). -/
def State.packSlotWrite (s : State) (p : Port) (m : Nat) : State :=
  let q := s.bq p m
  match q.layout, q.otherBank.closedSeq with
  | some l, some seq =>
    let base := s.bankBase p m l (!q.fill)
    if q.enabled && seq < q.tail && !s.slabBad q.tile base l.packBytes then
      let (st, off) := s.slotAt p m l seq
      let s1 := s.hbmPut p st off (s.slabGet q.tile base l.packBytes)
      s1.setBq p m fun y => y.setBank (!y.fill) Bank.empty
    else s
  | _, _ => s

def execPackSlotWrite (p : Port) (m : Nat) (s : State) : Host.Outcome State Fault Refusal := .next (s.packSlotWrite p m)

/-! ## Delivery -/

/-- The consuming function as an index. -/
def BatchQueue.fn (b : BatchQueue) : Func := Fin.ofNat 16 b.consumer

/-- Delivery may act (R287, 22 R498): credits, a ring, HSTOP_n high, the consuming function awake. -/
def State.canDeliver (s : State) (p : Port) (m : Nat) : Bool :=
  let q := s.bq p m
  q.enabled && 0 < q.credits && q.ringSize != 0 && s.ports[p].hstopN && !s.asleepFn p q.fn

/-- DELIVERY (R287): the copy of the pack of READ begins, once its slot holds it (log 17). -/
def State.delivery (s : State) (p : Port) (m : Nat) : State :=
  let q := s.bq p m
  match q.layout with
  | none => s
  | some l =>
    let (st, off) := s.slotAt p m l q.read
    if s.canDeliver p m && q.read < q.tail && !q.unwritten q.read && q.copying.isNone && !s.hbmBad p st off l.packBytes then
      (s.setBq p m fun y => { y with
        copying := some (y.read, y.delivered % y.ringSize)
        read := y.read + 1, delivered := y.delivered + 1, credits := y.credits - 1 }).updateLtr p
    else s

def execDelivery (p : Port) (m : Nat) (s : State) : Host.Outcome State Fault Refusal := .next (s.delivery p m)

/-- Host address of slot n of the queue's host ring. -/
def State.hostSlot (s : State) (p : Port) (m slot : Nat) : Nat :=
  (s.bq p m).ringBase.toNat + slot * s.slotBytes p m

/-- DELIVERY_COMPLETE (R287, R289, 22 R490, R491): the pack's bytes stand in the host slot, header last and strongly ordered, the
rest with Relaxed Ordering where the consuming function enables it; PUSH modes signal the vector, PULL
adds the pack to those BQ_POP returns. -/
def State.deliveryComplete (s : State) (p : Port) (m : Nat) : State :=
  let q := s.bq p m
  match q.copying, q.layout with
  | some (seq, slot), some l =>
    let (st, off) := s.slotAt p m l seq
    let bytes := s.hbmGet p st off l.packBytes
    let a := s.hostSlot p m slot
    let s0 := (s.hostPut p (a + 64) (bytes.drop 64)).sendWrites p q.fn (a + 64) (bytes.length - 64) (s.fn p q.fn).relaxed
    let s1 := (s0.hostPut p a (bytes.take 64)).sendWrites p q.fn a 64 false
    let s2 := s1.setBq p m fun y => { y with
      copying := none
      unpopped := if y.pull then y.unpopped ++ [(seq, slot)] else y.unpopped }
    if q.pull then s2 else s2.signalMsix p q.fn q.vector
  | _, _ => s

def execDeliveryComplete (p : Port) (m : Nat) (s : State) : Host.Outcome State Fault Refusal :=
  .next (s.deliveryComplete p m)

/-- Function f's BAR0 maps a register of queue m (23 R513): the PF every queue, but READ, RELEASE and POP only of its own;
a VF the queues it consumes. -/
def State.mapsBq (s : State) (p : Port) (f : Func) (m : Nat) (own : Bool) : Bool :=
  s.fnExists p f && m < 64 && ((s.bq p m).consumer == f.val || (f.val == 0 && !own))

/-- BQ_WANT (R287, R288): credits are added, and in PUSH_IDLE with nothing to deliver one IDLE pack is sent. -/
def State.bqWant (s : State) (p : Port) (f : Func) (m : Nat) (v : BitVec 64) : State :=
  if !s.ready || !s.mapsBq p f m false || !(s.bq p m).enabled then s
  else
    let s1 := s.setBq p m fun y => { y with credits := min 65535 (y.credits + v.toNat % 65536) }
    let q := s1.bq p m
    if q.mode == 0 && q.read == q.tail && s1.canDeliver p m then
      let epoch := (q.layout.map fun l => (s1.bqCtx p m l).epoch.toNat).getD 0
      let head := packHeader 1 q.tail epoch 0 0 0 64 0
      let a := s1.hostSlot p m (q.delivered % q.ringSize)
      let s2 := (s1.hostPut p a head).sendWrites p q.fn a 64 false
      let s3 := s2.setBq p m fun y => { y with credits := y.credits - 1, delivered := y.delivered + 1 }
      ((s3.countP p .batchIdle 1).signalMsix p q.fn q.vector).updateLtr p
    else s1.updateLtr p

def execBqWant (p : Port) (f : Func) (m : Nat) (v : BitVec 64) (s : State) : Host.Outcome State Fault Refusal :=
  .next (s.bqWant p f m v)

/-- The word BQ_POP returns (R289). -/
def popWord (e : Nat × Nat) : BitVec 64 := BitVec.ofNat 64 (2 ^ 63 + e.2 % 2 ^ 12 * 2 ^ 48 + e.1 % 2 ^ 48)

/-- BQ_POP (R289, 23 R512): in PULL an 8-byte read returns and removes the oldest delivered, unpopped pack. -/
def State.bqPop (s : State) (p : Port) (f : Func) (m : Nat) (w : Width) : State :=
  let q := s.bq p m
  match w, q.unpopped with
  | .w8, e :: rest =>
    if s.ready && s.mapsBq p f m true && q.enabled && q.pull then
      { s.setBq p m ({ · with unpopped := rest }) with rdata := .reg (popWord e) }
    else { s with rdata := .reg 0 }
  | _, _ => { s with rdata := .reg 0 }

def execBqPop (p : Port) (f : Func) (m : Nat) (w : Width) (s : State) : Host.Outcome State Fault Refusal :=
  .next (s.bqPop p f m w)

/-! ## Configuration -/

/-- Two slab ranges share a byte. -/
def rangesClash (xs : List (Nat × Nat)) : Bool :=
  xs.zipIdx.any fun a => xs.zipIdx.any fun b => a.2 < b.2 && overlap a.1.1 a.1.2 b.1.1 b.1.2

/-- The cause that keeps a queue from being enabled with a BQ_CTRL value, 0 for none, and its layout (R271, R520). -/
def State.bqEnableCheck (s : State) (p : Port) (m : Nat) (c : BatchQueue) : Nat × Option Layout :=
  match s.bqRecord p m with
  | none => (if s.parts[p].pstate != .loaded then 1 else 2, none)
  | some r =>
    if s.parts[p].pstate != .loaded then (1, none)
    else if !s.ownsCluster p (c.tile / 8) then (8, none)
    else
      let n := leNat (s.slabGet c.tile (c.layoutOffset + 4) 2)
      if slabBytes < c.layoutOffset + 64 || (1 ≤ n && n ≤ 29 && slabBytes < c.layoutOffset + 64 + 16 * n) then (4, none)
      else
      match parseLayout (s.slabGet c.tile c.layoutOffset 528) with
      | none => (3, none)
      | some l =>
        let areas := [(c.layoutOffset, l.bytes), (l.bankOffset, 2 * r.slotBytes)] ++
          (if l.shuffled then [(l.bitmapOffset, 8388608)] else [])
        if areas.any (fun x => slabBytes < x.1 + x.2) || rangesClash areas then (4, none)
        else if r.slotBytes < l.packBytes then (5, none)
        else if s.hbmRange p < l.ringAddr % 2 ^ 37 + r.depth * r.slotBytes then (6, none)
        else if !s.fnExists p c.fn then (7, none)
        else if c.mode != 2 && s.msixSize p c.fn ≤ c.vector then (9, none)
        else if c.ringBase.toNat % 4096 != 0 || 4096 < c.ringSize then (11, none)
        else (0, some l)

/-- The fields of a BQ_CTRL write over the register as it stands (Table 23.12, 00 R9): reserved bits are ignored, and so is
the reserved CONSUMER value 3. -/
def bqCtrlValue (old v : BitVec 64) : BitVec 64 :=
  let w := v.toNat
  let cons := if bitsOf w 2 2 = 3 then bitsOf old.toNat 2 2 else bitsOf w 2 2
  BitVec.ofNat 64 (w % 2 + cons * 4 + bitsOf w 4 4 * 2 ^ 4 + bitsOf w 8 7 * 2 ^ 8 + bitsOf w 16 19 * 2 ^ 16 +
    bitsOf w 48 11 * 2 ^ 48)

/-- BQ_ENABLE (R271, R520, R523, R474): a PF's BQ_CTRL write with ENABLE 1. -/
def State.bqEnable (s : State) (p : Port) (m : Nat) (v : BitVec 64) : State :=
  let q := s.bq p m
  let w := bqCtrlValue q.ctrl v
  if !s.ready || 64 ≤ m || w.toNat % 2 = 0 then s
  else if q.enabled then (if w = q.ctrl then s else s.setBq p m ({ · with cause := 10 }))
  else
    match s.bqEnableCheck p m { q with ctrl := w } with
    | (_, some l) =>
      let s1 := if l.shuffled then s.slabZero (BatchQueue.tile { q with ctrl := w }) l.bitmapOffset 8388608 else s
      (s1.setBq p m fun y => { y with
        ctrl := w, enabled := true, cause := 0, layout := some l, rel := 0, mark := none, read := 0, tail := 0
        credits := 0, delivered := 0, unpopped := [], qhi := false, qlo := false, fill := false
        banks := Vector.replicate 2 Bank.empty, arriving := [], pos := 0, epochPending := false
        ctx := some (s.ctxOf p l.pipeline), copying := none }).evalMarks p m
    | (c, none) => s.setBq p m ({ · with cause := c })

def execBqEnable (p : Port) (m : Nat) (v : BitVec 64) (s : State) : Host.Outcome State Fault Refusal :=
  .next (s.bqEnable p m v)

/-- The queue's contents are discarded (R271, R476). -/
def BatchQueue.discard (b : BatchQueue) : BatchQueue :=
  { b with
    enabled := false, ctrl := b.ctrl &&& ~~~1, layout := none, rel := 0, mark := none, read := 0, tail := 0, credits := 0
    delivered := 0, unpopped := [], qhi := false, qlo := false, fill := false, banks := Vector.replicate 2 Bank.empty
    arriving := [], pos := 0, epochPending := false, ctx := none, copying := none }

/-- BQ_DISABLE (R271, R520): a copy in progress completes, then the contents are discarded. -/
def State.bqDisable (s : State) (p : Port) (m : Nat) : State :=
  if !s.ready || 64 ≤ m || !(s.bq p m).enabled then s
  else ((s.deliveryComplete p m).setBq p m BatchQueue.discard).updateLtr p

def execBqDisable (p : Port) (m : Nat) (s : State) : Host.Outcome State Fault Refusal := .next (s.bqDisable p m)

/-- BQ_WM (R522): a PF write of the watermarks, accepted when they fit the record. -/
def State.bqWm (s : State) (p : Port) (m : Nat) (v : BitVec 64) : State :=
  if !s.ready || 64 ≤ m then s
  else
    let hi := bitsOf v.toNat 0 16
    let lo := bitsOf v.toNat 16 16
    let hy := bitsOf v.toNat 32 16
    let d := s.bqDepth p m
    if lo < hi && hi ≤ d && hy < hi && lo + hy < d then
      (s.setBq p m ({ · with wmHigh := hi, wmLow := lo, wmHyst := hy })).evalMarks p m
    else s.setBq p m ({ · with cause := 12 })

def execBqWm (p : Port) (m : Nat) (v : BitVec 64) (s : State) : Host.Outcome State Fault Refusal := .next (s.bqWm p m v)

/-! ## Queue operations and BATCH_CLOSE -/

/-- Release up to a sequence (Table 12.7): REL rises, MARK goes when REL passes it, and a freed slot takes a waiting bank
(Table 12.8). -/
def State.releaseTo (s : State) (p : Port) (m upto : Nat) : State :=
  (s.setBq p m fun y => { y with
    rel := max y.rel upto
    mark := y.mark.filter fun k => max y.rel upto ≤ k }).countBanks p m

/-- BQ_RELEASE (R286, Table 23.14). -/
def State.bqRelease (s : State) (p : Port) (f : Func) (m : Nat) (upto : BitVec 64) : State :=
  let q := s.bq p m
  if !s.ready || !s.mapsBq p f m true || !q.enabled then s
  else if q.read < upto.toNat then s.setBq p m ({ · with cause := 13 })
  else s.releaseTo p m upto.toNat

def execBqRelease (p : Port) (f : Func) (m : Nat) (upto : BitVec 64) (s : State) : Host.Outcome State Fault Refusal :=
  .next (s.bqRelease p f m upto)

/-- A queue operation in service (R286): only for the PF and the consuming function, on an enabled queue (log 19). -/
def State.queueOp (s : State) (p : Port) (k op : Nat) (g : Item → BatchQueue → State) : State :=
  match s.serving p k op with
  | none => s
  | some i =>
    let m := i.fld 16 1
    let q := s.bq p m
    if 64 ≤ m || !q.enabled then s.finishService p k .badDescriptor 16 0
    else if i.fn.val != 0 && i.fn.val != q.consumer then s.finishService p k .unsupported 0 0
    else g i q

/-- QUEUE_MARK (Table 12.7). -/
def State.queueMark (s : State) (p : Port) (k : Nat) : State :=
  s.queueOp p k opQueueMark fun i q =>
    (s.setBq p (i.fld 16 1) ({ · with mark := some q.read })).finishService p k .ok (q.read % 2 ^ 32) (q.read / 2 ^ 32)

def execQueueMark (p : Port) (k : Nat) (s : State) : Host.Outcome State Fault Refusal := .next (s.queueMark p k)

/-- QUEUE_REWIND (Table 12.7, Table 21.6): it waits for a copy of a sequence from MARK on, which completes first (Table 12.8). -/
def State.queueRewind (s : State) (p : Port) (k : Nat) : State :=
  s.queueOp p k opQueueRewind fun i q =>
    match q.mark with
    | some dest =>
      if dest < q.rel then s.finishService p k .stateStale (q.rel % 2 ^ 32) 0
      else if q.copying.any (dest ≤ ·.1) then s
      else
        (s.setBq p (i.fld 16 1) fun y => { y with
          read := dest, unpopped := y.unpopped.filter (·.1 < dest) }).finishService p k .ok (q.read - dest) 0
    | none => s.finishService p k .stateStale (q.rel % 2 ^ 32) 0

def execQueueRewind (p : Port) (k : Nat) (s : State) : Host.Outcome State Fault Refusal := .next (s.queueRewind p k)

/-- QUEUE_RELEASE (Table 12.7). -/
def State.queueRelease (s : State) (p : Port) (k : Nat) : State :=
  s.queueOp p k opQueueRelease fun i q =>
    let upto := i.fld 24 8
    if q.read < upto then s.finishService p k .stateStale (q.read % 2 ^ 32) 0
    else
      let s1 := s.releaseTo p (i.fld 16 1) upto
      s1.finishService p k .ok (s1.bq p (i.fld 16 1)).fillCount 0

def execQueueRelease (p : Port) (k : Nat) (s : State) : Host.Outcome State Fault Refusal := .next (s.queueRelease p k)

/-- BATCH_CLOSE (R282): once every earlier item of the queue's pipeline has completed and the fill bank is open. -/
def State.batchClose (s : State) (p : Port) (k : Nat) : State :=
  match s.serving p k opBatchClose with
  | none => s
  | some i =>
    let m := i.fld 16 1
    let q := s.bq p m
    match q.layout with
    | none => s.finishService p k .badDescriptor 16 0
    | some l =>
      if 64 ≤ m || !q.enabled then s.finishService p k .badDescriptor 16 0
      else if (s.earlier p i).any (fun j => j.seq.isSome && j.pipeline == l.pipeline) || q.fillBank.closedSeq.isSome then s
      else if q.fillBank.ordinals.isEmpty then s.finishService p k .idle 0 (q.tail % 2 ^ 32)
      else (s.closeBank p m).finishService p k .ok q.fillBank.ordinals.length (q.nextSeq % 2 ^ 32)

def execBatchClose (p : Port) (k : Nat) (s : State) : Host.Outcome State Fault Refusal := .next (s.batchClose p k)

/-- The drain of an image commit closes every fill bank (R281, Table 12.8). -/
def State.closeAll (s : State) (p : Port) : State := (List.range 64).foldl (fun a m => a.closeBank p m) s

/-- An EPOCH_SET took effect on a pipeline: each SHUFFLED queue of it closes its bank and waits for SHUFFLE_EPOCH_RESET
(R276). -/
def State.epochForQueues (s : State) (p : Port) (pipeline : Nat) : State :=
  (List.range 64).foldl (fun a m =>
    let q := a.bq p m
    if q.enabled && q.layout.any (fun l => l.shuffled && l.pipeline == pipeline) then
      (a.closeBank p m).setBq p m ({ · with epochPending := true })
    else a) s

/-- HSTOP_FALL and HSTOP_RISE (R287): the port's HSTOP_n pin. -/
def execHstopFall (p : Port) (s : State) : Host.Outcome State Fault Refusal := .next (s.updPort p ({ · with hstopN := false }))

def execHstopRise (p : Port) (s : State) : Host.Outcome State Fault Refusal := .next (s.updPort p ({ · with hstopN := true }))

end Sys2Proof.Machine
end

