-- ==== Sys2Proof/Machine/Float.lean ====
section
/-! DEFINITION. Floating-point arithmetic of the stage words: BF16, FP16 and FP32, each result exact and rounded once (04 R109,
R113, R114). -/

namespace Sys2Proof.Machine

/-- Exponent and fraction bits of a format. -/
structure FFmt where
  eb : Nat
  mb : Nat
  deriving DecidableEq, Repr

/-- The floating formats of Table 4.3: 8 BF16, 9 FP16, else FP32. -/
def ffmt (f : Nat) : FFmt := if f = 8 then ⟨8, 7⟩ else if f = 9 then ⟨5, 10⟩ else ⟨8, 23⟩

def fp32 : FFmt := ⟨8, 23⟩
def fp64 : FFmt := ⟨11, 52⟩

/-- Exponent of the last bit of a subnormal. -/
def FFmt.emin (x : FFmt) : Int := 2 - 2 ^ (x.eb - 1) - x.mb

/-- Pattern of +infinity, one above the largest finite pattern. -/
def FFmt.infMag (x : FFmt) : Nat := (2 ^ x.eb - 1) * 2 ^ x.mb

/-- Sign bit. -/
def FFmt.signBit (x : FFmt) : Nat := 2 ^ (x.eb + x.mb)

/-- The canonical quiet NaN (R113). -/
def FFmt.nan (x : FFmt) : Nat := x.infMag + 2 ^ (x.mb - 1)

/-- A value: NaN, an infinity, or (−1)^neg × m × 2^e. -/
inductive Fl where
  | nan
  | inf (neg : Bool)
  | fin (neg : Bool) (m : Nat) (e : Int)
  deriving DecidableEq, Repr

/-- Read a pattern. -/
def FFmt.decode (x : FFmt) (v : Nat) : Fl :=
  let neg : Bool := v / x.signBit % 2 = 1
  let ex := v / 2 ^ x.mb % 2 ^ x.eb
  let fr := v % 2 ^ x.mb
  if ex = 2 ^ x.eb - 1 then (if fr = 0 then .inf neg else .nan)
  else if ex = 0 then .fin neg fr x.emin
  else .fin neg (2 ^ x.mb + fr) (x.emin + (ex - 1 : Nat))

/-- A pattern with a sign. -/
def FFmt.pack (x : FFmt) (neg : Bool) (mag : Nat) : Nat := mag + if neg then x.signBit else 0

/-- m × 2^e as a fraction. -/
def ratio (m : Nat) (e : Int) : Nat × Nat := if 0 ≤ e then (m * 2 ^ e.toNat, 1) else (m, 2 ^ (-e).toNat)

/-- floor(log2(n / d)) for n, d above 0. -/
def floorLog2 (n d : Nat) : Int :=
  let e : Int := (Nat.log2 n : Int) - Nat.log2 d
  if (if 0 ≤ e then d * 2 ^ e.toNat ≤ n else d ≤ n * 2 ^ (-e).toNat) then e else e - 1

/-- The magnitude n / d rounded to a pattern, with no bound above: `rnd` as Table 4.2 codes it, `draw` the 24 bits of R109. -/
def FFmt.roundMag (x : FFmt) (rnd : Nat) (neg : Bool) (draw n d : Nat) : Nat :=
  if n = 0 then 0
  else
    let q := max (floorLog2 n d - x.mb) x.emin
    let n1 := if 0 ≤ q then n else n * 2 ^ (-q).toNat
    let d1 := if 0 ≤ q then d * 2 ^ q.toNat else d
    let t := n1 / d1
    let r := n1 % d1
    let up : Bool :=
      match rnd with
      | 0 => d1 < 2 * r || (2 * r == d1 && t % 2 == 1)
      | 1 => false
      | 2 => neg && r != 0
      | 3 => !neg && r != 0
      | _ => r != 0 && draw < r * 2 ^ 24 / d1
    (q - x.emin).toNat * 2 ^ x.mb + t + up.toNat

/-- What an overflow in rounding a finite value gives (R113): the largest finite value under SAT and in the directions of
IEEE 754 that stay below. -/
def FFmt.overflow (x : FFmt) (rnd : Nat) (sat neg : Bool) : Nat :=
  if sat || rnd = 1 || (rnd = 2 && !neg) || (rnd = 3 && neg) then x.infMag - 1 else x.infMag

/-- Round (−1)^neg × n / d once. -/
def FFmt.round (x : FFmt) (rnd : Nat) (sat : Bool) (draw : Nat) (neg : Bool) (n d : Nat) : Nat :=
  let m := x.roundMag rnd neg draw n d
  x.pack neg (if x.infMag ≤ m then x.overflow rnd sat neg else m)

/-- How a word rounds: its RND, SAT, and the draw of the element. -/
structure Rounding where
  rnd : Nat
  sat : Bool
  draw : Nat

/-- Nearest even, no saturation. -/
def rne : Rounding := { rnd := 0, sat := false, draw := 0 }

/-- Round a value. -/
def FFmt.out (x : FFmt) (k : Rounding) : Fl → Nat
  | .nan => x.nan
  | .inf neg => x.pack neg x.infMag
  | .fin neg m e => x.round k.rnd k.sat k.draw neg (ratio m e).1 (ratio m e).2

/-- Signed integer of a finite value at exponent e0, at most its own. -/
def signedAt (neg : Bool) (m : Nat) (e e0 : Int) : Int :=
  let v : Int := m * 2 ^ (e - e0).toNat
  if neg then -v else v

/-- a + b exactly; an exact zero takes its sign from the operands or the direction (R113). -/
def Fl.add (rnd : Nat) : Fl → Fl → Fl
  | .nan, _ | _, .nan => .nan
  | .inf a, .inf b => if a = b then .inf a else .nan
  | .inf a, .fin _ _ _ | .fin _ _ _, .inf a => .inf a
  | .fin na ma ea, .fin nb mb eb =>
    let e0 := min ea eb
    let s := signedAt na ma ea e0 + signedAt nb mb eb e0
    if s = 0 then .fin (if na = nb then na else decide (rnd = 2)) 0 e0 else .fin (decide (s < 0)) s.natAbs e0

/-- −a. -/
def Fl.neg : Fl → Fl
  | .nan => .nan
  | .inf n => .inf (!n)
  | .fin n m e => .fin (!n) m e

/-- a × b exactly. -/
def Fl.mul : Fl → Fl → Fl
  | .nan, _ | _, .nan => .nan
  | .inf a, .inf b => .inf (a != b)
  | .inf a, .fin b m _ | .fin b m _, .inf a => if m = 0 then .nan else .inf (a != b)
  | .fin na ma ea, .fin nb mb eb => .fin (na != nb) (ma * mb) (ea + eb)

/-- a / b, rounded. -/
def FFmt.div (x : FFmt) (k : Rounding) : Fl → Fl → Nat
  | .nan, _ | _, .nan => x.nan
  | .inf _, .inf _ => x.nan
  | .inf a, .fin b _ _ => x.pack (a != b) x.infMag
  | .fin a _ _, .inf b => x.pack (a != b) 0
  | .fin na ma ea, .fin nb mb eb =>
    let neg := na != nb
    if mb = 0 then (if ma = 0 then x.nan else x.pack neg x.infMag)
    else
      let q := ratio ma (ea - eb)
      x.round k.rnd k.sat k.draw neg q.1 (q.2 * mb)

/-- Integer square root by Newton's steps from above; `fuel` bounds the steps. -/
def isqrtFrom : Nat → Nat → Nat → Nat
  | 0, _, g => g
  | fuel + 1, n, g =>
    let h := (g + n / max 1 g) / 2
    if h < g then isqrtFrom fuel n h else g

/-- floor(√n). -/
def isqrt (n : Nat) : Nat := if n = 0 then 0 else isqrtFrom (Nat.log2 n + 2) n (2 ^ (Nat.log2 n / 2 + 1))

/-- A number between √(n/d) and the next 2^-k that rounds as √(n/d) does: exact when the root is a multiple of 2^-k. -/
def rootApprox (k n d : Nat) : Nat × Nat :=
  let s := isqrt (n * 4 ^ k / d)
  if s * s * d = n * 4 ^ k then (s, 2 ^ k) else (2 * s + 1, 2 ^ (k + 1))

/-- √a (R113): −0 gives −0. -/
def FFmt.sqrt (x : FFmt) (k : Rounding) : Fl → Nat
  | .nan => x.nan
  | .inf neg => if neg then x.nan else x.infMag
  | .fin neg m e =>
    if m = 0 then x.pack neg 0
    else if neg then x.nan
    else
      let q := ratio m e
      let r := rootApprox 256 q.1 q.2
      x.round k.rnd k.sat k.draw false r.1 r.2

/-- 1 / √a: an exact pole at ±0. -/
def FFmt.rsqrt (x : FFmt) (k : Rounding) : Fl → Nat
  | .nan => x.nan
  | .inf neg => if neg then x.nan else 0
  | .fin neg m e =>
    if m = 0 then x.pack neg x.infMag
    else if neg then x.nan
    else
      let q := ratio m e
      let r := rootApprox 256 q.2 q.1
      x.round k.rnd k.sat k.draw false r.1 r.2

/-! ## Exponential and logarithm: intervals of growing precision (log 9) -/

/-- Lower and upper sums of Σ y^i / i! from term i on, for y = n / d, scaled. -/
def expTerms (n d : Nat) : Nat → Nat → Nat → Nat → Nat × Nat
  | 0, _, _, hi => (0, 2 * hi + 1)
  | fuel + 1, i, lo, hi =>
    let r := expTerms n d fuel (i + 1) (lo * n / (d * i)) (ceilDiv (hi * n) (d * i))
    (lo + r.1, hi + r.2)

/-- Square an interval of P fraction bits k times. -/
def squares (p : Nat) : Nat → Nat × Nat → Nat × Nat
  | 0, v => v
  | k + 1, v => squares p k (v.1 * v.1 / 2 ^ p, ceilDiv (v.2 * v.2) (2 ^ p))

/-- e^(n/d) between two multiples of 2^-P, for 0 ≤ n/d < 512. -/
def expIv (p n d : Nat) : Nat × Nat := squares p 16 (expTerms n (d * 65536) (p / 6 + 4) 1 (2 ^ p) (2 ^ p))

/-- Σ z^(2i+1) / (2i+1) from a power on, between scaled bounds, for z² = n / d at most 1/9. -/
def atanhTerms (n d : Nat) : Nat → Nat → Nat → Nat → Nat × Nat
  | 0, _, _, hi => (0, 2 * hi + 1)
  | fuel + 1, i, lo, hi =>
    let r := atanhTerms n d fuel (i + 2) (lo * n / d) (ceilDiv (hi * n) d)
    (lo / i + r.1, ceilDiv hi i + r.2)

/-- atanh(n / d) for 0 ≤ n/d ≤ 1/3. -/
def atanhIv (p n d : Nat) : Nat × Nat :=
  if n = 0 then (0, 0) else atanhTerms (n * n) (d * d) (p / 3 + 4) 1 (2 ^ p * n / d) (ceilDiv (2 ^ p * n) d)

/-- ln(n / d) between two multiples of 2^-P. -/
def lnIv (p n d : Nat) : Int × Int :=
  let k := floorLog2 n d
  let a := if 0 ≤ k then n else n * 2 ^ (-k).toNat
  let b := if 0 ≤ k then d * 2 ^ k.toNat else d
  let f := atanhIv p (a - b) (a + b)
  let t := atanhIv p 1 3
  let kl : Int := if 0 ≤ k then k * t.1 else k * t.2
  let kh : Int := if 0 ≤ k then k * t.2 else k * t.1
  (2 * (kl + f.1), 2 * (kh + f.2))

/-- The precisions tried, in bits. -/
def precisions : List Nat := [128, 256, 512, 1024, 2048, 4096]

/-- The result on which both ends of an interval agree, at the first precision where they do; the lower end's at the last. -/
def agree (f : Nat → Nat × Nat) : List Nat → Nat
  | [] => 0
  | [p] => (f p).1
  | p :: ps => let r := f p; if r.1 = r.2 then r.1 else agree f ps

/-- Round both ends of a signed interval scaled by 2^P. -/
def FFmt.ends (x : FFmt) (k : Rounding) (p : Nat) (v : Int × Int) : Nat × Nat :=
  let r (z : Int) : Nat := x.round k.rnd k.sat k.draw (decide (z < 0)) z.natAbs (2 ^ p)
  (r v.1, r v.2)

/-- e^a, correctly rounded; a value far outside every format's range rounds as 2^±400 does. -/
def FFmt.exp (x : FFmt) (k : Rounding) : Fl → Nat
  | .nan => x.nan
  | .inf neg => if neg then 0 else x.infMag
  | .fin neg m e =>
    let q := ratio m e
    let rnd (n d : Nat) : Nat := x.round k.rnd k.sat k.draw false n d
    if m = 0 then rnd 1 1
    else if 256 * q.2 ≤ q.1 then (if neg then rnd 1 (2 ^ 400) else rnd (2 ^ 400) 1)
    else if neg then agree (fun p => let v := expIv p q.1 q.2; (rnd (2 ^ p) v.2, rnd (2 ^ p) v.1)) precisions
    else agree (fun p => let v := expIv p q.1 q.2; (rnd v.1 (2 ^ p), rnd v.2 (2 ^ p))) precisions

/-- ln of a positive fraction, correctly rounded; ln 1 is +0. -/
def FFmt.lnRatio (x : FFmt) (k : Rounding) (n d : Nat) : Nat :=
  if n = d then 0 else agree (fun p => x.ends k p (lnIv p n d)) precisions

/-- ln a: an exact pole at ±0. -/
def FFmt.log (x : FFmt) (k : Rounding) : Fl → Nat
  | .nan => x.nan
  | .inf neg => if neg then x.nan else x.infMag
  | .fin neg m e =>
    if m = 0 then x.pack true x.infMag
    else if neg then x.nan
    else x.lnRatio k (ratio m e).1 (ratio m e).2

/-- ln(1 + max(a, +0)) (Table 4.7, NLOG1P). -/
def FFmt.log1p (x : FFmt) (k : Rounding) : Fl → Nat
  | .nan => x.nan
  | .inf neg => if neg then 0 else x.infMag
  | .fin neg m e =>
    let q := ratio m e
    if neg || m = 0 then 0 else x.lnRatio k (q.1 + q.2) q.2

/-! ## Orders -/

/-- A pattern's place with −0 equal to +0, for compares. -/
def FFmt.value (x : FFmt) (v : Nat) : Int :=
  let m : Int := (v % x.signBit : Nat)
  if v / x.signBit % 2 = 1 then -m else m

/-- A pattern's place with −0 below +0, for FMIN and FMAX. -/
def FFmt.place (x : FFmt) (v : Nat) : Int :=
  let m : Int := (v % x.signBit : Nat)
  if v / x.signBit % 2 = 1 then -1 - m else m

def FFmt.isNan (x : FFmt) (v : Nat) : Bool := decide (x.infMag < v % x.signBit)

/-- FMIN, or FMAX (R113). -/
def FFmt.minMax (x : FFmt) (wantMax : Bool) (a b : Nat) : Nat :=
  if x.isNan a && x.isNan b then x.nan
  else if x.isNan a then b
  else if x.isNan b then a
  else if (x.place a < x.place b) = (wantMax = true) then b else a

/-! ## Conversions (R114) -/

/-- Integer to float. -/
def FFmt.ofInt (x : FFmt) (k : Rounding) (v : Int) : Nat :=
  x.round k.rnd k.sat k.draw (decide (v < 0)) v.natAbs 1

/-- A finite value rounded to an integer by RND. -/
def roundInt (k : Rounding) (neg : Bool) (m : Nat) (e : Int) : Int :=
  let q := ratio m e
  let t := q.1 / q.2
  let r := q.1 % q.2
  let up : Bool :=
    match k.rnd with
    | 0 => q.2 < 2 * r || (2 * r == q.2 && t % 2 == 1)
    | 1 => false
    | 2 => neg && r != 0
    | 3 => !neg && r != 0
    | _ => r != 0 && k.draw < r * 2 ^ 24 / q.2
  let v : Int := (t + up.toNat : Nat)
  if neg then -v else v

/-- Float to integer within [lo, hi]: NaN gives 0. -/
def floatToInt (k : Rounding) (lo hi : Int) : Fl → Int
  | .nan => 0
  | .inf neg => if neg then lo else hi
  | .fin neg m e => clampInt (roundInt k neg m e) lo hi

end Sys2Proof.Machine
end

