-- ==== Sys2Proof/Machine/Crypto.lean ====
section
/-! DEFINITION. The algorithms the security engine runs (02 R35 to R39): CRC-32C, SHA-384 (FIPS 180-4) and ECDSA P-384
verification (FIPS 186-5), which the spec names by their standards. -/

namespace Sys2Proof.Machine

/-! ## CRC-32C (R35) -/

/-- One bit of the reflected CRC with polynomial 0x82F6_3B78. -/
def crcBit (c : BitVec 32) : BitVec 32 := if c.getLsbD 0 then (c >>> 1) ^^^ 0x82F63B78 else c >>> 1

/-- Take one byte into the CRC state. -/
def crcByte (c : BitVec 32) (b : Byte) : BitVec 32 :=
  crcBit (crcBit (crcBit (crcBit (crcBit (crcBit (crcBit (crcBit (c ^^^ b.setWidth 32))))))))

/-- The CRC state after some bytes, without inversions (R35, 04 R115). -/
def crcUpdate (c : BitVec 32) (bs : List Byte) : BitVec 32 := bs.foldl crcByte c

/-- CRC-32C (R35). -/
def crc32c (bs : List Byte) : BitVec 32 := crcUpdate 0xFFFFFFFF bs ^^^ 0xFFFFFFFF

/-! ## SHA-384 -/

/-- The 80 round constants, the one of round 0 at the top (FIPS 180-4: the fractional bits of the cube roots of the first 80
primes). -/
def shaTable : Nat :=
  0x428a2f98d728ae227137449123ef65cdb5c0fbcfec4d3b2fe9b5dba58189dbbc3956c25bf348b53859f111f1b605d019923f82a4af194f9bab1c5ed5da6d8118d807aa98a303024212835b0145706fbe243185be4ee4b28c550c7dc3d5ffb4e272be5d74f27b896f80deb1fe3b1696b19bdc06a725c71235c19bf174cf692694e49b69c19ef14ad2efbe4786384f25e30fc19dc68b8cd5b5240ca1cc77ac9c652de92c6f592b02754a7484aa6ea6e4835cb0a9dcbd41fbd476f988da831153b5983e5152ee66dfaba831c66d2db43210b00327c898fb213fbf597fc7beef0ee4c6e00bf33da88fc2d5a79147930aa72506ca6351e003826f142929670a0e6e7027b70a8546d22ffc2e1b21385c26c9264d2c6dfc5ac42aed53380d139d95b3df650a73548baf63de766a0abb3c77b2a881c2c92e47edaee692722c851482353ba2bfe8a14cf10364a81a664bbc423001c24b8b70d0f89791c76c51a30654be30d192e819d6ef5218d69906245565a910f40e35855771202a106aa07032bbd1b819a4c116b8d2d0c81e376c085141ab532748774cdf8eeb9934b0bcb5e19b48a8391c0cb3c5c95a634ed8aa4ae3418acb5b9cca4f7763e373682e6ff3d6b2b8a3748f82ee5defb2fc78a5636f43172f6084c87814a1f0ab728cc702081a6439ec90befffa23631e28a4506cebde82bde9bef9a3f7b2c67915c67178f2e372532bca273eceea26619cd186b8c721c0c207eada7dd6cde0eb1ef57d4f7fee6ed17806f067aa72176fba0a637dc5a2c898a6113f9804bef90dae1b710b35131c471b28db77f523047d8432caab7b40c724933c9ebe0a15c9bebc431d67c49c100d4c4cc5d4becb3e42b6597f299cfc657e2a5fcb6fab3ad6faec6c44198c4a475817

/-- The constant of a round. -/
def shaK (round : Nat) : BitVec 64 := BitVec.ofNat 64 (shaTable >>> (64 * (79 - round)))

/-- The eight words of the hash state. -/
structure ShaState where
  a : BitVec 64
  b : BitVec 64
  c : BitVec 64
  d : BitVec 64
  e : BitVec 64
  f : BitVec 64
  g : BitVec 64
  h : BitVec 64
  deriving DecidableEq, Repr

/-- Word i of the initial value (FIPS 180-4: the fractional bits of the square roots of the ninth to sixteenth primes), the
first word at the top. -/
def shaStart (i : Nat) : BitVec 64 :=
  BitVec.ofNat 64
    (0xcbbb9d5dc1059ed8629a292a367cd5079159015a3070dd17152fecd8f70e593967332667ffc00b318eb44a8768581511db0c2e0d64f98fa747b5481dbefa4fa4
      >>> (64 * (7 - i)))

/-- Initial value of SHA-384. -/
def ShaState.init : ShaState :=
  { a := shaStart 0, b := shaStart 1, c := shaStart 2, d := shaStart 3, e := shaStart 4, f := shaStart 5, g := shaStart 6
    h := shaStart 7 }

/-- One round with round constant k and message word w. -/
def ShaState.round (x : ShaState) (k w : BitVec 64) : ShaState :=
  let s1 := x.e.rotateRight 14 ^^^ x.e.rotateRight 18 ^^^ x.e.rotateRight 41
  let ch := (x.e &&& x.f) ^^^ (~~~x.e &&& x.g)
  let t1 := x.h + s1 + ch + k + w
  let s0 := x.a.rotateRight 28 ^^^ x.a.rotateRight 34 ^^^ x.a.rotateRight 39
  let maj := (x.a &&& x.b) ^^^ (x.a &&& x.c) ^^^ (x.b &&& x.c)
  { a := t1 + s0 + maj, b := x.a, c := x.b, d := x.c, e := x.d + t1, f := x.e, g := x.f, h := x.g }

/-- Word i of a list of message words. -/
def wordAt (w : List (BitVec 64)) (i : Nat) : BitVec 64 := (w[i]?).getD 0

/-- The message schedule's next word, from the latest sixteen. -/
def shaNext (w : List (BitVec 64)) : BitVec 64 :=
  let x := wordAt w 14
  let y := wordAt w 1
  let s1 := x.rotateRight 19 ^^^ x.rotateRight 61 ^^^ (x >>> 6)
  let s0 := y.rotateRight 1 ^^^ y.rotateRight 8 ^^^ (y >>> 7)
  s1 + wordAt w 9 + s0 + wordAt w 0

/-- The last n rounds of 80, over a window of sixteen message words. -/
def shaRounds : Nat → List (BitVec 64) → ShaState → ShaState
  | 0, _, x => x
  | n + 1, w, x => shaRounds n (w.tail ++ [shaNext w]) (x.round (shaK (79 - n)) (wordAt w 0))

/-- The big-endian 64-bit words of a block. -/
def shaWords (block : List Byte) : List (BitVec 64) :=
  (List.range 16).map fun i => BitVec.ofNat 64 (beNat (slice block (8 * i) 8))

/-- Take one 128-byte block into the state. -/
def ShaState.block (x : ShaState) (block : List Byte) : ShaState :=
  let y := shaRounds 80 (shaWords block) x
  { a := x.a + y.a, b := x.b + y.b, c := x.c + y.c, d := x.d + y.d
    e := x.e + y.e, f := x.f + y.f, g := x.g + y.g, h := x.h + y.h }

/-- Take n blocks. -/
def shaBlocks : Nat → List Byte → ShaState → ShaState
  | 0, _, x => x
  | n + 1, bs, x => shaBlocks n (bs.drop 128) (x.block (bs.take 128))

/-- The padded message: a one bit, zeros, and the bit length in 16 octets. -/
def shaPad (bs : List Byte) : List Byte :=
  let n := bs.length
  bs ++ [0x80] ++ List.replicate ((239 - n % 128) % 128) 0 ++ beBytes 16 (8 * n)

/-- SHA-384: the first six words of the state, as 48 octets. -/
def sha384 (bs : List Byte) : List Byte :=
  let m := shaPad bs
  let x := shaBlocks (m.length / 128) m .init
  [x.a, x.b, x.c, x.d, x.e, x.f].flatMap fun v => beBytes 8 v.toNat

/-! ## ECDSA P-384 -/

/-- The field prime p of P-384. -/
def p384 : Nat := 2 ^ 384 - 2 ^ 128 - 2 ^ 96 + 2 ^ 32 - 1

/-- The group order n. -/
def p384n : Nat :=
  0xffffffffffffffffffffffffffffffffffffffffffffffffc7634d81f4372ddf581a0db248b0a77aecec196accc52973

/-- The coefficient b; a is −3. -/
def p384b : Nat :=
  0xb3312fa7e23ee7e4988e056be3f82d19181d9c6efe8141120314088f5013875ac656398d8a2ed19d2a85c8edd3ec2aef

/-- The base point. -/
def p384g : Nat × Nat :=
  (0xaa87ca22be8b05378eb1c71ef320ad746e1d3b628ba79b9859f741e082542a385502f25dbf55296c3a545e3872760ab7,
   0x3617de4a96262c6f5d9e98bf9292dc29f8f41dbd289a147ce9da3113b5f0b8c00a60b1ce1d7e819d7a431d7c90ea0e5f)

/-- a ^ e mod m, over the low `fuel` bits of e. -/
def powMod (m a : Nat) : Nat → Nat → Nat
  | 0, _ => 1 % m
  | fuel + 1, e =>
    let h := powMod m (a * a % m) fuel (e / 2)
    if e % 2 = 1 then a * h % m else h

/-- The inverse modulo a 384-bit prime. -/
def invMod (m a : Nat) : Nat := powMod m (a % m) 384 (m - 2)

/-- The point (x, y) satisfies the curve equation modulo p. -/
def onCurve (x y : Nat) : Bool := y * y % p384 == (x * x * x + (p384 - 3) * x + p384b) % p384

/-- Point addition; `none` is the point at infinity. -/
def pointAdd : Option (Nat × Nat) → Option (Nat × Nat) → Option (Nat × Nat)
  | none, q => q
  | p, none => p
  | some (x1, y1), some (x2, y2) =>
    if x1 = x2 ∧ (y1 + y2) % p384 = 0 then none
    else
      let l :=
        if x1 = x2 then (3 * x1 * x1 + (p384 - 3)) * invMod p384 (2 * y1) % p384
        else (y2 + p384 - y1) * invMod p384 (x2 + p384 - x1) % p384
      let x3 := (l * l + 2 * p384 - x1 - x2) % p384
      some (x3, (l * (x1 + p384 - x3) + p384 - y1) % p384)

/-- k times a point, over the low `fuel` bits of k. -/
def pointMul : Nat → Nat → Option (Nat × Nat) → Option (Nat × Nat)
  | 0, _, _ => none
  | fuel + 1, k, q =>
    let h := pointMul fuel (k / 2) (pointAdd q q)
    if k % 2 = 1 then pointAdd q h else h

/-- The verification equation of ECDSA for a hash value e, 1 ≤ r, s < n and a valid key (R39). -/
def ecdsaHolds (x y r sv e : Nat) : Bool :=
  let w := invMod p384n sv
  let u1 := e * w % p384n
  let u2 := r * w % p384n
  match pointAdd (pointMul 384 u1 (some p384g)) (pointMul 384 u2 (some (x, y))) with
  | some (px, _) => px % p384n == r
  | none => false

end Sys2Proof.Machine
end

