-- ==== Sys2Proof/Machine/Errors.lean ====
section
/-! DEFINITION. Detected errors and what they stop (20 R450 to R456, 15 Table 15.8, 14 R342). -/

namespace Sys2Proof.Machine

/-- Answer whoever asked for an operation of Orlys: an item completes, a Kyvel command is answered. -/
def State.answer (s : State) (a : Asker) (code : Nat) (st : Status) (r0 r1 : Nat) : State :=
  match a with
  | .item p k => s.finishService p k st r0 r1
  | .kyvel tr => s.send (.kyvel tr code st (leBytes 4 r0 ++ leBytes 4 r1))
  | .nobody => s

/-- An item that executes ends UNCORRECTABLE, its passes stopped and its side effects as its chapter says; windows that an
ingest item has dispatched run to their end (06 Table 6.10). -/
def State.endUncorrectable (s : State) (p : Port) (i : Item) : State :=
  if i.executing then
    ((s.stopItem p i).finish p i.key .uncorrectable 0 0).updItem p i.key fun j => { j with
      cont := none, stepsLeft := if j.isIngest then j.openWindows else 0 }
  else s

/-- The item runs on unit u: it is in service there, a pass of it runs on the tile, or it is served by all gather engines. -/
def State.usesUnit (s : State) (p : Port) (i : Item) (u : UnitId) : Bool :=
  (i.st == .inService && ((i.unit == some u) || (u.ty == .gather && i.unit.any (·.ty == .gather)))) ||
  (u.ty == .tile && (s.tiles[tix u.idx]).run.any fun r => r.work.port == p && r.work.key == i.key)

/-- A tile that failed ends the pass in progress; the passes queued on it stay in their order until the tile runs again
(Table 15.8: a pass is bound to its tile, so that is its place while it is READY; log 86). -/
def State.clearTile (s : State) (t : Tile) : State :=
  let ws := s.tiles[t].run.toList.map (·.work)
  ws.foldl (fun a w => (a.updPart w.port (·.dropWaiting fun z => z.beat && z.tile == t.val)).updItem w.port w.key
    (·.passOver w t.val)) (s.updTile t ({ · with run := none }))

/-- A unit's logic or memory failed: QUEUED items on it return to READY at their place in admission order, items in service
on it end UNCORRECTABLE (Table 15.8, Table 20.2). -/
def State.unitStops (s : State) (u : UnitId) (requeue : Bool) : State :=
  let s1 := (List.finRange 6).foldl (fun a p =>
    a.ports[p].items.foldl (fun b i =>
      if i.st == .queued && (i.unit == some u || (u.ty == .gather && i.unit.any (·.ty == .gather))) && requeue then
        b.updItem p i.key ({ · with st := .waiting, unit := none })
      else if i.executing && a.usesUnit p i u then b.endUncorrectable p i
      else b) a) s
  if u.ty == .tile then s1.clearTile (tix u.idx) else s1

/-- Partitions with an item on a unit. -/
def State.affected (s : State) (u : UnitId) : List Port :=
  (List.finRange 6).filter fun p => s.ports[p].items.any fun i => i.executing && s.usesUnit p i u

/-- A unit turns FAULTED by a fault-summary bit and its users end; ERROR_CONTAINED (R452, R450). -/
def State.unitFault (s : State) (u : UnitId) (bit loc : Nat) : State :=
  let who := s.affected u
  ((s.unitStops u (faultsUnit bit)).setFault u bit).contained u bit loc who

/-- A corrected error of a unit (R450, R452 bit 1, R472): data delivered correct, ERROR_CORRECTED, CE_LIMIT at the 1,024th.
Errors that follow one another at one granule count once (R455; log 112); while a self-test runs the bit is left to its result
(Table 20.8). -/
def State.corrected (s : State) (u : UnitId) (cause loc : Nat) (granule : Option Nat) (affected : List Port) : State :=
  let w := s.ledgerWord u
  let n := if granule.isSome && granule == w.ceLast then w.ceCount else w.ceCount + 1
  let s1 := s.ledgerMod u fun w => { w with
    ceCount := n, ceLast := granule, ceSeen := w.ceSeen + 1
    fault := if n = 1024 && w.selfTest.isNone then w.fault ||| 0x2 else w.fault }
  let dest := s1.errorTargets u affected
  s1.postEvent .errorCorrected u (cause + loc % 2 ^ 24 * 2 ^ 8) dest (dest.head?.map (·.1))
    (log := w.ceSeen == 0 || (w.ceSeen + 1) % 1024 == 0)

/-- Items of the partition that a partition-fatal error ends: those in service, but for commits still in the commit queue,
which the security engine holds. -/
def State.fatalItems (s : State) (p : Port) : List Item :=
  s.ports[p].items.filter fun i => i.executing && !s.commitWaits p i.key

/-- A partition-fatal error (R450): FAILED, items in service end UNCORRECTABLE, PARTITION_FATAL and a FATAL entry. A scrub
under way completes (Table 20.8). -/
def State.partitionFatal (s : State) (p : Port) (cause : Nat) : State :=
  let s1 := (s.fatalItems p).foldl (fun a i => a.endUncorrectable p i) s
  let scrubbing := s.parts[p].op.any (·.kind == .scrub)
  let s2 := if scrubbing then s1 else s1.updPart p ({ · with pstate := .failed, op := none })
  (s2.logMoraine 7 p.val 3 (BitVec.ofNat 64 cause)).postEvent .partitionFatal ⟨.port, p.val⟩
    (cause % 256 + p.val * 2 ^ 8) [(p, 0)] (some p)

/-- A port signals a fatal error while it is in D0 with a link (R456, 22 R504). -/
def State.signalFatal (s : State) (p : Port) : State :=
  if s.ports[p].linkUp && !s.asleepFn p 0 then s.send (.fatalAer p) else s

/-- AER_FATAL of a port: in its fault summary and in PORT_ERR (Table 20.3, Table 23.7). -/
def State.markFatal (s : State) (p : Port) : State :=
  (s.updFn p 0 fun x => { x with portErr := x.portErr ||| 0x80 }).setFault ⟨.port, p.val⟩ 9

/-- An uncorrectable AER error enters a function's status with the header and prefix of its TLP (22 R504). -/
def State.aerRecord (s : State) (p : Port) (f : Func) (e : AerError) : State :=
  let (n, s1) := s.takeFree
  s1.updFn p f fun x => { x with
    aerStatus := x.aerStatus ||| BitVec.ofNat 32 (2 ^ aerBit e), aerLog := Config.tlpLog n
    aerCorrected := if e = .poisoned then x.aerCorrected ||| 0x2000 else x.aerCorrected }

/-- Errors that the link's replay corrects (Table 22.4). -/
def aerCorrects (e : AerError) : Bool :=
  e == .receiver || e == .badTlp || e == .badDllp || e == .replayRollover || e == .replayTimeout

/-- An AER error of a function (22 R504, Table 22.4): a corrected one sets its status; an uncorrectable one is logged too, and is
signalled as fatal where its severity says so. A poisoned TLP is advisory: it also sets Advisory Non-Fatal (log 113). -/
def State.aerError (s : State) (p : Port) (f : Func) (e : AerError) : State :=
  if aerCorrects e then
    s.updFn p f fun x => { x with aerCorrected := x.aerCorrected ||| BitVec.ofNat 32 (2 ^ aerBit e) }
  else if (s.fn p f).aerSeverity &&& BitVec.ofNat 32 (2 ^ aerBit e) = 0 then s.aerRecord p f e
  else ((((s.aerRecord p f e).markFatal p).contained ⟨.port, p.val⟩ 9 0 [p])).signalFatal p

/-- A device-fatal error is signalled as Uncorrectable Internal Error on a port in D0 (R456 step 3). -/
def State.internalFatal (s : State) (p : Port) : State :=
  if s.ports[p].linkUp && !s.asleepFn p 0 then ((s.aerRecord p 0 .internal).markFatal p).signalFatal p else s

/-- A device-fatal error (R456). -/
def State.deviceFatal (s : State) (cause : Nat) : State :=
  let s1 := (List.finRange 6).foldl (fun a p =>
    ((a.ports[p].items.foldl (fun b i => b.endUncorrectable p i) a).updPart p
      ({ · with pstate := .failed, op := none })).internalFatal p) s
  let s2 := { s1 with boot := { s1.boot with fatal := true }, commitQ := [], verified := none, floorChange := none }
  let s3 := (s2.setFault ⟨.fabric, 0⟩ 13).logMoraine 7 0xFF 4 (BitVec.ofNat 64 cause)
  s3.presentPfs.foldl (fun a t =>
    a.postEvent .partitionFatal ⟨.port, t.1.val⟩ (cause % 256 + t.1.val * 2 ^ 8) [t] (some t.1)) s3

/-- Base byte of the partition's range within a stack (03 Table 3.3). -/
def State.hbmBase (s : State) (p : Port) : Nat := s.parts[p].place.elim 0 fun r => r.hbmBase * 2 ^ 30

/-- A queue pair's path fails (R299, Table 13.8): ERROR, the sticky bits of PORT_ERR with LAST_QP, ERROR_CONTAINED. -/
def State.pairFails (s : State) (p : Port) (f : Func) (n cause bit : Nat) : State :=
  if !s.hasQp p f n || ((s.qp p f n).st != .enabled && (s.qp p f n).st != .draining) then s
  else
    ((s.qpError p f n cause).updFn p f fun x => { x with
      portErr := (x.portErr &&& ~~~(0xFF00 : BitVec 64)) ||| BitVec.ofNat 64 (2 ^ bit + n * 2 ^ 8) }).contained
      ⟨.port, p.val⟩ 0xFF 0 [p]

/-- The effect of a detected error, by its class (Table 20.2). -/
def State.errorDetected (s : State) : ErrorReport → State
  | .slab t off ue =>
    if ue then
      State.slabLost { s with slabUe := (slabKey t.val off / 64) :: s.slabUe.filter (· != slabKey t.val off / 64) } t.val off
    else s.corrected ⟨.tile, t.val⟩ 0 (off / 64) (some (off / 64)) []
  | .hbm st p off ue =>
    let u : UnitId := ⟨.hbm, st.val⟩
    let loc := (s.hbmBase p + off) / 4096
    if ue then
      let key := hbmKey p st.val off / 32
      (({ s with hbmUe := key :: s.hbmUe.filter (· != key) }).setFault u 2).contained u 2 loc [p]
    else s.corrected u 2 loc (some ((s.hbmBase p + off) / 32)) []
  | .sram u ue =>
    match u.ty with
    | .cluster | .hbm | .port | .fabric => if ue then s.contained u 0 0 [] else s.corrected u 0 0 none []
    | _ => if ue then s.unitFault u 0 0 else s.corrected u 0 0 none []
  | .check u => s.unitFault u 7 0
  | .keySlot st p => ((s.setFault ⟨.hbm, st.val⟩ 11).contained ⟨.hbm, st.val⟩ 11 0 [p]).partitionFatal p 11
  | .partState p => (s.setFault ⟨.fabric, 0⟩ 13).partitionFatal p 13
  | .structureWrite p =>
    if s.parts[p].op.any (fun o => o.kind == .apply && o.phase == .writing) then s.partitionFatal p 0 else s
  | .aer p f e => s.aerError p f e
  | .cqWrite p f n => s.pairFails p f n 11 1
  | .fetch p f n => s.pairFails p f n 10 0
  | .device => s.deviceFatal 13

/-- ERROR_DETECTED (R450). -/
def execErrorDetected (e : ErrorReport) (s : State) : Host.Outcome State Fault Refusal := .next (s.errorDetected e)

end Sys2Proof.Machine
end

