-- ==== Sys2Proof/Machine/Partition.lean ====
section
/-! DEFINITION. What a partition drains for: applying an image, unloading it, scrubbing (02 R58 to R62, 03 R79 to R82, 14 R343,
R344). The floor change is in Machine/Floor.lean. -/

namespace Sys2Proof.Machine

/-! ## Stops and fences -/

/-- NIs that hold state of partition p (Table 14.11): its tile stops and its banks at the shared stops. -/
def State.partStops (s : State) (p : Port) : List Nat := (s.tilesOf p).map tileStop ++ hbmStops ++ portStops

/-- Orlys sends a message of a REQ kind of Table 14.7 on VC 3 to every NI of the partition. -/
def State.toNis (s : State) (p : Port) (kind : Nat) : State :=
  (s.partStops p).foldl (fun a d => a.send (deviceFlit 0 kind orlysStop d p.val s.deviceYX)) s

/-- Step 1 of Table 14.11. -/
def State.sendFences (s : State) (p : Port) : State := s.toNis p 0x10

/-- Step 5 of Table 14.11. -/
def State.sendUnfences (s : State) (p : Port) : State := s.toNis p 0x11

/-- Change the operation of a partition. -/
def State.updOp (s : State) (p : Port) (g : PartOp → PartOp) : State := s.updPart p fun x => { x with op := x.op.map g }

/-- The partition's operation is of this kind in this phase. -/
def State.opIs (s : State) (p : Port) (k : OpKind) (ph : OpPhase) : Bool :=
  s.parts[p].op.any fun o => o.kind == k && o.phase == ph

/-- FENCE(p) is on its way: an apply or an unload fences (R59 step 3, R62). -/
def State.fencing (s : State) (p : Port) : Bool := s.parts[p].op.any fun o => o.phase == .fencing

/-- FENCE (R343): the NI stops granting sends of the partition. -/
def State.fence (s : State) (p : Port) (stop : Nat) : State :=
  if s.fencing p && (s.partStops p).contains stop && !s.parts[p].fenced.contains stop then
    s.updPart p fun x => { x with fenced := x.fenced ++ [stop] }
  else s

def execFence (p : Port) (stop : Stop) (s : State) : Host.Outcome State Fault Refusal := .next (s.fence p stop.val)

/-- Every counter of the partition at a stop is at its quota and every response slot free (Table 14.11, step 3). -/
def Partition.quiet (x : Partition) (stop : Nat) : Bool :=
  x.quota.all fun q => !(q.src == stop) || (q.taken == 0 && q.slots == 0)

/-- Reservation counters of an image's QUOTA records, all free (R337). -/
def quotaOf (im : PartImage) : List QuotaUse :=
  im.quotas.map fun q =>
    { src := q.src, dst := q.dst, network := q.network, vc := q.vc, req := q.req, rsp := q.rsp, taken := 0, slots := 0 }

/-- A route crosses a link. -/
def Route.crosses (r : Route) (l : Link) : Bool := r.network == netCode l.net && r.ride.1.contains (l.stop.val, l.dir.val)

/-- A partition whose route crosses a fenced link: its NIs are fenced, its reservations reset, its state FAILED (R342). -/
def State.linkLost (s : State) (p : Port) : State :=
  (s.updPart p fun x => { x with
    waiting := [], flight := [], fenced := s.partStops p
    quota := x.quota.map fun u => { u with taken := 0, slots := 0 } }).partitionFatal p 4

/-- Step 4 of Table 14.11, once every NI has acknowledged: route tables, quotas and counters of the partition are written.
Routes that cross a link fenced since they were checked fail the partition (R342). -/
def State.fenceDone (s : State) (p : Port) : State :=
  match s.parts[p].op with
  | none => s
  | some o =>
    if (s.partStops p).all o.acks.contains then
      let rs := o.image.elim [] (·.routes)
      let s1 := (s.updPart p ({ · with routes := rs, quota := o.image.elim [] quotaOf })).updOp p
        ({ · with phase := if o.kind == .apply then .writing else .zeroing })
      if rs.any fun r => s.linksFenced.any r.crosses then s1.linkLost p else s1
    else s

/-- FENCE_ACK (R343): an NI at rest returns it on RSP VC 3; after all of them, Orlys writes routes, quotas and counters. -/
def State.fenceAck (s : State) (p : Port) (stop : Nat) : State :=
  if s.fencing p && s.parts[p].fenced.contains stop && s.parts[p].quiet stop && !s.power.tripped then
    if s.parts[p].op.any fun o => o.acks.contains stop then s
    else
      ((s.send (deviceFlit 1 0x90 stop orlysStop p.val s.deviceYX)).updOp p
        fun o => { o with acks := o.acks ++ [stop] }).fenceDone p
  else s

def execFenceAck (p : Port) (stop : Stop) (s : State) : Host.Outcome State Fault Refusal := .next (s.fenceAck p stop.val)

/-- UNFENCE (R343): the NI grants again, once Orlys has sent it: no fence of the partition is under way. -/
def State.unfence (s : State) (p : Port) (stop : Nat) : State :=
  if s.parts[p].op.isNone && s.parts[p].pstate != .failed then
    s.updPart p fun x => { x with fenced := x.fenced.filter (· != stop) }
  else s

def execUnfence (p : Port) (stop : Stop) (s : State) : Host.Outcome State Fault Refusal := .next (s.unfence p stop.val)

/-! ## Draining -/

/-- A scoreboard entry of the partition remains (15 R352). -/
def State.entriesLeft (s : State) (p : Port) : Bool := s.ports[p].items.any (·.seq.isSome)

/-- End every admitted item ABORTED (R59 step 2, R79 step 1). -/
def State.abortAdmitted (s : State) (p : Port) : State :=
  (s.ports[p].items.filter fun i => i.seq.isSome && !i.orphan).foldl (fun a i => a.abortAny p i) s

/-- Begin an operation with its drain. -/
def State.startOp (s : State) (p : Port) (o : PartOp) : State :=
  let s1 := s.updPart p ({ · with op := some o })
  if o.abortInFlight then s1.abortAdmitted p else s1

/-- Class of port p in the floor change that has started. -/
def State.floorClass (s : State) (p : Port) : FloorClass :=
  match s.floorChange with
  | some f => if f.started then f.classes[p] else .none
  | none => .none

/-- Step 1 of Table 3.7 holds for the partition: a floor change that drains it has started (R88). -/
def State.floorHolds (s : State) (p : Port) : Bool := s.floorClass p == .budget || s.floorClass p == .scrub

/-- The partition drains or is held by a floor change: it refuses pipeline descriptors with NOT_READY (R59, R79, R88). -/
def State.refusing (s : State) (p : Port) : Bool := s.parts[p].op.isSome || s.floorHolds p

/-- Zero the slabs of the partition's clusters and lose what stood in them. -/
def State.zeroSlabs (s : State) (p : Port) : State := (s.clustersOf p).foldl (fun a c => a.zeroCluster c) s

/-- The receive queues and passes of the partition's tiles are empty. -/
def State.emptyReceivers (s : State) (p : Port) : State :=
  (s.tilesOf p).foldl (fun a t => a.updTile (tix t) fun x => { x with
    run := none, queue := [], rxq := Vector.replicate 4 [], staging := [], dropping := [], held := [] }) s

/-- Destroy the partition's key and make the next (R77, R79): what HBM held can be read no more, and a data unit that nothing
has written under the new key raises no ECC error (R557). -/
def State.newKey (s : State) (p : Port) : State :=
  { s.updPart p (fun x => { x with keyGen := x.keyGen + 1, streams := [] }) with
    hbm := s.hbm.clear (hbmKey p 0 0) (hbmKey p 0 0 + 2 ^ 40)
    hbmUe := s.hbmUe.filter fun u => !(hbmKey p 0 0 ≤ 32 * u && 32 * u < hbmKey p 0 0 + 2 ^ 40) }

/-! ## Scrub -/

/-- The scrub under way, or the one that waits for an apply, has incremented the port epoch already (Table 3.8). -/
def Partition.scrubBumped (x : Partition) : Bool :=
  x.op.any (fun o => o.kind == .scrub && o.bumped) || x.scrubNext == some true

/-- A scrub trigger (R82, R91): one scrub for triggers that meet, with one increment of the epoch; it waits for an apply; it
takes over any other drain. `bumped` says that the trigger itself incremented the epoch. -/
def State.startScrub (s : State) (p : Port) (bumped : Bool) (asker : Asker) : State :=
  if s.parts[p].place.isNone then s
  else
    let s0 := s.updPart p fun x => { x with scrubAskers := x.scrubAskers ++ [asker] }
    if s.parts[p].op.any (·.kind == .scrub) then s0.updOp p fun o => { o with bumped := o.bumped || bumped }
    else if s.parts[p].op.any (·.kind == .apply) then
      s0.updPart p fun x => { x with scrubNext := some (bumped || x.scrubNext == some true) }
    else
      s0.startOp p { kind := .scrub, phase := .draining, abortInFlight := true, image := none, asker := .nobody, acks := [],
                     bumped := bumped }

/-- The scrub that waited for an apply begins (Table 3.8). -/
def State.scrubAfter (s : State) (p : Port) : State :=
  match s.parts[p].scrubNext with
  | none => s
  | some b => (s.updPart p ({ · with scrubNext := none })).startOp p
      { kind := .scrub, phase := .draining, abortInFlight := true, image := none, asker := .nobody, acks := [], bumped := b }

/-- The floor owner's commit item goes on past a scrub of its own partition: its completion is still posted (Table 3.8). -/
def State.spareFloorOwner (s : State) (p : Port) : State :=
  match s.floorChange with
  | some c =>
    match c.commit.asker with
    | .item q k => if q = p then s.updItem p k ({ · with orphan := false }) else s
    | _ => s
  | none => s

/-- Steps 2 to 5 of R79 begin: the session is discarded, the epochs increment, the key is destroyed, the clusters that are not
OFF are woken to be zeroed. -/
def State.scrubDrained (s : State) (p : Port) (bumped : Bool) : State :=
  let s1 := if bumped then s.dropSession p else (s.bumpEpoch p (List.finRange 16)).spareFloorOwner p
  let s2 := s1.newKey p
  let awake := (s.clustersOf p).filter fun c => s.clusterOper c.val != .off
  (awake.foldl (fun a c => a.startThaw c true) s2).updOp p ({ · with phase := .zeroing, bumped := true })

/-- PARTITION_DRAINED (15 R352, R59, R62, R79, R88): the drain has ended and the operation goes on. -/
def State.partitionDrained (s : State) (p : Port) : State :=
  match s.parts[p].op with
  | none => s
  | some o =>
    if o.phase != .draining || s.entriesLeft p || s.power.tripped then s
    else
      match o.kind with
      | .apply => (((s.closeAll p).thawPartition p true).updOp p ({ · with phase := .fencing, acks := [] })).sendFences p
      | .unload => ((s.thawPartition p true).updOp p ({ · with phase := .fencing, acks := [] })).sendFences p
      | .scrub => s.scrubDrained p o.bumped
      | .budget => s.updOp p ({ · with phase := .done })

def execPartitionDrained (p : Port) (s : State) : Host.Outcome State Fault Refusal := .next (s.partitionDrained p)

/-! ## Point of no return -/

/-- Discard a loader's session. -/
def State.dropLoader (s : State) (ld : Loader) : State :=
  match ld with
  | .port p => s.dropSession p
  | .mgmt => ({ s with mgmtSession := none }).dropCommit .mgmt

/-- The loader of a commit. -/
def Commit.loader (c : Commit) : Loader :=
  match c.kind with
  | .session ld => ld
  | .firmware _ => .mgmt

/-- IMAGE_STATE when a loader's session state changes: to its PF. That of a floor carries unit FABRIC 0 (13 R318), which the
management queue takes too (18 R412). -/
def State.postLoader (s : State) (ld : Loader) (floor : Bool) (sub : Nat) : State :=
  match ld with
  | .port p =>
    if floor then
      s.postEvent .imageState ⟨.fabric, 0⟩
        (s.parts[p].pstate.code + (s.parts[p].session.elim 0 fun z => z.st.code) * 2 ^ 4 + sub * 2 ^ 8) [(p, 0)] (some p)
    else s.postImageState p sub
  | .mgmt =>
    s.postEvent .imageState ⟨.fabric, 0⟩ ((s.mgmtSession.elim 0 fun z => z.st.code) * 2 ^ 4 + sub * 2 ^ 8) [] none

/-- Code of FLOOR_COMMIT (Table 18.3). -/
def kyFloorCommit : Nat := 0x12

/-- Results of a commit: the image version (Table 2.18). -/
def State.answerVersion (s : State) (a : Asker) (v : BitVec 64) : State :=
  s.answer a kyFloorCommit .ok (v.toNat % 2 ^ 32) (v.toNat / 2 ^ 32)

/-- A floor change is accepted from a port's PF only while its link is up and it is in D0 (03 R68). -/
def State.floorHeard (s : State) (ld : Loader) : Bool :=
  match ld with
  | .port p => s.ports[p].linkUp && !s.asleepFn p 0
  | .mgmt => true

/-- POINT_OF_NO_RETURN (R58, R59 step 1, R63): a VERIFY_ONLY commit completes; a PART image makes its partition APPLYING and
its drain begins, once no other operation of the partition is under way; a FLOOR image waits for FLOOR_APPLY. The session
ends. -/
def State.pointOfNoReturn (s : State) : State :=
  match s.verified with
  | none => s
  | some (.part p im c) =>
    if c.verifyOnly then ((s.dropLoader c.loader).postLoader c.loader false 0).answerVersion c.asker im.version
    else if s.refusing p then s
    else
      let s1 := (s.dropLoader c.loader).updPart p ({ · with pstate := .applying })
      (s1.startOp p { kind := .apply, phase := .draining, abortInFlight := c.abortInFlight, image := some im, asker := c.asker,
                      acks := [], bumped := false }).postImageState p 0
  | some (.floor im c) =>
    if c.verifyOnly then ((s.dropLoader c.loader).postLoader c.loader true 0).answerVersion c.asker im.version
    else if s.floorChange.isSome || !s.floorHeard c.loader then s
    else
      { (s.dropLoader c.loader).postLoader c.loader true 0 with
        floorChange := some { image := im, commit := c, classes := Vector.replicate 6 .none, started := false } }

def execPointOfNoReturn (s : State) : Host.Outcome State Fault Refusal := .next s.pointOfNoReturn

/-! ## Structure write -/

/-- Write one CONST section (R44). -/
def State.writeConst (s : State) (k : ConstSec) : State :=
  ((List.range 16).filter fun c => k.clusters.getLsbD c).foldl (fun a c =>
    ((List.range 8).filter fun n => k.tileMask.getLsbD n).foldl (fun b n =>
      if k.fill then b.slabZero (8 * c + n) k.offset k.length else b.slabPut (8 * c + n) k.offset k.data) a) s

/-- Runtime descriptor of a table as a GATHER record gives it (08 R192, R197). -/
def GatherRec.fresh (r : GatherRec) : GatherRun :=
  { table := r.table, dataPage := r.dataPage, dirPage := r.dirPage, rows := r.maxRows, active := false, validA := false,
    validB := false, pause := none }

/-- Runtime descriptors after an apply: kept where the record is byte-identical to the previous one (08 R197). -/
def tablesAfter (old : Option PartImage) (gt : List GatherRun) (im : PartImage) : List GatherRun :=
  im.gathers.map fun r =>
    match old.bind fun o => o.gathers.find? (·.table == r.table), gt.find? (·.table == r.table) with
    | some q, some g => if q.raw = r.raw then g else r.fresh
    | _, _ => r.fresh

/-- The contexts of an image apply, unload or scrub (10 R242). -/
def freshContexts : Vector RimeCtx 256 := Vector.replicate 256 RimeCtx.reset

/-- The FIFO record of batch queue m in an image. -/
def queueRecord (im : PartImage) (m : Nat) : Option Fifo := im.fifos.find? fun r => r.kind == 3 && r.cls == m

/-- A batch queue across an image apply (Table 12.8, 23 R522): its watermarks follow the record, its shuffle's context is the
reset one (10 R242); a changed or missing record disables it with cause 14, its contents kept. -/
def BatchQueue.afterApply (b : BatchQueue) (old new : Option Fifo) : BatchQueue :=
  let w := new.elim (0, 0, 0) fun r => (r.wmHigh, r.wmLow, r.wmHyst)
  let b1 := { b with wmHigh := w.1, wmLow := w.2.1, wmHyst := w.2.2, ctx := b.ctx.map fun _ => RimeCtx.reset }
  let same := match old, new with
    | some o, some n => o.depth == n.depth && o.slotBytes == n.slotBytes
    | _, _ => false
  if b.enabled && !same then { b1 with enabled := false, ctrl := b.ctrl &&& ~~~1, cause := 14 } else b1

/-- Every cluster of the partition has reached RUN, or cannot. -/
def State.clustersUp (s : State) (p : Port) : Bool :=
  (s.clustersOf p).all fun c => s.clusterOper c.val == .run || (s.clusterOper c.val).down

/-- STRUCTURE_WRITE_DONE (R59 steps 4 and 5, R60, R526): structure and CONST data stand, digest and version change with the
state, the partition is unfenced, the event is posted and the completion last. A scrub that waited begins. -/
def State.structureWriteDone (s : State) (p : Port) : State :=
  match s.parts[p].op with
  | none => s
  | some o =>
    match o.image with
    | none => s
    | some im =>
      if o.kind != .apply || o.phase != .writing || !s.clustersUp p || s.power.tripped then s
      else
        let s1 := im.consts.foldl (fun a k => a.writeConst k) s
        let old := s.parts[p].image
        let queues := Vector.ofFn fun (m : Fin 64) =>
          s.parts[p].bq[m].afterApply (old.bind fun x => queueRecord x m.val) (queueRecord im m.val)
        let s2 := s1.updPart p fun x => { x with
          image := some im, replicas := [], gtab := tablesAfter old x.gtab im, ctx := freshContexts, bq := queues, digest := im.digest
          version := im.version, pstate := .loaded, op := none, passed := [] }
        let s3 := ((List.range 64).foldl (fun a m => a.evalMarks p m) s2).settle
        (((s3.sendUnfences p).postImageState p 0).answerVersion o.asker im.version).scrubAfter p

def execStructureWriteDone (p : Port) (s : State) : Host.Outcome State Fault Refusal := .next (s.structureWriteDone p)

/-! ## Unload and the end of a scrub -/

/-- IMAGE_UNLOAD (R55, R62): the version is compared, then the drain begins; a partition without an image is unloaded
alike. -/
def State.imageUnload (s : State) (p : Port) (k : Nat) : State :=
  match s.portItem p k opImageUnload with
  | none => s
  | some i =>
    let x := s.parts[p]
    let want := i.fld 16 8
    if x.pstate == .notReady then s.completeNow p k .notReady 0 0
    else if x.op.isSome || s.refusing p then s
    else if want != 2 ^ 64 - 1 && want != x.version.toNat then
      s.completeNow p k .stateStale (x.version.toNat % 2 ^ 32) (x.version.toNat / 2 ^ 32)
    else
      (s.updItem p k ({ · with st := .inService })).startOp p
        { kind := .unload, phase := .draining, abortInFlight := i.flag 5, image := none, asker := .item p k, acks := [],
          bumped := false }

def execImageUnload (p : Port) (k : Nat) (s : State) : Host.Outcome State Fault Refusal := .next (s.imageUnload p k)

/-- The partition's structure is cleared (R62): no image, contexts at their reset values, no tables; batch queues lose their
records. -/
def Partition.noImage (x : Partition) : Partition :=
  { x with
    image := none, digest := zeroDigest, version := 0, gtab := [], ctx := freshContexts, routes := [], quota := [], passed := []
    replicas := [], waiting := [], flight := []
    bq := Vector.ofFn fun (m : Fin 64) => x.bq[m].afterApply (x.image.bind fun o => queueRecord o m.val) none }

/-- IMAGE_UNLOAD's end: structure cleared, slabs zeroed, EMPTY (R62, R526). -/
def State.unloadNow (s : State) (p : Port) (sub : Nat) : State :=
  ((s.zeroSlabs p).updPart p fun x => { x.noImage with pstate := .empty, op := none }).postImageState p sub

/-- The queue pairs of a scrubbed port (R79 step 6). The pair on which the floor owner's completion is still to be posted
drains instead (log 20). -/
def State.clearPairs (s : State) (p : Port) : State :=
  s.updPort p fun q =>
    let keeps (f : Nat) (n : Nat) : Bool := q.items.any fun i => !i.orphan && i.fn.val == f && i.qp == n
    let pair (f n : Nat) (y : QueuePair) : QueuePair :=
      if keeps f n && y.st != .disabled then { y with st := .draining } else .reset
    { q with
      fifo := [], overflow := []
      fns := Vector.ofFn fun (f : Func) =>
        { q.fns[f] with
          qps := Vector.ofFn fun (n : Fin 64) => pair f.val n.val q.fns[f].qps[n]
          evq := [], evLost := 0 } }

/-- A scrub's end (R79 steps 6 and 7, 23 R523, 24 R526, R532): image, batch queues, firn halves, queue pairs and counters are
cleared and the partition is EMPTY; whoever asked is answered with the port epoch. -/
def State.scrubEnd (s : State) (p : Port) : State :=
  let askers := s.parts[p].scrubAskers
  let s1 := ((s.zeroSlabs p).emptyReceivers p).clearPairs p
  let s2 := s1.updPart p fun x => { x.noImage with
    pstate := if x.place.isSome then .empty else .notReady
    op := none, scrubAskers := [], bq := Vector.replicate 64 .reset, streams := [], imgError := 0, admSeq := 0
    cnt := Vector.replicate 37 0, waiting := [], flight := [], fenced := [] }
  let s3 := (s2.updateLtr p).postImageState p 0
  askers.foldl (fun a k =>
    match k with
    | .kyvel tr => a.send (.kyvel tr 0x04 .ok (leBytes 4 (a.fn p 0).epoch.toNat))
    | _ => a) s3

/-- SLAB_ZEROING_DONE (R62, R79): the zeroing of an unload or a scrub ends. -/
def State.slabZeroingDone (s : State) (p : Port) : State :=
  match s.parts[p].op with
  | none => s
  | some o =>
    if o.phase != .zeroing || (s.clustersOf p).any (fun c => s.clusters[c].thawing.isSome) || s.power.tripped then s
    else if o.kind == .scrub then s.scrubEnd p
    else if o.kind == .unload then
      let v := s.parts[p].version
      ((s.unloadNow p 0).sendUnfences p).answerVersion o.asker v
    else s

def execSlabZeroingDone (p : Port) (s : State) : Host.Outcome State Fault Refusal := .next (s.slabZeroingDone p)

end Sys2Proof.Machine
end

