-- ==== Sys2Proof/Machine/StageWord.lean ====
section
/-! DEFINITION. The stage word: its fields (04 Table 4.2), formats (Table 4.3), operations with their formats, slot costs and
use of IMM (Table 4.7). -/

namespace Sys2Proof.Machine

/-- Operations of Table 4.7. -/
inductive WOp where
  | nop | add | sub | mul | mulhi | min | max | abs | neg | avg | div | mac
  | fadd | fsub | fmul | fma | fmin | fmax | fabs | fneg | fdiv | fsqrt | frsqrt | fexp | flog
  | eq | ne | lt | le | gt | ge | isnan | pand | por | pxor | pnot
  | and | or | xor | not | andn | popcnt | clz | shl | shr | sar | rotl | rotr
  | cvt | crc32c | khash | hash32 | hmod | bkt | normz | clamp | nlog1p
  | direct | probe | probeNext | build | mov | sel | bcast | iota | perm | compact
  | rsum | rmin | rmax | rcount | rbits | runif
  deriving DecidableEq, Repr

/-- How an operation uses IMM (Table 4.7, column IMM). -/
inductive ImmUse where
  | zero | operandB | conversion | bucket | constant | table | probe | lane | draw
  deriving DecidableEq, Repr

/-- The fields of a stage word (Table 4.2). -/
structure SWord where
  cls : Nat
  op : Nat
  fmt : Nat
  srcA : Nat
  srcB : Nat
  dst : Nat
  imm : Nat
  pred : Nat
  rnd : Nat
  flags : Nat
  deriving DecidableEq, Repr

/-- Take a stage word apart (R93). -/
def SWord.of (w : BitVec 64) : SWord :=
  let v := w.toNat
  { cls := bitsOf v 58 6, op := bitsOf v 52 6, fmt := bitsOf v 48 4, srcA := bitsOf v 42 6, srcB := bitsOf v 36 6
    dst := bitsOf v 30 6, imm := bitsOf v 16 14, pred := bitsOf v 12 4, rnd := bitsOf v 8 4, flags := bitsOf v 0 8 }

def SWord.sat (w : SWord) : Bool := w.flags % 2 = 1
def SWord.immB (w : SWord) : Bool := bitsOf w.flags 1 1 = 1
def SWord.constB (w : SWord) : Bool := bitsOf w.flags 2 1 = 1
/-- RND is STOCHASTIC. -/
def SWord.stochastic (w : SWord) : Bool := w.rnd = 4

/-- Operations by class and code (Table 4.7). -/
def opTable : Nat → List WOp
  | 0x00 => [.nop]
  | 0x01 => [.add, .sub, .mul, .mulhi, .min, .max, .abs, .neg, .avg, .div, .mac]
  | 0x02 => [.fadd, .fsub, .fmul, .fma, .fmin, .fmax, .fabs, .fneg, .fdiv, .fsqrt, .frsqrt, .fexp, .flog]
  | 0x04 => [.and, .or, .xor, .not, .andn, .popcnt, .clz]
  | 0x05 => [.shl, .shr, .sar, .rotl, .rotr]
  | 0x06 => [.cvt]
  | 0x07 => [.crc32c, .khash, .hash32, .hmod]
  | 0x08 => [.bkt]
  | 0x09 => [.normz, .clamp, .nlog1p]
  | 0x0A => [.direct, .probe, .probeNext, .build]
  | 0x0B => [.mov, .sel, .bcast, .iota, .perm]
  | 0x0C => [.compact]
  | 0x0D => [.rsum, .rmin, .rmax, .rcount]
  | 0x0E => [.rbits, .runif]
  | _ => []

/-- The operation that a CLASS and OP pair names, if any (R111); class 0x03 has a gap at 0x07. -/
def opOf (cls op : Nat) : Option WOp :=
  if cls = 0x03 then
    if op < 7 then [WOp.eq, .ne, .lt, .le, .gt, .ge, .isnan][op]?
    else if 8 ≤ op then [WOp.pand, .por, .pxor, .pnot][op - 8]?
    else none
  else (opTable cls)[op]?

/-- The word's operation. -/
def SWord.wop (w : SWord) : Option WOp := opOf w.cls w.op

/-! ## Formats (Table 4.3) -/

def isIntFmt (f : Nat) : Bool := f ≤ 7
def isFloatFmt (f : Nat) : Bool := f == 8 || f == 9 || f == 10
def isK64 (f : Nat) : Bool := f == 11
/-- Signed integer formats. -/
def isSignedFmt (f : Nat) : Bool := f ≤ 7 && f % 2 = 0
/-- Elements per vector. -/
def fmtVl (f : Nat) : Nat := 8192 / fmtBits f

/-- Formats an operation takes (Table 4.7). -/
def WOp.takes (o : WOp) (f : Nat) : Bool :=
  match o with
  | .nop | .pand | .por | .pxor | .pnot | .rcount => f == 0
  | .add | .sub | .min | .max | .popcnt | .clz | .shl | .shr | .rotl | .rotr | .rbits => isIntFmt f || isK64 f
  | .mul | .mulhi | .avg | .div | .mac | .iota => isIntFmt f
  | .abs | .neg | .sar => isSignedFmt f
  | .fadd | .fsub | .fmul | .fma | .fmin | .fmax | .fabs | .fneg | .fdiv | .fsqrt | .frsqrt | .fexp | .flog | .isnan
  | .normz | .nlog1p => isFloatFmt f
  | .eq | .ne | .lt | .le | .gt | .ge | .and | .or | .xor | .not | .andn | .cvt | .mov | .sel | .bcast | .perm | .compact =>
    f ≤ 11
  | .crc32c => f == 7 || f == 11
  | .khash | .probe | .probeNext | .build => f == 11
  | .hash32 => f == 6 || f == 7
  | .hmod => f == 7
  | .bkt => 4 ≤ f && f ≤ 10
  | .clamp | .direct | .rsum | .rmin | .rmax => f ≤ 10
  | .runif => f == 10

/-- 32-bit integer formats. -/
def isInt32 (f : Nat) : Bool := f == 6 || f == 7

/-- Slot cost without STOCHASTIC (Table 4.7). -/
def WOp.cost (o : WOp) (f : Nat) : Nat :=
  match o with
  | .mul | .mulhi | .mac => if isInt32 f then 2 else 1
  | .fma => if f = 10 then 2 else 1
  | .div | .fdiv | .fsqrt | .frsqrt | .probe | .probeNext | .build => 4
  | .fexp | .flog | .nlog1p => 6
  | .crc32c | .bkt | .perm | .rsum | .rmin | .rmax | .direct => 2
  | .khash | .hash32 | .rbits | .runif => 3
  | _ => 1

/-- Use of IMM (Table 4.7). -/
def WOp.immUse : WOp → ImmUse
  | .add | .sub | .mul | .mulhi | .min | .max | .avg | .div | .mac | .fadd | .fsub | .fmul | .fma | .fmin | .fmax | .fdiv
  | .eq | .ne | .lt | .le | .gt | .ge | .and | .or | .xor | .not | .andn | .shl | .shr | .sar | .rotl | .rotr | .crc32c
  | .khash | .hash32 | .hmod | .sel => .operandB
  | .cvt => .conversion
  | .bkt => .bucket
  | .normz | .clamp => .constant
  | .direct | .build => .table
  | .probe | .probeNext => .probe
  | .bcast => .lane
  | .rbits | .runif => .draw
  | _ => .zero

/-- Operations that may round otherwise than RNE (R108). -/
def WOp.rounds : WOp → Bool
  | .fadd | .fsub | .fmul | .fma | .fdiv | .fsqrt | .frsqrt | .fexp | .flog | .cvt | .normz | .clamp | .nlog1p => true
  | _ => false

/-- Operations whose DST is a mask (Table 4.2). -/
def WOp.writesMask : WOp → Bool
  | .eq | .ne | .lt | .le | .gt | .ge | .isnan | .pand | .por | .pxor | .pnot => true
  | _ => false

/-- Predicate-logic operations. -/
def WOp.maskLogic : WOp → Bool
  | .pand | .por | .pxor | .pnot => true
  | _ => false

/-- Slot cost of a word (R108). -/
def SWord.cost (w : SWord) : Nat := (w.wop.elim 1 fun o => o.cost w.fmt) + w.stochastic.toNat

/-- Source format and part of a CVT (R114). -/
def SWord.cvtSrc (w : SWord) : Nat := w.imm % 16
def SWord.cvtPart (w : SWord) : Nat := bitsOf w.imm 4 3

/-- A narrowing CVT. -/
def SWord.narrows (w : SWord) : Bool := w.wop == some .cvt && fmtBits w.fmt < fmtBits w.cvtSrc

/-- The word takes an operand from SRC_A. -/
def WOp.usesA : WOp → Bool
  | .nop | .iota | .rcount | .rbits | .runif => false
  | _ => true

/-- The word takes an operand from SRC_B: operand B that no flag replaces, a skip count, a payload, lane numbers. -/
def SWord.usesB (w : SWord) : Bool :=
  match w.wop with
  | some o =>
    (o.immUse == .operandB && !w.immB && !w.constB) || o == .probe || o == .build || o == .perm || o == .pand || o == .por ||
      o == .pxor
  | none => false

/-- The word reads a register before it writes it (R117): as an operand that its operation takes (log 91), or as a destination
whose earlier contents its result combines. -/
def SWord.readsReg (w : SWord) (r : Nat) : Bool :=
  match w.wop with
  | none => false
  | some o =>
    if o == .nop then false
    else
      let combines : Bool :=
        o == .mac || o == .fma || w.narrows || o == .rsum || o == .rmin || o == .rmax || o == .rcount ||
          (w.pred != 0 && o != .sel && o != .compact)
      (!o.maskLogic && ((o.usesA && w.srcA == r) || (w.usesB && w.srcB == r))) || (!o.writesMask && w.dst == r && combines)

end Sys2Proof.Machine
end

