-- ==== Sys2Proof/Machine/ImageCheck.lean ====
section
/-! DEFINITION. The verification checks of Table 2.20 that read an image's bytes: placement, digest, signature, key, reserved
fields, sections and stage words (02 R31 to R48, R55, R556; 04 R103 to R120; 12 R269; 11 R258; 08 R187). -/

namespace Sys2Proof.Machine

/-- A failed check: sub-code, section index, image byte offset (Table 2.18). -/
structure ImgFail where
  sub : Nat
  sec : Nat
  off : Nat
  deriving DecidableEq, Repr

/-- A place at which a check fails; `rank` is the record index plus 1, 0 for none. -/
structure Viol where
  sec : Nat
  rank : Nat
  off : Nat
  deriving DecidableEq, Repr

/-- Lowest section index, then lowest record index, then lowest byte offset (R55). -/
def Viol.before (a b : Viol) : Bool :=
  a.sec < b.sec || (a.sec == b.sec && (a.rank < b.rank || (a.rank == b.rank && a.off < b.off)))

/-- The first of some violations (R55). -/
def firstViol : List Viol → Option Viol
  | [] => none
  | v :: vs =>
    match firstViol vs with
    | none => some v
    | some w => if w.before v then some w else some v

/-- What a check reports. -/
def reported (sub : Nat) (vs : List Viol) : Option ImgFail :=
  (firstViol vs).map fun v => { sub := sub, sec := v.sec, off := v.off }

/-- A violation in the header, the signature block or between parts. -/
def atHead (off : Nat) (bad : Bool) : List Viol := if bad then [{ sec := 0xFFFF, rank := 0, off := off }] else []

/-- A violation in a section-table entry. -/
def Sec.atEntry (s : Sec) (off : Nat) (bad : Bool) : List Viol :=
  if bad then [{ sec := s.idx, rank := 0, off := s.entry + off }] else []

/-- A violation in a section's header. -/
def Sec.at (s : Sec) (off : Nat) (bad : Bool) : List Viol :=
  if bad then [{ sec := s.idx, rank := 0, off := s.off + off }] else []

/-- A violation in a record. -/
def Rec.at (r : Rec) (off : Nat) (bad : Bool) : List Viol :=
  if bad then [{ sec := r.sec, rank := r.idx + 1, off := r.off + off }] else []

/-! ## Size to layout -/

/-- A size within R31. -/
def sizeOk (n : Nat) : Bool := 1024 ≤ n && n ≤ 268435456 && n % 64 == 0

/-- Ranges [a, a + n) and [b, b + m) share a byte. -/
def meets (a n b m : Nat) : Bool := a < b + m && b < a + n

/-- BAD_LAYOUT (R31, R33). -/
def layoutViols (b : List Byte) : List Viol :=
  let ss := sections b
  let tend := imgTable b + 32 * imgCount b
  let sig := imgSig b
  atHead 0x18 (imgTable b < 256 || imgTable b % 64 != 0 || sig < tend) ++
  atHead 0x20 (sig + 256 != imgTotal b) ++
  ss.flatMap fun s =>
    s.atEntry 8 (s.off % 64 != 0 || s.off < tend || sig < s.off ||
      ss.any fun t => t.idx < s.idx && meets s.off s.length t.off t.length) ++
    s.atEntry 4 (s.off ≤ sig && sig < s.off + s.length)

/-- The bytes that the digest covers (R37). -/
def digestInput (b : List Byte) : List Byte :=
  let z (n : Nat) : List Byte := List.replicate n 0
  slice b 0 0x20 ++ z 8 ++ slice b 0x28 0x38 ++ z 48 ++ slice b 0x90 (imgSig b - 0x90)

/-- The computed digest of an image (R37). -/
def digestOf (b : List Byte) : List Byte := sha384 (digestInput b)

/-- Offset within the signature block of the first failing item (R39, R556). -/
def signatureFault (b : List Byte) : Option Nat :=
  let g := slice b (imgSig b) 256
  let x := beNat (slice g 16 48)
  let y := beNat (slice g 64 48)
  let r := beNat (slice g 112 48)
  let v := beNat (slice g 160 48)
  if field g 0 4 != 0x4B534947 then some 0
  else if field g 4 2 != 1 then some 4
  else if field g 6 2 != 1 then some 6
  else if p384 ≤ x then some 16
  else if p384 ≤ y then some 64
  else if !onCurve x y then some 16
  else if r = 0 || p384n ≤ r then some 112
  else if v = 0 || p384n ≤ v then some 160
  else if !ecdsaHolds x y r v (beNat (imgDigest b)) then some 112
  else none

/-- SHA-384 of the signing key as stored (R40). -/
def keyHashOf (b : List Byte) : List Byte := sha384 (slice b (imgSig b + 16) 96)

/-! ## Reserved fields -/

/-- Bytes off to off + n − 1, every bit of each. -/
def span (off n : Nat) : List (Nat × Nat) := (List.range n).map fun i => (off + i, 0xFF)

/-- Reserved bits of a type's record, or of its header for CONST, DECODE and WARP, as (offset, mask) of bytes. -/
def reservedBits : Nat → List (Nat × Nat)
  | 1 => [(1, 0xF8)] ++ span 23 1 ++ span 36 12 ++ span 96 32
  | 2 => span 5 3 ++ [(28, 0xF0), (31, 0x78)] ++ (List.range 96).map fun i => (32 + 8 * i, 0xF8)
  | 3 => span 10 22
  | 4 => span 4 4 ++ [(15, 0xE0)]
  | 5 => span 8 8
  | 6 => [(14, 0xFE)] ++ span 15 17
  | 7 => [(3, 0xF0), (12, 0xFE)] ++ span 13 3 ++ [(19, 0x80)] ++ span 20 4 ++ span 24 8
  | 8 => span 3 1 ++ [(8, 0xF8)] ++ span 9 1 ++ span 32 32
  | 9 => span 3 1 ++ span 6 2 ++ [(26, 0x80)] ++ span 27 1 ++ [(30, 0xF8)] ++ span 31 1
  | 10 => span 7 1 ++ span 16 16
  | 11 => span 3 1 ++ span 12 4
  | _ => []

/-- PARAMS bytes reserved for a container (Table 6.3), as offsets in the DECODE header. -/
def paramsReserved : Nat → List (Nat × Nat)
  | 1 => span 12 4
  | 2 => span 16 8
  | 3 => span 21 3
  | 4 => span 12 12
  | _ => []

/-- Lowest offset at which a masked byte is not zero. -/
def maskFault (bs : List Byte) (ms : List (Nat × Nat)) : Option Nat :=
  ((ms.filter fun m => (slice bs m.1 1).any fun b => b &&& BitVec.ofNat 8 m.2 != 0).map (·.1)).min?

/-- Bits of TARGET_MASK that a type lists (Table 2.4). -/
def maskBits (ty : Nat) : Nat := if ty = tyConst || ty = tyWarp then 16 else 0

/-- The types with a 16-byte preamble (R41). -/
def hasPreamble (ty : Nat) : Bool := recordSize ty != 0

/-- Reserved bits of one section (R10). -/
def Sec.reserved (s : Sec) : List Viol :=
  let e := leBytes 2 s.flags ++ leBytes 4 s.length ++ leBytes 8 s.off ++ leBytes 8 s.mask
  let hi := if s.ty = 0 || tyPower < s.ty then none
    else (List.range 8).find? fun k => bitsOf s.mask (8 * k) 8 / 2 ^ (maskBits s.ty - 8 * k) != 0
  s.atEntry 3 (e[1]? != some 0) ++
  (hi.elim [] fun k => s.atEntry (16 + k) true) ++
  (if hasPreamble s.ty then
    ((maskFault s.body (span 8 8)).elim [] fun o => s.at o true) ++
    if field s.body 0 4 = recordSize s.ty then
      s.records.flatMap fun r => (maskFault r.bytes (reservedBits s.ty)).elim [] fun o => r.at o true
    else []
  else
    let ms := reservedBits s.ty ++ if s.ty = tyDecode then paramsReserved (field s.body 2 1) else []
    (maskFault s.body ms).elim [] fun o => s.at o true)

/-- Byte x of the image lies in no part (R33). -/
def interPart (b : List Byte) (ss : List Sec) (x : Nat) : Bool :=
  256 ≤ x && x < imgSig b && !(imgTable b ≤ x && x < imgTable b + 32 * imgCount b) &&
  ss.all fun s => !(s.off ≤ x && x < s.off + s.length)

/-- RESERVED_NONZERO. -/
def reservedViols (b : List Byte) : List Viol :=
  let ss := sections b
  let head := maskFault b (span 0x0C 4 ++ span 0x30 48 ++ span 0x90 112)
  let sig := (maskFault (slice b (imgSig b) 256) (span 8 8 ++ span 208 48)).map (imgSig b + ·)
  let gap := ((b.take (imgSig b)).zipIdx.find? fun x => x.1 != 0 && interPart b ss x.2).map (·.2)
  let tail (s : Sec) : List Viol := (maskFault b (span (s.entry + 28) 4)).elim [] fun o => s.atEntry (o - s.entry) true
  (head.elim [] fun o => atHead o true) ++ (gap.elim [] fun o => atHead o true) ++ (sig.elim [] fun o => atHead o true) ++
    ss.flatMap fun s => s.reserved ++ tail s

/-! ## Sections -/

/-- Types that an image of a kind holds, those it must hold, and those it holds once (Table 2.4). -/
def allowedTypes (kind : Nat) : List Nat := if kind = 1 then [1] else [2, 3, 4, 5, 6, 7, 8, 9, 10, 11]
def requiredTypes (kind : Nat) : List Nat := if kind = 1 then [1] else [4, 5, 7, 11]
def singleTypes : List Nat := [1, 4, 5, 6, 7, 9, 11]

/-- BAD_SECTION. A type that is missing has no place in the image; a type that comes twice is reported at TYPE of the later
entry (log 77). -/
def sectionViols (b : List Byte) : List Viol :=
  let ss := sections b
  let k := imgKind b
  atHead 0xFFFFFFFF ((requiredTypes k).any fun t => (secsOf ss t).isEmpty) ++
  ss.flatMap fun s =>
    s.atEntry 0 (!(allowedTypes k).contains s.ty ||
      (singleTypes.contains s.ty && ss.any fun t => t.idx < s.idx && t.ty == s.ty)) ++
    s.atEntry 2 (s.flags % 256 != 1)

/-- SECTION_CRC. -/
def crcViols (b : List Byte) : List Viol := (sections b).flatMap fun s => s.atEntry 24 ((crc32c s.body).toNat != s.crc)

/-- The LENGTH that a section's own header fixes, if its header is there (R41, R44, R47, R48). -/
def Sec.wantLength (s : Sec) : Option Nat :=
  match s.ty with
  | 3 =>
    if s.length < 32 then none
    else if field s.body 9 1 = 0 then some (32 + field s.body 4 4) else if field s.body 9 1 = 1 then some 32 else some s.length
  | 8 => if s.length < 64 then none else some (64 + 8 * field s.body 6 2)
  | 10 => if s.length < 32 then none else some (32 + 8 * field s.body 2 2 * field s.body 4 2)
  | _ => if s.length < 16 then none else some (16 + field s.body 0 4 * field s.body 4 4)

/-- SECTION_LENGTH. -/
def lengthViols (b : List Byte) : List Viol :=
  (sections b).flatMap fun s =>
    if s.ty = tyPlace && field s.body 0 4 = 128 && field s.body 4 4 != 6 then s.at 4 true
    else
      s.atEntry 4 (s.wantLength != some s.length || (s.ty == tyWarp && 133160 < s.length)) ++
      s.at 0 (hasPreamble s.ty && field s.body 0 4 != recordSize s.ty)

/-! ## Fields: PLACE (R42, R69) -/

def placeViols (r : Rec) : List Viol :=
  let f := r.fld
  r.at 0 (f 0 1 != r.idx) ++
  if f 1 1 % 2 = 0 then
    ((List.range 127).find? fun k => (slice r.bytes (k + 1) 1) != [0]).elim [] fun k => r.at (k + 1) true
  else
    r.at 2 (f 2 1 < 2 || 4 < f 2 1) ++ r.at 3 (15 < f 3 1) ++ r.at 6 (f 6 1 = 0) ++
    r.at 7 (64 < f 6 1 + f 3 1 * f 7 1) ++ r.at 10 (f 10 2 = 0) ++ r.at 20 (2048 < f 20 2) ++ r.at 22 (64 < f 22 1) ++
    r.at 24 (f 24 4 = 0) ++ r.at 28 (f 28 4 = 0) ++ r.at 32 (1048576 < f 32 4)

/-! ## Fields: stage words (04 R93 to R120, R132) -/

/-- Elements per beat (Table 4.4); codes 5 to 7 are reserved. -/
def epbOf (passCtrl : Nat) : Nat := 2048 / 2 ^ bitsOf passCtrl 1 3

/-- The pass indexes by row. -/
def idxRow (passCtrl : Nat) : Bool := passCtrl % 2 = 1

/-- Base of the CONST binding of a pass, if it has one. -/
def constBase (bs : List Binding) : Option Nat := (bs.find? (·.kind == 6)).map fun x => bitsOf x.param 0 19 * 64

/-- Constant k lies in the constant region (Table 4.5). -/
def constOk (bs : List Binding) (k : Nat) : Bool :=
  match constBase bs with
  | some base => k ≤ 16383 && base + 8 * k + 8 ≤ slabBytes
  | none => false

/-- Largest lane index that a STOCHASTIC or RAND word processes (R110). -/
def SWord.topLane (w : SWord) : Nat :=
  match w.wop with
  | some .cvt =>
    let n := min (fmtVl w.cvtSrc) (fmtVl w.fmt)
    w.cvtPart * n + n - 1
  | _ => fmtVl w.fmt - 1

/-- Source formats, parts and K64 pairs that a CVT admits (R114). -/
def SWord.cvtOk (w : SWord) : Bool :=
  let a := fmtBits w.cvtSrc
  let d := fmtBits w.fmt
  w.imm < 128 && w.cvtSrc ≤ 11 && w.cvtPart < max a d / min a d &&
  (!isK64 w.fmt || w.cvtSrc == 6 || w.cvtSrc == 7 || w.cvtSrc == 11) && (!isK64 w.cvtSrc || w.fmt == 7 || w.fmt == 11) &&
  !(isK64 w.cvtSrc && isK64 w.fmt)

/-- IMM, SRC_B and the operand flags fit the operation (R107, Table 4.7). -/
def SWord.immOk (w : SWord) (bs : List Binding) (o : WOp) : Bool :=
  let plain := !w.immB && !w.constB
  match o.immUse with
  | .operandB =>
    if plain then w.imm == 0
    else
      !(w.immB && w.constB) && w.srcB == 0 && (!w.immB || isIntFmt w.fmt || isK64 w.fmt) && (!w.constB || constOk bs w.imm)
  | .zero => plain && w.imm == 0
  | .conversion => plain && w.cvtOk
  | .bucket | .table => plain && w.imm < 256
  | .constant => plain && constOk bs w.imm && constOk bs (w.imm + 1)
  | .probe => plain && w.imm < 2048 && (o != .probeNext || w.srcB == 0)
  | .lane | .draw => plain

/-- Mask operands and destinations (Table 4.2, R95). -/
def SWord.maskOk (w : SWord) (o : WOp) : Bool :=
  w.pred != 8 && (!o.writesMask || (1 ≤ w.dst && w.dst ≤ 7)) && (!o.maskLogic || (w.srcA ≤ 7 && w.srcB ≤ 7))

/-- A stage word on its own lies within Tables 4.2 to 4.7, R103, R108 and R110. -/
def SWord.ok (w : SWord) (bs : List Binding) (passCtrl : Nat) : Bool :=
  match w.wop with
  | none => false
  | some .nop => w == SWord.of 0
  | some o =>
    o.takes w.fmt && w.immOk bs o && w.maskOk o && w.rnd ≤ 4 && (w.rnd == 0 || o.rounds) &&
    (!(w.stochastic || o.immUse == .draw) || idxRow passCtrl || w.topLane < epbOf passCtrl)

/-- A PROBE of the table and SRC_A of a PROBE_NEXT comes before it (R132). -/
def probedBefore (before : List SWord) (w : SWord) : Bool :=
  before.any fun v => v.wop == some .probe && v.imm % 256 == w.imm % 256 && v.srcA == w.srcA

/-- Word i of a pass breaks a rule, given the words before it (R43, R117, R120, R132). SLOTS that counts on into the further
cost slots of the last operation breaks none (log 78). -/
def wordBad (p : TileProg) (i : Nat) (before : List SWord) (w : SWord) : Bool :=
  let zero := w == SWord.of 0
  let covered := (List.range i).any fun j => ((before[j]?).elim false fun v => v != SWord.of 0 && i < j + v.cost)
  let outs := p.binds.filter fun b => b.kind == 3 || b.kind == 4
  !zero && (p.slots ≤ i || covered || !w.ok p.binds p.passCtrl ||
    (w.wop == some .probeNext && !probedBefore before w) ||
    (w.wop == some .compact &&
      (outs.all (·.reg != w.dst) || 3 ≤ (before.filter (·.wop == some .compact)).length)) ||
    before.any fun v => v.wop == some .compact && w.readsReg v.dst)

/-- Lowest index of a word that breaks a rule. -/
def firstBadWord (p : TileProg) : Nat → List SWord → List SWord → Option Nat
  | _, _, [] => none
  | i, before, w :: ws => if wordBad p i before w then some i else firstBadWord p (i + 1) (before ++ [w]) ws

/-- A binding's own fields (Tables 4.4 and 4.5). -/
def bindOk (b : Binding) : Bool :=
  b.reg ≤ 63 &&
  match b.kind with
  | 0 => b.reg == 0 && b.param == 0
  | 1 | 3 | 5 => b.param < 2 ^ 19
  | 2 => b.param < 4
  | 4 => b.param < 512
  | 6 => b.reg == 0 && b.param < 2 ^ 19
  | _ => false

/-- Offset within the record of the first binding that breaks R102, R103 or R120. -/
def bindFault (p : TileProg) (filled : Nat → Bool) : Option Nat :=
  (List.range 4).findSome? fun i =>
    match p.binds[i]? with
    | none => none
    | some b =>
      let before := p.binds.take i
      if !bindOk b then some (8 + 5 * i)
      else if b.kind = 6 && before.any (·.kind == 6) then some (8 + 5 * i)
      else if (b.kind = 1 || b.kind = 2) && before.any (fun c => (c.kind == 1 || c.kind == 2) && c.reg == b.reg) then
        some (9 + 5 * i)
      else if b.kind = 4 && !filled b.param then some (10 + 5 * i)
      else none

/-- The pass sequence names a record of the same tile and pipeline (R43). -/
def nextOk (ps : List TileProg) (p : TileProg) : Bool :=
  p.nextPass == 0xFF || ps.any fun q => q.tile == p.tile && q.pipeline == p.pipeline && q.pass == p.nextPass

/-- BAD_FIELD of one TILE_PROG record; `earlier` are the records before it, `routes` those of the image. -/
def progViols (all earlier : List TileProg) (routes : List Route) (r : Rec) : List Viol :=
  let p := parseProg r.bytes
  let filled (e : Nat) : Bool := routes.any fun q => q.stop == tileStop p.tile && q.network == 3 && q.entry == e
  r.at 0 (127 < p.tile || earlier.any fun q => q.tile == p.tile && q.pass == p.pass) ++
  r.at 3 (p.slots = 0 || 96 < p.slots) ++ r.at 4 (!nextOk all p) ++
  ((bindFault p filled).elim [] fun o => r.at o true) ++
  r.at 28 (4 < bitsOf p.passCtrl 1 3) ++ r.at 29 (p.counts < 2 ^ 23 && p.counts % 2 ^ 19 != 0) ++
  ((firstBadWord p 0 [] (p.words.map SWord.of)).elim [] fun i => r.at (32 + 8 * i) true)

/-- PASS_TOO_LONG (R120). -/
def tooLongViols (r : Rec) : List Viol :=
  let ws := (parseProg r.bytes).words.map SWord.of
  ((List.range 96).find? fun i => (ws[i]?).elim false fun w => 96 < i + w.cost).elim [] fun i => r.at (32 + 8 * i) true

/-! ## Fields: the smaller records -/

def constViols (s : Sec) : List Viol :=
  let off := field s.body 0 4
  let len := field s.body 4 4
  s.at 0 (off % 64 != 0 || slabBytes < off + len) ++ s.at 4 (len % 64 != 0 || len < 64) ++ s.at 9 (1 < field s.body 9 1)

/-- A route entry breaks Table 14.8 or R333. -/
def routeBad (datVcs : Nat) (q : Route) : Bool :=
  let r := q.route
  let h := routeHops r
  let back (k : Nat) : Bool := Nat.xor (routeDir r k) (routeDir r (k + 1)) == 1
  h = 0 || 22 < h || routeDirs r / 2 ^ (2 * h) != 0 || (List.range (h - 1)).any back ||
  (match q.walk with
   | some (_, e) => e != routeDst r
   | none => true) ||
  ((q.network = 1 || q.network = 3) && q.entry < 144 && routeDst r != q.entry) ||
  ((q.network = 0 || q.network = 1) && routeVc r = 3) || (q.network = 3 && datVcs ≤ routeVc r) ||
  (routeRxq r != 0 && !(q.network = 3 && (List.range 128).any fun t => tileStop t == routeDst r))

def routeViols (datVcs : Nat) (earlier : List Rec) (r : Rec) : List Viol :=
  let q := parseRoute r.bytes
  let again := earlier.any fun x => let y := parseRoute x.bytes; y.stop == q.stop && y.network == q.network && y.entry == q.entry
  r.at 0 (143 < q.stop || again) ++ r.at 1 (3 < q.network) ++ r.at 2 (511 < q.entry || (q.network = 1 && 144 ≤ q.entry)) ++
  r.at 8 (143 < routeDst q.route || routeBad datVcs q)

def quotaViols (datVcs : Nat) (routes : List Route) (earlier : List Rec) (r : Rec) : List Viol :=
  let q := parseQuota r.bytes
  let again := earlier.any fun x =>
    let y := parseQuota x.bytes
    y.src == q.src && y.dst == q.dst && y.network == q.network && y.vc == q.vc
  let returns (n : Nat) : Bool := routes.any fun x => x.stop == q.dst && x.network == n && x.entry == q.src
  r.at 0 (143 < q.src || again) ++ r.at 1 (143 < q.dst || !returns 1 || !returns 3) ++ r.at 2 (3 < q.network || q.network = 1) ++
  r.at 3 (3 < q.vc || (q.network = 0 && q.vc = 3) || (q.network = 3 && datVcs ≤ q.vc))

def fifoViols (earlier : List Rec) (r : Rec) : List Viol :=
  let q := parseFifo r.bytes
  let batch := q.kind == 3
  r.at 0 (63 < q.cls || earlier.any fun x => (parseFifo x.bytes).cls == q.cls) ++ r.at 1 (3 < q.kind) ++
  r.at 2 (if batch then q.depth < 2 || 4096 < q.depth else q.depth < 8 || 32 < q.depth) ++
  r.at 4 (if batch then q.slotBytes % 256 != 0 || q.slotBytes < 256 else q.slotBytes != 0) ++
  r.at 8 (if batch then q.wmHigh ≤ q.wmLow || q.depth < q.wmHigh else q.wmHigh != 0) ++
  r.at 10 (!batch && q.wmLow != 0) ++
  r.at 12 (if batch then q.wmHigh ≤ q.wmHyst || q.depth ≤ q.wmLow + q.wmHyst else q.wmHyst != 0) ++
  r.at 14 (q.pins && (!batch || earlier.any fun x => (parseFifo x.bytes).pins))

/-- OPCODES bits that name pipeline opcodes (Table 2.12, Table 13.3). -/
def opcodesOk (v : Nat) : Bool := (List.range 31).all fun n => bitsOf v n 1 = 0 || isPipelineOp n

def schedViols (earlier : List Rec) (r : Rec) : List Viol :=
  let q := parseSched r.bytes
  let ok := [1, 3, 4, 5, 6, 7].contains q.entryType
  r.at 0 (earlier.any fun x => (parseSched x.bytes).pipeline == q.pipeline) ++ r.at 1 (!ok) ++
  r.at 2 (ok && q.entryUnit != 0xFF && ((typeOfCode q.entryType).elim true fun t => t.count ≤ q.entryUnit)) ++
  r.at 12 (q.cont && !([7, 3, 6].contains q.entryType)) ++ r.at 16 (!opcodesOk q.opcodes)

def gatherViols (tiles : Nat) (earlier : List Rec) (r : Rec) : List Viol :=
  let g := parseGather r.bytes
  r.at 0 (earlier.any fun x => (parseGather x.bytes).table == g.table) ++ r.at 1 (3 < g.classHot) ++ r.at 2 (3 < g.classCold) ++
  r.at 4 (g.rowWidth = 0 || 4096 < g.rowWidth) ++ r.at 8 (g.maxRows = 0 || 2 ^ 32 < g.maxRows) ++
  r.at 24 (1048576 < g.firnSlots || (g.hotFp16 && g.classHot != 1) || (g.coldFp16 && g.classCold != 1)) ++
  r.at 28 (if g.firnSlots = 0 then g.firnBase != 0
    else g.firnBase < 256 || tiles = 0 || slabBytes < g.firnBase * 64 + 2 * halfBytes g tiles)

/-- An FP32 pattern is not finite. -/
def notFinite32 (v : Nat) : Bool := bitsOf v 23 8 == 255

def warpViols (earlier : List Sec) (s : Sec) : List Viol :=
  let f := field s.body
  let n := 2 * f 2 2 * f 4 2
  s.at 0 (255 < f 0 2 || earlier.any fun x => field x.body 0 2 == f 0 2) ++ s.at 2 (f 2 2 < 2 || 129 < f 2 2) ++
  s.at 4 (f 4 2 < 2 || 129 < f 4 2) ++ s.at 6 (1 < f 6 1) ++ s.at 8 (f 8 2 = 0 || 8192 < f 8 2) ++
  s.at 10 (f 10 2 = 0 || 8192 < f 10 2) ++ s.at 15 (f 15 1 != 0) ++
  (((List.range n).find? fun k => notFinite32 (f (32 + 4 * k) 4)).elim [] fun k => s.at (32 + 4 * k) true)

def powerViols (earlier : List Rec) (r : Rec) : List Viol :=
  let q := parsePower r.bytes
  r.at 0 (15 < q.cluster || earlier.any fun x => (parsePower x.bytes).cluster == q.cluster) ++ r.at 1 (2 < q.sleepFloor) ++
  r.at 2 (3 < q.maxOp)

end Sys2Proof.Machine
end

