-- ==== Sys2Proof/Machine/PlanInstr.lean ====
section
/-! DEFINITION. Decode-plan instructions and the rules a plan keeps (06 R150 to R152, Tables 6.3 to 6.6). -/

namespace Sys2Proof.Machine

/-- A plan instruction (Table 6.4). -/
structure PInstr where
  op : Nat
  ty : Nat
  col : Nat
  fmt : Nat
  arg : Nat
  arg2 : Nat
  fld : Nat
  base : Nat
  deriving DecidableEq, Repr

/-- Take an instruction apart; `base` is the region base of a COLDEF in slab bytes. -/
def PInstr.of (w : BitVec 64) : PInstr :=
  let v := w.toNat
  { op := bitsOf v 0 8, ty := bitsOf v 8 8, col := bitsOf v 16 12, fmt := bitsOf v 28 4, arg := bitsOf v 32 8
    arg2 := bitsOf v 40 8, fld := bitsOf v 48 16, base := bitsOf v 40 24 * 64 }

/-- No output column. -/
def noColumn : Nat := 0xFFF

/-- Records per group of a plan (Table 6.3). -/
def Plan.group (p : Plan) : Nat := 2048 / 2 ^ bitsOf (field p.params 0 1) 0 3
def Plan.windowGroups (p : Plan) : Nat := field p.params 2 2
def Plan.maxRecord (p : Plan) : Nat := field p.params 4 4
def Plan.hashSeed (p : Plan) : BitVec 64 := BitVec.ofNat 64 (field p.params 16 8)
def Plan.steps (p : Plan) : List PInstr := p.instrs.map PInstr.of
/-- Tile and region base of each column; the column's format. -/
def Plan.coldefs (p : Plan) : List PInstr := p.steps.filter (·.op == 1)
def Plan.colFmt (p : Plan) (c : Nat) : Nat := ((p.coldefs.find? (·.col == c)).map (·.fmt)).getD 0

/-- The transform of a STRING, BYTES or FIXED value (Table 6.6). -/
def PInstr.transform (i : PInstr) : Nat := if i.ty = 0x11 then i.fld % 4 else i.arg

/-- The column formats that a value type of FIELD allows (Table 6.6). -/
def typeAllows (i : PInstr) (f : Nat) : Bool :=
  if i.ty = 0x01 then f == 1 || f == 3
  else if 0x02 ≤ i.ty && i.ty ≤ 0x0B then f ≤ 11
  else if i.ty = 0x0C || i.ty = 0x0D then f ≤ 10
  else if i.ty = 0x0E || i.ty = 0x0F || i.ty = 0x11 then (if i.transform = 2 then f == 7 else f == 11)
  else if i.ty = 0x10 then f == 3 || f == 5 || f == 7
  else if i.ty = 0x12 then f == 6
  else if i.ty = 0x13 || i.ty = 0x14 then f == 11
  else if i.ty = 0x15 then 8 ≤ f && f ≤ 11
  else false

/-- FIELD bits [63:48] fit the instruction and container (Table 6.4). -/
def fieldNumberOk (cont : Nat) (i : PInstr) : Bool :=
  match cont with
  | 1 => if i.op = 2 && i.ty = 0x11 then i.fld < 4 else i.fld == 0
  | 2 =>
    if i.op = 2 || (i.op = 3 && i.ty = 0x22) || i.op = 8 then (i.fld != 0 || (i.op == 2 && i.ty == 0x16)) else i.fld == 0
  | 3 => if i.op = 2 then i.fld ≤ 254 else i.fld == 0
  | _ => i.op == 2 || i.fld == 0

/-- A FIELD instruction on its own (Tables 6.5 and 6.6). -/
def fieldOk (p : Plan) (i : PInstr) : Bool :=
  1 ≤ i.ty && i.ty ≤ 0x16 && (i.col == noColumn || (i.col < p.columns && i.ty != 0x16 && typeAllows i (p.colFmt i.col))) &&
  (!(i.ty == 0x0E || i.ty == 0x0F || i.ty == 0x11) || i.transform ≤ 2) &&
  (i.ty != 0x11 || (p.container == 1 && i.arg + 256 * i.arg2 != 0))

/-- TYPE and COLUMN are values of Tables 6.4 to 6.6 whatever the operation (00 R11): TYPE one of the two tables' types or, in an
operation that takes none, 0 (log 96). -/
def codesOk (i : PInstr) : Bool :=
  (i.col ≤ 1023 || i.col == noColumn) && (i.ty ≤ 0x16 || (0x20 ≤ i.ty && i.ty ≤ 0x22))

/-- An instruction on its own: operation, type, arguments, column. ARG and ARG2 of an operation to which Tables 6.5 and 6.6 give
none may hold anything (log 97). -/
def instrOk (p : Plan) (i : PInstr) : Bool :=
  codesOk i && (i.op == 1 || i.fmt == 0) && (i.op == 1 || fieldNumberOk p.container i) &&
  match i.op with
  | 1 =>
    i.col < p.columns && i.fmt ≤ 11 && i.arg ≤ 127 && p.group * fmtBits i.fmt ≤ 8192 &&
    i.base + 2 * p.windowGroups * 1024 ≤ slabBytes
  | 2 => fieldOk p i
  | 3 =>
    ((i.ty == 0x20 || i.ty == 0x21) && p.container == 1 || i.ty == 0x22 && p.container == 2) && i.arg ≤ 2 &&
    (if i.arg = 1 then i.col < p.columns && p.colFmt i.col == 7 else i.col == noColumn) &&
    (if i.arg = 2 then 1 ≤ i.arg2 && i.arg2 ≤ 8 else i.arg2 == 0)
  | 5 => p.container == 1 && 1 ≤ i.arg && i.arg ≤ 8 && (i.col == noColumn || (i.col < p.columns && p.colFmt i.col == 3))
  | 8 => p.container == 1 || p.container == 2
  | 4 | 6 | 7 | 9 => true
  | 10 => i.col < p.columns && (p.colFmt i.col == 1 || p.colFmt i.col == 3)
  | _ => false

/-- An open construct: a list with the n of FIRST, a union with the next branch and the branch count, a nest. -/
inductive Frame where
  | list (n : Nat)
  | union (next count : Nat)
  | nest
  deriving DecidableEq, Repr

/-- The frames after an instruction, or none where it does not fit (R152). -/
def frameStep (fs : List Frame) (i : PInstr) : Option (List Frame) :=
  let inBranch : Bool := match fs with
    | .union 0 _ :: _ => false
    | _ => true
  let push (f : Frame) : Option (List Frame) := if fs.length < 8 && inBranch then some (f :: fs) else none
  match i.op with
  | 3 => push (.list (if i.arg = 2 then i.arg2 else 0))
  | 5 => push (.union 0 i.arg)
  | 8 => push .nest
  | 4 => match fs with
    | .list _ :: r => some r
    | _ => none
  | 6 => match fs with
    | .union n c :: r => if i.arg = n && n < c then some (.union (n + 1) c :: r) else none
    | _ => none
  | 7 => match fs with
    | .union n c :: r => if n = c then some r else none
    | _ => none
  | 9 => match fs with
    | .nest :: r => some r
    | _ => none
  | _ => if inBranch then some fs else none

/-- The n of the nearest enclosing FIRST list, 1 for none. -/
def firstOf : List Frame → Nat
  | [] => 1
  | .list n :: r => if n = 0 then firstOf r else n
  | _ :: r => firstOf r

/-- The columns an instruction writes (R152). -/
def columnsWritten (fs : List Frame) (i : PInstr) : List Nat :=
  let here := i.op == 2 || i.op == 3 || i.op == 5 || i.op == 10
  if here && i.col != noColumn then (List.range (firstOf fs)).map (i.col + ·) else []

/-- Every column that an instruction writes is defined and of a format that it can write (R152, Table 6.6). -/
def columnsFit (p : Plan) (i : PInstr) (cols : List Nat) : Bool :=
  cols.all fun c => c < p.columns &&
    match i.op with
    | 2 => typeAllows i (p.colFmt c)
    | 3 => p.colFmt c == 7
    | 5 => p.colFmt c == 3
    | _ => p.colFmt c == 1 || p.colFmt c == 3

/-- Index of the first instruction after the COLDEFs that breaks a rule; of the outermost opening instruction when
constructs stay open. `opened` are the indices of the open constructs, innermost first. -/
def planFault (p : Plan) : Nat → List Frame → List Nat → List Nat → List PInstr → Option Nat
  | _, _, opened, _, [] => opened.getLast?
  | k, fs, opened, used, i :: is =>
    let cols := columnsWritten fs i
    if i.op = 1 || !instrOk p i || !columnsFit p i cols || cols.any used.contains then some k
    else
      match frameStep fs i with
      | none => some k
      | some fs' =>
        let opened' :=
          if i.op = 3 || i.op = 5 || i.op = 8 then k :: opened
          else if i.op = 4 || i.op = 7 || i.op = 9 then opened.drop 1 else opened
        planFault p (k + 1) fs' opened' (used ++ cols) is

/-- Index of the first COLDEF that breaks a rule, from instruction k on. -/
def coldefFault (p : Plan) : Nat → List Nat → List PInstr → Option Nat
  | _, _, [] => none
  | k, seen, i :: is => if !instrOk p i || seen.contains i.col then some k else coldefFault p (k + 1) (i.col :: seen) is

/-- The first faulty instruction of a plan: COLDEFs come first, one for each column (R152). -/
def Plan.fault (p : Plan) : Option Nat :=
  let cds := p.steps.takeWhile (·.op == 1)
  match coldefFault p 0 [] cds with
  | some k => some k
  | none => planFault p cds.length [] [] [] (p.steps.drop cds.length)

/-- BAD_FIELD of a DECODE section (Tables 2.15 and 6.3, R152). -/
def decodeViols (earlier : List Sec) (s : Sec) : List Viol :=
  let f := field s.body
  let p := parsePlan s
  let text := p.container == 2 || p.container == 3
  s.at 0 (1023 < f 0 2 || earlier.any fun x => field x.body 0 2 == f 0 2) ++ s.at 2 (f 2 1 = 0 || 4 < f 2 1) ++
  s.at 4 (f 4 2 = 0 || 1024 < f 4 2 || (p.steps.filter (·.op == 1)).length < p.columns) ++
  s.at 6 (f 6 2 = 0 || 16384 < f 6 2) ++ s.at 8 (4 < bitsOf (f 8 1) 0 3) ++ s.at 10 (f 10 2 = 0 || 4096 < f 10 2) ++
  s.at 12 (text && (f 12 4 = 0 || 16777216 < f 12 4)) ++ s.at 19 (p.container = 3 && f 19 1 = 0) ++
  s.at 20 (p.container = 3 && 1 < f 20 1) ++
  (p.fault.elim [] fun k => s.at (64 + 8 * k) true)

end Sys2Proof.Machine
end

