-- ==== Sys2Proof/Machine/ImageRules.lean ====
section
/-! DEFINITION. The verification checks that hold an image against the floor and the mesh, and the whole of Table 2.20 in its
order (02 R40, R46, R55 to R57; 03 R69; 14 R333 to R339). -/

namespace Sys2Proof.Machine

/-- OVERLAP: a CONST region meets an earlier one on a tile (R44). -/
def overlapViols (ss : List Sec) : List Viol :=
  (secsOf ss tyConst).flatMap fun s =>
    let c := parseConst s
    let clash (t : Sec) : Bool :=
      let d := parseConst t
      t.idx < s.idx && c.clusters &&& d.clusters != 0 && c.tileMask &&& d.tileMask != 0 &&
        meets c.offset c.length d.offset d.length
    s.at 0 ((secsOf ss tyConst).any clash)

/-! ## OUTSIDE_PARTITION -/

/-- What a partition's images may name: its place and whether a stop is its own or shared (14 R334). -/
structure Ground where
  place : Place
  tiles : List Nat
  stops : List Nat

/-- The ground of a place record. -/
def groundOf (r : Place) : Ground :=
  let cs := (List.range 16).filter fun c => r.clusters.getLsbD c
  let ts := cs.flatMap fun c => (List.range 8).map fun n => 8 * c + n
  { place := r, tiles := ts, stops := ts.map tileStop ++ hbmStops ++ portStops }

/-- OUTSIDE_PARTITION. -/
def outsideViols (g : Ground) (ss : List Sec) : List Viol :=
  let own (c : Nat) : Bool := g.place.clusters.getLsbD c
  let stray (s : Sec) : List Viol :=
    let m := (BitVec.ofNat 16 s.mask) &&& ~~~g.place.clusters
    ((List.range 2).find? fun k => bitsOf m.toNat (8 * k) 8 != 0).elim [] fun k => s.atEntry (16 + k) true
  let unit (r : Rec) : Bool :=
    let q := parseSched r.bytes
    q.entryUnit != 0xFF &&
      ((q.entryType == 1 && !own (q.entryUnit / 8)) || ((q.entryType == 3 || q.entryType == 4) && !own q.entryUnit))
  let coldefs (s : Sec) : List Viol :=
    let ws := (parsePlan s).steps
    (List.range ws.length).flatMap fun k => s.at (64 + 8 * k) ((ws[k]?).elim false fun i => i.op == 1 && !g.tiles.contains i.arg)
  ((recordsOf ss tyTileProg).flatMap fun r => r.at 0 (!g.tiles.contains (r.fld 0 1))) ++
  ((secsOf ss tyConst).flatMap stray) ++ ((secsOf ss tyWarp).flatMap stray) ++
  ((recordsOf ss tyRoute).flatMap fun r => r.at 0 (!g.stops.contains (r.fld 0 1))) ++
  ((recordsOf ss tyQuota).flatMap fun r =>
    r.at 0 (!g.stops.contains (r.fld 0 1)) ++ r.at 1 (!g.stops.contains (r.fld 1 1))) ++
  ((recordsOf ss tySched).flatMap fun r => r.at 2 (unit r)) ++
  ((secsOf ss tyDecode).flatMap coldefs) ++
  ((recordsOf ss tyPower).flatMap fun r => r.at 0 (!own (r.fld 0 1)))

/-- Clusters of the partition without a POWER record (R46), reported at RECORD_COUNT. -/
def powerMissing (g : Ground) (ss : List Sec) : List Viol :=
  (secsOf ss tyPower).flatMap fun s =>
    s.at 4 ((List.range 16).any fun c => g.place.clusters.getLsbD c && s.records.all fun r => r.fld 0 1 != c)

/-! ## OVER_BUDGET -/

/-- Records at which a running sum is above a limit. -/
def sumViols (lim off : Nat) (f : Rec → Nat) : Nat → List Rec → List Viol
  | _, [] => []
  | acc, r :: rs => r.at off (lim < acc + f r) ++ sumViols lim off f (acc + f r) rs

/-- Bytes of a table's data and directory regions in each stack for a number of rows (08 R189). -/
def dataBytes (g : GatherRec) (rows : Nat) : Nat := (ceilDiv rows 8 + 1) * coldStride g
def dirBytes (rows : Nat) : Nat := (ceilDiv rows 8 + 1) * 8

/-- OVER_BUDGET (Table 2.20, 08 R187). -/
def budgetViols (r : Place) (ss : List Sec) : List Viol :=
  let range := r.hbmSize * 2 ^ 30
  let scheds := recordsOf ss tySched
  let gathers := recordsOf ss tyGather
  sumViols r.admission 4 (fun x => (parseSched x.bytes).admission) 0 scheds ++
  sumViols r.flows 8 (fun x => (parseSched x.bytes).flows) 0 scheds ++
  sumViols 64 0 (fun x => if (parseFifo x.bytes).kind = 3 then 1 else 0) 0 (recordsOf ss tyFifo) ++
  (gathers.flatMap fun x =>
    let g := parseGather x.bytes
    x.at 16 (range < g.dataPage * 4096 + dataBytes g g.maxRows) ++ x.at 20 (range < g.dirPage * 4096 + dirBytes g.maxRows)) ++
  sumViols r.firnRows 24 (fun x => (parseGather x.bytes).firnSlots) 0 gathers

/-! ## Routes against the mesh -/

/-- A route ends outside its network's endpoint set, or crosses a fenced link (R334). -/
def State.routeOutside (s : State) (g : Ground) (q : Route) : Bool :=
  let ends := if q.network = 2 then g.tiles.map tileStop else g.stops
  !ends.contains (routeDst q.route) ||
  (q.walk).elim true fun w => w.1.any fun l => s.linksFenced.any fun f =>
    f.stop.val == l.1 && f.dir.val == l.2 &&
      (match f.net with | .req => 0 | .rsp => 1 | .snp => 2 | .dat => 3) == q.network

/-- A channel of a network: a link's stop and direction, and a VC (R339). -/
structure Channel where
  stop : Nat
  dir : Nat
  vc : Nat
  deriving DecidableEq, Repr

/-- The dependences of a route: each channel with the one after it. -/
def Route.depends (q : Route) : List (Channel × Channel) :=
  let cs := (q.walk).elim [] fun w => w.1.map fun l => { stop := l.1, dir := l.2, vc := routeVc q.route : Channel }
  cs.zip cs.tail

/-- Channels reached from some channels over dependences, within n steps. -/
def reach (es : List (Channel × Channel)) : Nat → List Channel → List Channel
  | 0, xs => xs
  | n + 1, xs =>
    let new := (es.filterMap fun e => if xs.contains e.1 && !xs.contains e.2 then some e.2 else none).eraseDups
    if new.isEmpty then xs else reach es n (xs ++ new)

/-- The change that a floor makes to a partition scrubs it (03 Table 3.6): its record appears or goes, or its clusters, its HBM
range or its DAT_VCS change. -/
def scrubsPlace (old new : Option Place) : Bool :=
  match old, new with
  | none, none => false
  | some a, some b =>
    a.clusters != b.clusters || a.hbmBase != b.hbmBase || a.hbmSize != b.hbmSize || a.datVcs != b.datVcs
  | _, _ => true

/-- The routes of partition q once every commit past its point of no return has been applied (R339): those of the image that it
is applying; none when the floor that waits or is being written scrubs it. -/
def State.standing (s : State) (q : Port) : List Route :=
  let x := s.parts[q]
  if s.floorChange.any fun f => scrubsPlace x.place f.image.places[q] then []
  else
    match x.op with
    | some o => if o.kind == .apply then o.image.elim [] (·.routes) else x.routes
    | none => x.routes

/-- Routes of the other partitions (R339). Device routes lie on VC 3 of REQ and RSP, which no image's route names, so no cycle
of an image takes them. -/
def State.otherRoutes (s : State) (p : Port) : List Route :=
  ((List.finRange 6).filter (· != p)).flatMap fun q => s.standing q

/-- ROUTE_CYCLE (R339): a dependence of the record's route lies on a cycle of its network. -/
def State.onCycle (s : State) (p : Port) (mine : List Route) (q : Route) : Bool :=
  let es := ((mine ++ s.otherRoutes p).filter (·.network == q.network)).flatMap Route.depends
  q.depends.any fun e => (reach es 2304 [e.2]).contains e.1

/-! ## QUOTA_EXCEEDED (14 Table 14.9, R336) -/

/-- Buffers of a network that a partition holds at a stop. -/
def heldBuffers (stop net : Nat) : Nat :=
  if hbmStops.contains stop then (if net = 0 then 128 else if net = 3 then 64 else 0)
  else if portStops.contains stop then (if net = 0 then 64 else if net = 3 then 32 else 0)
  else (if net = 0 then 64 else if net = 2 then 32 else if net = 3 then 48 else 0)

/-- Response slots that a partition holds at a stop. -/
def heldSlots (stop : Nat) : Nat := if hbmStops.contains stop || portStops.contains stop then 64 else 32

/-- The records up to and including each record. -/
def quotaViolsAt (qs : List Rec) : List Viol :=
  (List.range qs.length).flatMap fun k =>
    match qs[k]? with
    | none => []
    | some r =>
      let q := parseQuota r.bytes
      let upTo := (qs.take (k + 1)).map fun x => parseQuota x.bytes
      let req := ((upTo.filter fun x => x.dst == q.dst && x.network == q.network).map (·.req)).foldl (· + ·) 0
      let rsp := ((upTo.filter fun x => x.src == q.src).map (·.rsp)).foldl (· + ·) 0
      r.at 4 (heldBuffers q.dst q.network < req) ++ r.at 6 (heldSlots q.src < rsp)

/-! ## FLOOR_CONFLICT (03 R69) -/

/-- FLOOR_CONFLICT, with the GiB of a stack that may be assigned. -/
def conflictViols (gib : Nat) (rs : List Rec) : List Viol :=
  let present := rs.filter fun r => (parsePlace r.bytes).isSome
  (present.flatMap fun r =>
    let before := present.filter fun x => x.idx < r.idx
    let lap (x : Rec) : Bool := meets (r.fld 8 2) (r.fld 10 2) (x.fld 8 2) (x.fld 10 2)
    r.at 4 (before.any fun x => (BitVec.ofNat 16 (r.fld 4 2)) &&& (BitVec.ofNat 16 (x.fld 4 2)) != 0) ++
    r.at 8 (gib < r.fld 8 2 + r.fld 10 2 || before.any lap)) ++
  sumViols 262144 24 (fun x => x.fld 24 4) 0 present ++ sumViols 1048576 28 (fun x => x.fld 28 4) 0 present

/-! ## BAD_FIELD as a whole -/

/-- The records before each record of a list. -/
def withEarlier (f : List Rec → Rec → List Viol) (rs : List Rec) : List Viol :=
  rs.flatMap fun r => f (rs.filter fun x => x.sec < r.sec || (x.sec == r.sec && x.idx < r.idx)) r

/-- The sections before each section of a list. -/
def withEarlierSec (f : List Sec → Sec → List Viol) (ss : List Sec) : List Viol :=
  ss.flatMap fun s => f (ss.filter (·.idx < s.idx)) s

/-- BAD_FIELD of the header (Table 2.2). -/
def headerViols (b : List Byte) : List Viol :=
  atHead 0x0A (imgCount b = 0 || 256 < imgCount b) ++ atHead 0x28 (imgVersion b = 0 || 2 ^ 63 ≤ imgVersion b)

/-- BAD_FIELD of a PART image. -/
def partFieldViols (g : Ground) (b : List Byte) : List Viol :=
  let ss := sections b
  let progs := (recordsOf ss tyTileProg).map fun r => parseProg r.bytes
  let routes := (recordsOf ss tyRoute).map fun r => parseRoute r.bytes
  headerViols b ++
  withEarlier (fun before r => progViols progs (before.map fun x => parseProg x.bytes) routes r) (recordsOf ss tyTileProg) ++
  (secsOf ss tyConst).flatMap constViols ++ withEarlier (routeViols g.place.datVcs) (recordsOf ss tyRoute) ++
  withEarlier (quotaViols g.place.datVcs routes) (recordsOf ss tyQuota) ++ withEarlier fifoViols (recordsOf ss tyFifo) ++
  withEarlier schedViols (recordsOf ss tySched) ++ withEarlierSec decodeViols (secsOf ss tyDecode) ++
  withEarlier (gatherViols g.tiles.length) (recordsOf ss tyGather) ++ withEarlierSec warpViols (secsOf ss tyWarp) ++
  withEarlier powerViols (recordsOf ss tyPower) ++ powerMissing g ss

/-! ## Table 2.20 in its order -/

/-- The first of some checks that fails. -/
def firstFail : List (Unit → Option ImgFail) → Option ImgFail
  | [] => none
  | c :: cs =>
    match c () with
    | some f => some f
    | none => firstFail cs

/-- A check that only says whether it fails, with what it reports. -/
def failIf (bad : Bool) (sub off : Nat) : Option ImgFail := if bad then some { sub := sub, sec := 0xFFFF, off := off } else none

/-- Sub-codes 0x05 to 0x09: the checks against what the session announced, the digest, the signature and the key. `owner`
says that the loader is the floor owner. Bytes received that are not SIZE show in no field, and a digest that differs shows in
the header's DIGEST (log 77). -/
def earlyChecks (b : List Byte) (size kind target : Nat) (digest keyHash : List Byte) (owner : Bool) :
    List (Unit → Option ImgFail) :=
  [ fun _ => failIf (b.length != size) 0x05 0xFFFFFFFF,
    fun _ => failIf (!sizeOk size || !sizeOk (imgTotal b) || imgTotal b != size) 0x05 0x10,
    fun _ => failIf (imgMagic b != 0x4B434C51) 0x01 0,
    fun _ => failIf (imgMajor b != 2) 0x02 4,
    fun _ => failIf (imgMinor b != 0) 0x02 6,
    fun _ => failIf (!(imgKind b = 1 || imgKind b = 2) || imgKind b != kind || (imgKind b = 1 && !owner)) 0x03 8,
    fun _ => failIf (imgTarget b != target || (imgKind b = 1 && imgTarget b != 0xFF) || (imgKind b = 2 && 5 < imgTarget b))
      0x04 9,
    fun _ => reported 0x06 (layoutViols b),
    fun _ => failIf (digestOf b != imgDigest b || imgDigest b != digest) 0x07 0x60,
    fun _ => (signatureFault b).map fun o => { sub := 0x08, sec := 0xFFFF, off := imgSig b + o },
    fun _ => failIf (keyHashOf b != keyHash) 0x09 (imgSig b + 16) ]

/-- Sub-codes 0x0A to 0x0D. -/
def formChecks (b : List Byte) : List (Unit → Option ImgFail) :=
  [ fun _ => reported 0x0A (reservedViols b), fun _ => reported 0x0B (sectionViols b), fun _ => reported 0x0C (crcViols b),
    fun _ => reported 0x0D (lengthViols b) ]

/-- The checks of a FLOOR image past its key. -/
def floorChecks (gib : Nat) (b : List Byte) : List (Unit → Option ImgFail) :=
  let rs (_ : Unit) : List Rec := recordsOf (sections b) tyPlace
  [ fun _ => reported 0x0E (headerViols b ++ (rs ()).flatMap placeViols), fun _ => reported 0x15 (conflictViols gib (rs ())) ]

/-- The checks of a PART image past its key, against a place record (R56). -/
def State.partChecks (s : State) (p : Port) (r : Place) (b : List Byte) : List (Unit → Option ImgFail) :=
  let g := groundOf r
  let routes (_ : Unit) : List Rec := recordsOf (sections b) tyRoute
  let mine (u : Unit) : List Route := (routes u).map fun x => parseRoute x.bytes
  [ fun _ => reported 0x0E (partFieldViols g b), fun _ => reported 0x17 (overlapViols (sections b)),
    fun _ => reported 0x0F (outsideViols g (sections b)),
    fun _ => reported 0x11 ((recordsOf (sections b) tyTileProg).flatMap tooLongViols),
    fun _ => reported 0x10 (budgetViols r (sections b)),
    fun u => reported 0x12 ((routes u).flatMap fun x => x.at 8 (s.routeOutside g (parseRoute x.bytes))),
    fun u => reported 0x13 ((routes u).flatMap fun x => x.at 8 (s.onCycle p (mine u) (parseRoute x.bytes))),
    fun _ => reported 0x14 (quotaViolsAt (recordsOf (sections b) tyQuota)) ]

/-- The floor-key hash of the manifest of the bank booted (R40). -/
def State.floorKeyHash (s : State) : List Byte := s.boot.running.elim [] (·.floorKeyHash)

/-- A loader is the floor owner (R66, R422). -/
def State.ownsFloor (s : State) (ld : Loader) : Bool :=
  match ld with
  | .port p => s.floorOwnerPort == some p
  | .mgmt => s.floorSel == 6

/-- The first failing check of Table 2.20 for a session's bytes, none when the image passes. A partition without a record
allows no key, so its image fails at KEY_NOT_ALLOWED at the latest (R40, R72). -/
def State.verify (s : State) (ld : Loader) (z : Session) : Option ImgFail :=
  if z.floor then
    firstFail (earlyChecks z.bytes z.size 1 z.target z.digest s.floorKeyHash (s.ownsFloor ld) ++ formChecks z.bytes ++
      floorChecks s.orderCode.gibAssignable z.bytes)
  else
    match ld with
    | .mgmt => some { sub := 0x03, sec := 0xFFFF, off := 8 }
    | .port p =>
      match s.parts[p].place with
      | none => firstFail (earlyChecks z.bytes z.size 2 z.target z.digest [] false)
      | some r =>
        let key := if r.keyHash.all (· == 0) then [] else r.keyHash
        firstFail (earlyChecks z.bytes z.size 2 z.target z.digest key false ++ formChecks z.bytes ++
          s.partChecks p r z.bytes)

/-- The checks of a DEFAULT_FLOOR bank (R416, R442): those of Table 2.20 that apply without a session. -/
def State.verifyFloorBank (s : State) (raw : List Byte) : Option ImgFail :=
  let b := raw.take (imgTotal raw)
  firstFail (earlyChecks b (imgTotal raw) 1 0xFF (imgDigest b) s.floorKeyHash true ++ formChecks b ++
    floorChecks s.orderCode.gibAssignable b)

end Sys2Proof.Machine
end

