-- ==== Sys2Proof/Machine/StageOps.lean ====
section
/-! DEFINITION. What a stage word computes for one element, and vectors as lanes (04 R94 to R96, R107 to R115, R119). -/

namespace Sys2Proof.Machine

/-! ## Lanes and masks -/

abbrev VReg := BitVec 8192
abbrev PMask := BitVec 2048

/-- The elements of a vector, of w bits each (R94). -/
def lanes (w : Nat) (v : VReg) : List Nat := (List.range (8192 / w)).map fun i => bitsOf v.toNat (w * i) w

/-- An integer of elements of w bits, element 0 lowest. -/
def packLanes (w : Nat) : List Nat → Nat
  | [] => 0
  | x :: xs => x % 2 ^ w + 2 ^ w * packLanes w xs

/-- The vector of some elements; those it lacks are 0. -/
def unlanes (w : Nat) (xs : List Nat) : VReg := BitVec.ofNat 8192 (packLanes w xs)

/-- The bytes of a register, byte 0 first, and back (R94). -/
def vecToBytes (v : VReg) : List Byte := leBytes 1024 v.toNat
def vecOfBytes (bs : List Byte) : VReg := BitVec.ofNat 8192 (leNat bs)

/-- Mask n of PM1 to PM7; PM0 is all ones (R95). -/
def maskOf (pm : Vector PMask 7) (n : Nat) : PMask := if n = 0 then BitVec.allOnes 2048 else pm[Fin.ofNat 7 (n - 1)]

/-- The enables that PRED gives (Table 4.2, R95). -/
def predMask (pm : Vector PMask 7) (pred : Nat) : PMask :=
  let m := maskOf pm (pred % 8)
  if 8 ≤ pred then ~~~m else m

/-- The enable of each element of width w. -/
def enables (w : Nat) (m : PMask) : List Bool := (List.range (8192 / w)).map fun i => m.getLsbD (i * (w / 4))

/-- A mask with each element's group of bits set to its value (R95). -/
def maskOfLanes (w : Nat) (bs : List Bool) : PMask :=
  BitVec.ofNat 2048 (packLanes (w / 4) (bs.map fun b => if b then 2 ^ (w / 4) - 1 else 0))

/-! ## Integer elements -/

/-- An element read as its format says; K64 is unsigned. -/
def intVal (f v : Nat) : Int := if isSignedFmt f then toSigned (fmtBits f) v else (v % 2 ^ fmtBits f : Nat)

/-- The range of a format. -/
def intMin (f : Nat) : Int := if isSignedFmt f then -(2 ^ (fmtBits f - 1) : Nat) else 0
def intMax (f : Nat) : Int := if isSignedFmt f then (2 ^ (fmtBits f - 1) : Nat) - 1 else (2 ^ fmtBits f : Nat) - 1

/-- Wrap, or clamp under SAT (R112). -/
def intOut (f : Nat) (sat : Bool) (r : Int) : Nat :=
  ofSigned (fmtBits f) (if sat then clampInt r (intMin f) (intMax f) else r)

/-- DIV (R112): toward zero; by zero all ones, or the bound of a's sign. -/
def intDiv (f : Nat) (a b : Int) : Int :=
  if b = 0 then (if isSignedFmt f && a < 0 then intMin f else intMax f) else a.tdiv b

/-- Leading zeros of a w-bit value. -/
def leadingZeros (w v : Nat) : Nat := if v = 0 then w else w - 1 - Nat.log2 v

/-- Set bits of a value among w. -/
def popCount (w v : Nat) : Nat := ((List.range w).filter fun i => v.testBit i).length

/-- KHASH (R115). -/
def khash (a s : BitVec 64) : BitVec 64 :=
  let h := a ^^^ s
  let h := (h ^^^ (h >>> 29)) * 0x8F3A61C5D2B70E93
  let h := (h ^^^ (h >>> 32)) * 0x5B1DE4A793C628F5
  h ^^^ (h >>> 27)

/-- CRC32C (R115): the low 32 bits of b updated with the bytes of a. -/
def crcWord (w a b : Nat) : Nat := (crcUpdate (BitVec.ofNat 32 b) (leBytes (w / 8) a)).toNat

/-- Rotate a w-bit value left by n below w. -/
def rotL (w v n : Nat) : Nat := v * 2 ^ n % 2 ^ w + v / 2 ^ (w - n)

/-- Integer and bitwise operations on an element; a, b and d are patterns of the format's width. -/
def intElement (o : WOp) (f : Nat) (sat : Bool) (a b d : Nat) : Nat :=
  let w := fmtBits f
  let x := intVal f a
  let y := intVal f b
  let sh := b % w
  match o with
  | .add => intOut f sat (x + y)
  | .sub => intOut f sat (x - y)
  | .mul => intOut f sat (x * y)
  | .mulhi => ofSigned w (x * y / (2 ^ w : Nat))
  | .min => if x ≤ y then a else b
  | .max => if x ≤ y then b else a
  | .abs => intOut f sat (if x < 0 then -x else x)
  | .neg => intOut f sat (-x)
  | .avg => ofSigned w ((x + y + 1) / 2)
  | .div => intOut f sat (intDiv f x y)
  | .mac => intOut f sat (intVal f d + x * y)
  | .and => Nat.land a b
  | .or => Nat.lor a b
  | .xor => Nat.xor a b
  | .not => 2 ^ w - 1 - a
  | .andn => Nat.land a (2 ^ w - 1 - b)
  | .popcnt => popCount w a % 2 ^ w
  | .clz => leadingZeros w a % 2 ^ w
  | .shl => a * 2 ^ sh % 2 ^ w
  | .shr => a / 2 ^ sh
  | .sar => ofSigned w (x / (2 ^ sh : Nat))
  | .rotl => rotL w a sh
  | .rotr => rotL w a ((w - sh) % w)
  | .crc32c => crcWord w a b
  | .khash => (khash (BitVec.ofNat 64 a) (BitVec.ofNat 64 b)).toNat
  | .hash32 => (khash (BitVec.ofNat 64 a) (BitVec.ofNat 64 b)).toNat % 2 ^ 32
  | .hmod => a * b / 2 ^ 32
  | _ => a

/-! ## Floating elements -/

/-- FABS and FNEG change the sign bit alone (R113). -/
def floatSign (x : FFmt) (flip : Bool) (a : Nat) : Nat :=
  if flip then (if a / x.signBit % 2 = 1 then a - x.signBit else a + x.signBit) else a % x.signBit

/-- Floating operations on an element; c0 and c1 are the constants of NORMZ. -/
def floatElement (o : WOp) (x : FFmt) (k : Rounding) (a b d c0 c1 : Nat) : Nat :=
  let u := x.decode a
  let v := x.decode b
  match o with
  | .fadd => x.out k (Fl.add k.rnd u v)
  | .fsub => x.out k (Fl.add k.rnd u v.neg)
  | .fmul => x.out k (u.mul v)
  | .fma => x.out k (Fl.add k.rnd (u.mul v) (x.decode d))
  | .fmin => x.minMax false a b
  | .fmax => x.minMax true a b
  | .fabs => floatSign x false a
  | .fneg => floatSign x true a
  | .fdiv => x.div k u v
  | .fsqrt => x.sqrt k u
  | .frsqrt => x.rsqrt k u
  | .fexp => x.exp k u
  | .flog => x.log k u
  | .nlog1p => x.log1p k u
  | .normz => x.out k (Fl.add k.rnd (u.mul (x.decode c0)) (x.decode c1))
  | _ => a

/-- Operations whose elements are floating-point arithmetic. -/
def WOp.floats : WOp → Bool
  | .fadd | .fsub | .fmul | .fma | .fmin | .fmax | .fabs | .fneg | .fdiv | .fsqrt | .frsqrt | .fexp | .flog | .nlog1p
  | .normz => true
  | _ => false

/-- min(max(a, lo), hi) in the word's format (Table 4.7). -/
def clampElement (f a lo hi : Nat) : Nat :=
  if isFloatFmt f then (ffmt f).minMax false ((ffmt f).minMax true a lo) hi
  else intElement .min f false (intElement .max f false a lo 0) hi 0

/-- The result of an elementwise operation. -/
def element (o : WOp) (f : Nat) (k : Rounding) (a b d c0 c1 : Nat) : Nat :=
  if o.floats then floatElement o (ffmt f) k a b d c0 c1
  else if o == .clamp then clampElement f a c0 c1
  else intElement o f k.sat a b d

/-- A compare of two elements (R113): with a NaN only NE holds. -/
def compare (o : WOp) (f a b : Nat) : Bool :=
  let nan : Bool := isFloatFmt f && ((ffmt f).isNan a || (ffmt f).isNan b)
  let x : Int := if isFloatFmt f then (ffmt f).value a else intVal f a
  let y : Int := if isFloatFmt f then (ffmt f).value b else intVal f b
  match o with
  | .eq => !nan && x == y
  | .ne => nan || x != y
  | .lt => !nan && x < y
  | .le => !nan && x ≤ y
  | .gt => !nan && y < x
  | .ge => !nan && y ≤ x
  | .isnan => isFloatFmt f && (ffmt f).isNan a
  | _ => false

/-- One element converted (R114); K64 takes I32 and U32 extended and gives U32 its low half, whatever SAT holds. -/
def convert (src dst : Nat) (k : Rounding) (a : Nat) : Nat :=
  if isFloatFmt src then
    if isFloatFmt dst then
      match (ffmt src).decode a with
      | .nan => (ffmt dst).nan
      | v => (ffmt dst).out k v
    else ofSigned (fmtBits dst) (floatToInt k (intMin dst) (intMax dst) ((ffmt src).decode a))
  else if isFloatFmt dst then (ffmt dst).ofInt k (intVal src a)
  else intOut dst (k.sat && !isK64 src && !isK64 dst) (intVal src a)

/-! ## Reductions (R119) -/

/-- Sums of neighbours. -/
def sumPairs : List Nat → List Nat
  | a :: b :: r => fp32.out rne (Fl.add 0 (fp32.decode a) (fp32.decode b)) :: sumPairs r
  | r => r

/-- Pairwise levels until one value is left. -/
def sumTree : Nat → List Nat → Nat
  | _, [] => 0
  | _, [a] => a
  | 0, a :: _ => a
  | n + 1, xs => sumTree n (sumPairs xs)

/-- RSUM on element 0 of DST, 32 bits. -/
def reduceSum (f : Nat) (sat : Bool) (d : Nat) (xs : List (Nat × Bool)) : Nat :=
  if isFloatFmt f then
    let ys := xs.map fun p =>
      if p.2 then fp32.out rne ((ffmt f).decode p.1) else fp32.signBit
    fp32.out rne (Fl.add 0 (fp32.decode d) (fp32.decode (sumTree 12 ys)))
  else
    let g := if isSignedFmt f then 6 else 7
    intOut g sat ((xs.filter (·.2)).foldl (fun a p => a + intVal f p.1) (intVal g d))

/-- RMIN and RMAX on element 0 of DST, in the word's format. -/
def reduceMinMax (o : WOp) (f d : Nat) (xs : List (Nat × Bool)) : Nat :=
  let one (a b : Nat) : Nat :=
    if isFloatFmt f then (ffmt f).minMax (o == .rmax) a b else intElement (if o == .rmax then .max else .min) f false a b 0
  (xs.filter (·.2)).foldl (fun a p => one a p.1) d

/-- RCOUNT: set enables of PRED at 4-bit width, added to a U32. -/
def reduceCount (sat : Bool) (d : Nat) (m : PMask) : Nat := intOut 7 sat ((d + popCount 2048 m.toNat : Nat) : Int)

/-- A register with its low w bits replaced. -/
def setLow (w : Nat) (v : VReg) (x : Nat) : VReg := BitVec.ofNat 8192 (v.toNat / 2 ^ w * 2 ^ w + x % 2 ^ w)

end Sys2Proof.Machine
end

