-- ==== Sys2Proof/Machine/Tables.lean ====
section
/-! DEFINITION. Slab tables: the directory, DIRECT, BKT, PROBE, PROBE_NEXT, BUILD and the grace stager (05 R124 to R138, R144,
R145; 04 R116). -/

namespace Sys2Proof.Machine

/-! ## How a beat ends early -/

/-- Why a beat does not run: it ends its item with a status, at an uncorrectable slab byte it meets one, or it stalls for a
replica bucket that it refetches from its home stop. -/
inductive Halt where
  | fail (st : Status)
  | bad (off : Nat)
  | fetch (table bucket : Nat)
  deriving DecidableEq, Repr

/-- Read slab bytes in a beat (04 R104, R122). -/
def State.granule (s : State) (t off n : Nat) : Except Halt (List Byte) :=
  if slabBytes < off + n then .error (.fail .bounds)
  else if s.slabBad t off n then .error (.bad off)
  else .ok (s.slabGet t off n)

/-! ## The directory (R124, R125) -/

/-- A directory entry (Table 5.2). -/
structure TabEntry where
  table : Nat
  kind : Nat
  fmt : Nat
  tflags : Nat
  window : Nat
  base : Nat
  count : Nat
  ttl : Nat
  home : Nat
  route : Nat
  seed : Nat
  miss : Nat
  flow : Nat
  countBase : Nat
  members : Nat
  spillOff : Nat
  spillStride : Nat
  /-- reserved bits [31:24] of FLOW and bytes 56 to 63 are zero -/
  clean : Bool
  deriving DecidableEq, Repr

/-- Read an entry's 64 bytes. -/
def TabEntry.of (n : Nat) (b : List Byte) : TabEntry :=
  { table := n, kind := field b 0 1, fmt := field b 1 1, tflags := field b 2 1, window := field b 3 1, base := field b 4 4
    count := field b 8 4, ttl := field b 12 1, home := field b 13 1, route := field b 14 2, seed := field b 16 8
    miss := field b 24 8, flow := field b 32 3, countBase := field b 36 4, members := field b 40 16
    spillOff := field b 40 8, spillStride := field b 48 8, clean := zeros b 35 1 && zeros b 56 8 }

def TabEntry.multi (e : TabEntry) : Bool := bitsOf e.tflags 0 1 = 1
def TabEntry.payload (e : TabEntry) : Bool := bitsOf e.tflags 1 1 = 1
def TabEntry.ageing (e : TabEntry) : Bool := bitsOf e.tflags 2 1 = 1
def TabEntry.replica (e : TabEntry) : Bool := bitsOf e.tflags 3 1 = 1
def TabEntry.isHome (e : TabEntry) : Bool := bitsOf e.tflags 4 1 = 1

/-- Bytes of the table region (R126 to R128, R136). -/
def TabEntry.region (e : TabEntry) : Nat :=
  match e.kind with
  | 2 => e.count * (64 + 64 * e.payload.toNat + 8 * e.ageing.toNat)
  | 4 => 262144
  | _ => ceilDiv (e.count * fmtBits e.fmt) 8

/-- Every field lies within Table 5.2 and the region within the slab (R125, R138). -/
def TabEntry.wf (e : TabEntry) : Bool :=
  let hash := e.kind == 2
  let grace := e.kind == 4
  1 ≤ e.kind && e.kind ≤ 4 && (if hash || grace then e.fmt == 11 else e.fmt ≤ 11) && e.clean &&
  (if hash then e.tflags < 32 && (e.replica || !e.isHome) && 1 ≤ e.window && e.window ≤ 8 else e.tflags == 0 && e.window == 0) &&
  e.base % 64 == 0 && 16384 ≤ e.base &&
  (match e.kind with
   | 1 => 1 ≤ e.count
   | 2 => 16 ≤ e.count && e.count ≤ 131072 && 2 ^ Nat.log2 e.count == e.count
   | 3 => 1 ≤ e.count && e.count ≤ 4096
   | _ => e.count == 0) &&
  (if hash && e.ageing then 1 ≤ e.ttl else e.ttl == 0) &&
  (if hash && e.replica then e.home ≤ 127 else e.home == 0) && (if grace then e.route ≤ 511 else e.route == 0) &&
  (e.kind != 1 || e.seed < 2 ^ fmtBits e.fmt) && (e.kind != 3 || e.seed == 0) && (hash || e.miss == 0) &&
  (if grace then
     e.countBase % 64 == 0 && e.countBase + 2048 ≤ slabBytes && e.spillOff % 4096 == 0 && e.spillStride % 1024 == 0
   else e.countBase == 0 && (e.members == 0 || (hash && e.isHome))) &&
  e.base + e.region ≤ slabBytes

/-- Entry n of a tile as a lookup word needs it: one of the kinds, the word's format, and the item's flow for a table with
AGEING or REPLICA (R125, R142). -/
def State.tabEntry (s : State) (t n : Nat) (kinds : List Nat) (fmt flow : Nat) : Except Halt TabEntry :=
  match s.granule t (64 * n) 64 with
  | .error h => .error h
  | .ok b =>
    let e := TabEntry.of n b
    if !kinds.contains e.kind || e.fmt != fmt || !e.wf || ((e.ageing || e.replica) && e.flow != flow) then
      .error (.fail .bounds)
    else .ok e

/-! ## DIRECT and BKT -/

/-- The element of w bits at index i of a packed region. -/
def packedAt (b : List Byte) (w i : Nat) : Nat := bitsOf (leNat b) (w * i) w

/-- DIRECT of one element (R126). -/
def State.direct (s : State) (t : Nat) (e : TabEntry) (a : Nat) : Except Halt Nat :=
  let w := fmtBits e.fmt
  if a < e.count then
    match s.granule t (e.base + a * w / 8) (max 1 (w / 8)) with
    | .error h => .error h
    | .ok b => .ok (if w = 4 then packedAt b 4 (a % 2) else leNat b)
  else .ok e.seed

/-- A boundary is at or below a (R116): a NaN boundary never is. -/
def atOrBelow (f bd a : Nat) : Bool := compare .le f bd a

/-- Boundaries of a packed region. -/
def boundaries (f n : Nat) (b : List Byte) : List Nat := (List.range n).map fun i => packedAt b (fmtBits f) i

/-- The search of R127 over granules lo and hi (a lower bound one above the text's); `fuel` bounds its steps. -/
def State.bucketSearch (s : State) (t : Nat) (e : TabEntry) (a g : Nat) : Nat → Nat → Nat → Except Halt Nat
  | 0, lo, _ => .ok lo
  | fuel + 1, lo, hi =>
    if hi ≤ lo then .ok lo
    else
      let mid := lo + ceilDiv (hi - lo) 2
      match s.granule t (e.base + 64 * (mid - 1)) 64 with
      | .error h => .error h
      | .ok b =>
        if atOrBelow e.fmt (packedAt b (fmtBits e.fmt) 0) a then s.bucketSearch t e a g fuel mid hi
        else s.bucketSearch t e a g fuel lo (mid - 1)

/-- BKT of one element (R116, R127): from the boundary store, or by the search of a larger table. -/
def State.bkt (s : State) (t : Nat) (e : TabEntry) (store : Option (List Byte)) (a : Nat) : Except Halt Nat :=
  let w := fmtBits e.fmt
  if isFloatFmt e.fmt && (ffmt e.fmt).isNan a then .ok (e.count + 1)
  else
    match store with
    | some b => .ok ((boundaries e.fmt e.count b).filter fun x => atOrBelow e.fmt x a).length
    | none =>
      let g := 512 / w
      match s.bucketSearch t e a g 13 0 (ceilDiv e.count g) with
      | .error h => .error h
      | .ok 0 => .ok 0
      | .ok (lo + 1) =>
        match s.granule t (e.base + 64 * lo) (min 64 (e.count * w / 8 - 64 * lo)) with
        | .error h => .error h
        | .ok b => .ok (lo * g + ((boundaries e.fmt (min g (e.count - lo * g)) b).filter fun x => atOrBelow e.fmt x a).length)

/-- A BUCKET table that the boundary store holds (R127). -/
def TabEntry.stored (e : TabEntry) : Bool := ceilDiv (e.count * fmtBits e.fmt) 8 ≤ 4096

/-! ## Hash tables -/

def emptyKey : Nat := 2 ^ 64 - 1
def tombstone : Nat := 2 ^ 64 - 2

/-- Home bucket (R130). -/
def TabEntry.bucketOf (e : TabEntry) (k : Nat) : Nat := (khash (BitVec.ofNat 64 k) (BitVec.ofNat 64 e.seed)).toNat % e.count

/-- Slab offsets of a way's key, payload and age (R128). -/
def TabEntry.keyAt (e : TabEntry) (b w : Nat) : Nat := e.base + 64 * b + 8 * w
def TabEntry.payAt (e : TabEntry) (b w : Nat) : Nat := e.base + 64 * e.count + 64 * b + 8 * w
def TabEntry.ageAt (e : TabEntry) (b w : Nat) : Nat := e.base + 64 * e.count * (1 + e.payload.toNat) + 8 * b + w

/-- Valid bit of a bucket of a member copy (R144). -/
def Partition.replicaValid (x : Partition) (t n b : Nat) : Bool :=
  match x.replicas.find? (·.tile == t) with
  | none => true
  | some r => r.flips.contains (n, b) == r.lost

/-- Write the valid bit of a bucket of a member copy. -/
def Partition.setReplica (x : Partition) (t n b : Nat) (valid : Bool) : Partition :=
  let r := (x.replicas.find? (·.tile == t)).getD { tile := t, lost := false, flips := [] }
  let fs := r.flips.filter (· != (n, b))
  { x with replicas :=
      { r with flips := if valid == r.lost then (n, b) :: fs else fs } :: x.replicas.filter (·.tile != t) }

/-- The eight keys of a bucket; a member's invalid bucket stalls the beat (R145). -/
def State.bucketKeys (s : State) (p : Port) (t : Nat) (e : TabEntry) (b : Nat) : Except Halt (List Nat) :=
  if e.replica && !e.isHome && !s.parts[p].replicaValid t e.table b then .error (.fetch e.table b)
  else
    match s.granule t (e.keyAt b 0) 64 with
    | .error h => .error h
    | .ok bs => .ok ((List.range 8).map fun j => field bs (8 * j) 8)

/-- A way in the visit order of a window (R130, R132): position 8 i + way for window index i, and the bucket. -/
structure Place5 where
  pos : Nat
  bucket : Nat
  deriving DecidableEq, Repr

/-- The ways that hold key k in visit order, from window index i on, of the window that starts at bucket h; a reserved key
visits as any other and matches no way (R130, log 92). -/
def State.visit (s : State) (p : Port) (t : Nat) (e : TabEntry) (h k : Nat) : Nat → Nat → Except Halt (List Place5)
  | 0, _ => .ok []
  | n + 1, i =>
    let b := (h + i) % e.count
    match s.bucketKeys p t e b with
    | .error h => .error h
    | .ok ks =>
      let here := (ks.zipIdx.filter fun x => x.1 == k && k < tombstone).map fun x => (⟨8 * i + x.2, b⟩ : Place5)
      if ks.contains emptyKey then .ok here
      else
        match s.visit p t e h k n (i + 1) with
        | .error h => .error h
        | .ok r => .ok (here ++ r)

/-- What a match returns (R131): its payload, or its entry reference. -/
def State.matchValue (s : State) (t : Nat) (e : TabEntry) (m : Place5) : Except Halt Nat :=
  if e.payload then
    match s.granule t (e.payAt m.bucket (m.pos % 8)) 8 with
    | .error h => .error h
    | .ok b => .ok (leNat b)
  else .ok (8 * m.bucket + m.pos % 8)

/-- Result of a lookup of one element: the value, whether it hit, the cursor it leaves, none when exhausted (R131, R132). -/
structure Looked where
  value : Nat
  hit : Bool
  cursor : Option Place5
  deriving DecidableEq, Repr

def TabEntry.missed (e : TabEntry) : Looked := { value := e.miss, hit := false, cursor := none }

/-- The match at the head of a list. -/
def State.found (s : State) (t : Nat) (e : TabEntry) : List Place5 → Except Halt Looked
  | [] => .ok e.missed
  | m :: _ =>
    match s.matchValue t e m with
    | .error h => .error h
    | .ok v => .ok { value := v, hit := true, cursor := some m }

/-- PROBE of one element (R131). -/
def State.probe (s : State) (p : Port) (t : Nat) (e : TabEntry) (k skip : Nat) : Except Halt Looked :=
  match s.visit p t e (e.bucketOf k) k e.window 0 with
  | .error h => .error h
  | .ok ms => s.found t e (ms.drop (skip % 64))

/-- PROBE_NEXT of one element: from the way after the cursor on, in the cursor's bucket and the buckets of its window that
follow, whatever key it reads (R132). -/
def State.probeNext (s : State) (p : Port) (t : Nat) (e : TabEntry) (k : Nat) (cur : Option Place5) : Except Halt Looked :=
  match cur with
  | none => .ok e.missed
  | some c =>
    let i := c.pos / 8
    match s.visit p t e (c.bucket + e.count - i % e.count) k (e.window - i) i with
    | .error h => .error h
    | .ok ms => s.found t e (ms.filter fun m => c.pos < m.pos)

/-- Every way of a key's window in visit order: bucket, way and key (R133, R134). -/
def State.windowWays (s : State) (p : Port) (t : Nat) (e : TabEntry) (k : Nat) :
    Nat → Nat → Except Halt (List (Nat × Nat × Nat))
  | 0, _ => .ok []
  | n + 1, i =>
    let b := (e.bucketOf k + i) % e.count
    match s.bucketKeys p t e b with
    | .error h => .error h
    | .ok ks =>
      match s.windowWays p t e k n (i + 1) with
      | .error h => .error h
      | .ok r => .ok ((ks.zipIdx.map fun x => (b, x.2, x.1)) ++ r)

/-- Store a pair in a way: the key where it is new, the payload, age 0. -/
def State.setWay (s : State) (t : Nat) (e : TabEntry) (b w : Nat) (key : Option Nat) (pay : Nat) : State :=
  let s1 := key.elim s fun k => s.slabPut t (e.keyAt b w) (leBytes 8 k)
  let s2 := if e.payload then s1.slabPut t (e.payAt b w) (leBytes 8 pay) else s1
  if e.ageing then s2.slabPut t (e.ageAt b w) [0] else s2

/-- BUILD of one element on a HASH table: it reads its window, whatever its key (R134); the state and the bucket stored to, none
where nothing is stored (R133). -/
def State.buildHash (s : State) (p : Port) (t : Nat) (e : TabEntry) (k pay : Nat) : Except Halt (State × Option Nat) :=
  match s.windowWays p t e k e.window 0 with
  | .error h => .error h
  | .ok ws =>
    if tombstone ≤ k then .ok (s, none)
    else
      match (if e.multi then none else ws.find? (·.2.2 == k)) with
      | some (b, w, _) => .ok (s.setWay t e b w none pay, some b)
      | none =>
        match ws.find? (fun x => tombstone ≤ x.2.2) with
        | some (b, w, _) => .ok (s.setWay t e b w (some k) pay, some b)
        | none => .ok (s, none)

/-! ## Grace staging (R136 to R138) -/

/-- A unit for a stack and offset of the partition's range, with its bytes. -/
structure SpillUnit where
  stack : Nat
  off : Nat
  data : List Byte
  deriving DecidableEq, Repr

/-- Write out the staging buffer of grace partition g as the next unit of its region (R137). The payload of a padding pair is 0,
and the buffer's bytes stay in the slab as they stood (log 93); a unit that passes SPILL_STRIDE is LIMIT even where its region
passes the partition's range (R138, log 94). -/
def State.spillBuffer (s : State) (p : Port) (t : Nat) (e : TabEntry) (g pairs : Nat) : Except Halt (State × SpillUnit) :=
  match s.granule t (e.countBase + 8 * g + 4) 4, s.granule t (e.base + 1024 * g) 1024 with
  | .error h, _ | _, .error h => .error h
  | .ok ub, .ok buf =>
    let units := leNat ub
    let region := e.spillOff + g / 8 * e.spillStride
    if e.spillStride < 1024 * (units + 1) then .error (.fail .limit)
    else if s.hbmRange p < region + e.spillStride then .error (.fail .bounds)
    else
      let pad := (List.range (64 - pairs)).flatMap fun _ => List.replicate 8 (0xFF : Byte) ++ List.replicate 8 0
      .ok (s.slabPut t (e.countBase + 8 * g + 4) (leBytes 4 (units + 1)),
        { stack := g % 8, off := region + 1024 * units, data := buf.take (16 * pairs) ++ pad })

/-- BUILD of one element on a GRACE table: a pair joins its staging buffer, of which `held` counts the pairs; a full buffer
leaves as a unit. -/
def State.buildGrace (s : State) (p : Port) (t : Nat) (e : TabEntry) (k pay held : Nat) :
    Except Halt (State × Nat × Option SpillUnit) :=
  let g := (khash (BitVec.ofNat 64 k) (BitVec.ofNat 64 e.seed)).toNat / 2 ^ 56
  match s.granule t (e.countBase + 8 * g) 4 with
  | .error h => .error h
  | .ok pb =>
    let s1 := (s.slabPut t (e.base + 1024 * g + 16 * held) (leBytes 8 k ++ leBytes 8 pay)).slabPut t (e.countBase + 8 * g)
      (leBytes 4 (leNat pb + 1))
    if held + 1 < 64 then .ok (s1, held + 1, none)
    else
      match s1.spillBuffer p t e g 64 with
      | .error h => .error h
      | .ok (s2, u) => .ok (s2, 0, some u)

/-- Grace partition of a key. -/
def TabEntry.graceOf (e : TabEntry) (k : Nat) : Nat := (khash (BitVec.ofNat 64 k) (BitVec.ofNat 64 e.seed)).toNat / 2 ^ 56

end Sys2Proof.Machine
end

