-- ==== Sys2Proof/Machine/Beat.lean ====
section
/-! DEFINITION. What the stage words of one beat do: operands, enables, draws, lookups, compaction (04 R93 to R119,
05 R125 to R138). Slab and mesh grants of the beat are in Machine/Pass.lean. -/

namespace Sys2Proof.Machine

/-- What a beat is given and does not change: the partition, the tile, the flow of its item, the context of its pipeline, the
TILE_PROG record, the arguments, the beat index, and the boundary stores of the pass. -/
structure BeatArgs where
  p : Port
  tile : Nat
  key : Nat
  flow : Nat
  ctx : RimeCtx
  prog : TileProg
  args : PassArgs
  beat : Nat
  stores : List (Nat × List Byte)
  deriving DecidableEq, Repr

/-- What the words of a beat change: registers, masks, the slab (by BUILD), the cursors of each table and SRC_A (05 R132), the
staging buffers, the streams of the COMPACT words, the units to spill with their route entry, and the buckets of home tables
stored to: table, bucket, MEMBERS. -/
structure Beat where
  s : State
  vr : Vector VReg 64
  pm : Vector PMask 7
  cursors : List (Nat × Nat × List (Option Place5))
  staged : List Staging
  buffers : List (List Nat)
  counts : List Nat
  spills : List (Nat × SpillUnit)
  stored : List (Nat × Nat × Nat)
  deriving DecidableEq, Repr

/-! ## Registers and masks -/

def Beat.reg (x : Beat) (r : Nat) : VReg := x.vr[Fin.ofNat 64 r]
def Beat.setReg (x : Beat) (r : Nat) (v : VReg) : Beat := { x with vr := x.vr.set (Fin.ofNat 64 r) v }

/-- Write PMn, n from 1 to 7; PM0 cannot be written (R95). -/
def Beat.setMask (x : Beat) (n : Nat) (m : PMask) : Beat :=
  if n = 0 then x else { x with pm := x.pm.set (Fin.ofNat 7 (n - 1)) m }

/-- Elements where enabled, the earlier ones elsewhere (R96). -/
def merge (en : List Bool) (new old : List α) : List α :=
  (en.zip (new.zip old)).map fun t => if t.1 then t.2.1 else t.2.2

/-- Write the destination register of a word under its enables (R96). -/
def Beat.write (x : Beat) (w : SWord) (rs : List Nat) : Beat :=
  let k := fmtBits w.fmt
  x.setReg w.dst (unlanes k (merge (enables k (predMask x.pm w.pred)) rs (lanes k (x.reg w.dst))))

/-- Write a mask under the word's enables (R95, R96). -/
def Beat.writeMask (x : Beat) (w : SWord) (n : Nat) (bs : List Bool) : Beat :=
  let k := fmtBits w.fmt
  x.setMask n (maskOfLanes k (merge (enables k (predMask x.pm w.pred)) bs (enables k (maskOf x.pm n))))

/-! ## Operands and draws -/

/-- Constant k of the pass, its low n bits (Table 4.5, Table 4.6). -/
def Beat.constant (x : Beat) (c : BeatArgs) (k n : Nat) : Except Halt Nat :=
  match constBase c.prog.binds with
  | none => .error (.fail .bounds)
  | some base =>
    match x.s.granule c.tile (base + 8 * k) 8 with
    | .error h => .error h
    | .ok b => .ok (leNat b % 2 ^ n)

/-- Operand B of every element (Table 4.6). Without IMM_B and CONST_B it is VR[SRC_B]: a word has no form that gives no B
(R115, log 90). -/
def Beat.operandB (x : Beat) (c : BeatArgs) (w : SWord) : Except Halt (List Nat) :=
  let k := fmtBits w.fmt
  if w.immB then .ok (List.replicate (8192 / k) (ofSigned k (toSigned 14 w.imm)))
  else if w.constB then
    match x.constant c w.imm k with
    | .error h => .error h
    | .ok v => .ok (List.replicate (8192 / k) v)
  else if w.usesB then .ok (lanes k (x.reg w.srcB))
  else .ok (List.replicate (8192 / k) 0)

/-- Rime outputs of element k of a word (R109, R110). -/
def BeatArgs.draw (c : BeatArgs) (stream k d : Nat) : Quad :=
  if idxRow c.prog.passCtrl then c.ctx.rime stream ((c.args.s0 + c.beat) % 2 ^ 48) k d
  else c.ctx.rime stream c.args.s0 ((c.args.e0 + c.beat * epbOf c.prog.passCtrl + k) % 2 ^ 40) d

/-- How element k of a word in a slot rounds (R108, R109). -/
def BeatArgs.rounding (c : BeatArgs) (w : SWord) (slot k : Nat) : Rounding :=
  { rnd := w.rnd, sat := w.sat, draw := if w.stochastic then (c.draw 3 k slot).w0.toNat / 2 ^ 8 else 0 }

/-- RBITS and RUNIF (Table 4.7). -/
def BeatArgs.random (c : BeatArgs) (o : WOp) (w : SWord) (k : Nat) : Nat :=
  let q := c.draw 5 k w.imm
  if o == .runif then fp32.out rne (.fin false (q.w0.toNat / 2 ^ 8) (-24))
  else (q.w0.toNat + q.w1.toNat * 2 ^ 32) % 2 ^ fmtBits w.fmt

/-! ## Words that compute -/

/-- Run a check over the elements that are enabled; others give 0. -/
def eachEnabled (g : Nat → Except Halt Nat) : List (Bool × Nat) → Except Halt (List Nat)
  | [] => .ok []
  | (e, a) :: r =>
    match (if e then g a else .ok 0), eachEnabled g r with
    | .ok v, .ok vs => .ok (v :: vs)
    | .error h, _ | _, .error h => .error h

/-- An elementwise word. -/
def Beat.elementWord (x : Beat) (c : BeatArgs) (slot : Nat) (w : SWord) (o : WOp) : Except Halt Beat :=
  let k := fmtBits w.fmt
  let two (i : Nat) : Except Halt Nat := if o.immUse == .constant then x.constant c (w.imm + i) k else .ok 0
  match x.operandB c w, two 0, two 1 with
  | .ok bs, .ok c0, .ok c1 =>
    let as := lanes k (x.reg w.srcA)
    let ds := lanes k (x.reg w.dst)
    .ok (x.write w (((as.zip (bs.zip ds)).zipIdx).map fun t =>
      element o w.fmt (c.rounding w slot t.2) t.1.1 t.1.2.1 t.1.2.2 c0 c1))
  | .error h, _, _ | _, .error h, _ | _, _, .error h => .error h

/-- CVT (R114). -/
def Beat.cvt (x : Beat) (c : BeatArgs) (slot : Nat) (w : SWord) : Beat :=
  let src := w.cvtSrc
  let n := min (fmtVl src) (fmtVl w.fmt)
  let first := w.cvtPart * n
  let from_ := if fmtVl w.fmt < fmtVl src then first else 0
  let to_ := if fmtVl src < fmtVl w.fmt then first else 0
  let as := ((lanes (fmtBits src) (x.reg w.srcA)).drop from_).take n
  let rs := as.zipIdx.map fun t => convert src w.fmt (c.rounding w slot (first + t.2)) t.1
  let ds := lanes (fmtBits w.fmt) (x.reg w.dst)
  x.write w (ds.take to_ ++ rs ++ ds.drop (to_ + n))

/-- A compare (Table 4.7). -/
def Beat.compareWord (x : Beat) (c : BeatArgs) (w : SWord) (o : WOp) : Except Halt Beat :=
  match x.operandB c w with
  | .error h => .error h
  | .ok bs =>
    .ok (x.writeMask w (w.dst % 8) (((lanes (fmtBits w.fmt) (x.reg w.srcA)).zip bs).map fun t => compare o w.fmt t.1 t.2))

/-- Predicate logic. -/
def Beat.maskWord (x : Beat) (w : SWord) (o : WOp) : Beat :=
  let a := maskOf x.pm (w.srcA % 8)
  let b := maskOf x.pm (w.srcB % 8)
  let r := match o with
    | .pand => a &&& b
    | .por => a ||| b
    | .pxor => a ^^^ b
    | _ => ~~~a
  x.writeMask w (w.dst % 8) (enables 4 r)

/-- MOV, SEL, BCAST, IOTA and PERM. -/
def Beat.moveWord (x : Beat) (c : BeatArgs) (w : SWord) (o : WOp) : Except Halt Beat :=
  let k := fmtBits w.fmt
  let vl := 8192 / k
  let as := lanes k (x.reg w.srcA)
  match o with
  | .sel =>
    match x.operandB c w with
    | .error h => .error h
    | .ok bs => .ok (x.setReg w.dst (unlanes k (merge (enables k (predMask x.pm w.pred)) as bs)))
  | .bcast => .ok (x.write w (List.replicate vl (as.getD (w.imm % vl) 0)))
  | .iota => .ok (x.write w ((List.range vl).map (· % 2 ^ k)))
  | .perm => .ok (x.write w ((lanes k (x.reg w.srcB)).map fun b => as.getD (b % vl) 0))
  | _ => .ok (x.write w as)

/-- A reduction (R119). -/
def Beat.reduceWord (x : Beat) (w : SWord) (o : WOp) : Beat :=
  let k := fmtBits w.fmt
  let m := predMask x.pm w.pred
  let d := (x.reg w.dst).toNat
  let xs := (lanes k (x.reg w.srcA)).zip (enables k m)
  match o with
  | .rsum => x.setReg w.dst (setLow 32 (x.reg w.dst) (reduceSum w.fmt w.sat (d % 2 ^ 32) xs))
  | .rcount => x.setReg w.dst (setLow 32 (x.reg w.dst) (reduceCount w.sat (d % 2 ^ 32) m))
  | _ => x.setReg w.dst (setLow k (x.reg w.dst) (reduceMinMax o w.fmt (d % 2 ^ k) xs))

/-! ## Compaction (R117) -/

/-- The base-16 digits of an element. -/
def digits (k v : Nat) : List Nat := (List.range (k / 4)).map fun i => bitsOf v (4 * i) 4

/-- Bytes of pairs of digits, the lower first. -/
def bytesOfDigits : List Nat → List Byte
  | a :: b :: r => BitVec.ofNat 8 (a + 16 * b) :: bytesOfDigits r
  | [a] => [BitVec.ofNat 8 a]
  | [] => []

/-- Whether binding b takes the stream of register r: OUT_SLAB or OUT_MESH of that register. -/
def Binding.streams (b : Binding) (r : Nat) : Bool := (b.kind == 3 || b.kind == 4) && b.reg == r

/-- The COMPACT words of a pass in word order. -/
def TileProg.compacts (g : TileProg) : List SWord := ((g.words.take g.slots).map SWord.of).filter (·.wop == some .compact)

/-- COMPACT, the j-th of its pass. -/
def Beat.compact (x : Beat) (c : BeatArgs) (w : SWord) (j : Nat) : Beat :=
  let k := fmtBits w.fmt
  let kept := ((lanes k (x.reg w.srcA)).zip (enables k (predMask x.pm w.pred))).filter (·.2)
  let ds := kept.flatMap fun t => digits k t.1
  { x with
    buffers := (c.prog.binds.zip x.buffers).map fun t => if t.1.streams w.dst then t.2 ++ ds else t.2
    counts := x.counts.zipIdx.map fun t => if t.2 == j then t.1 + kept.length else t.1 }

/-! ## Lookups (05 R125 to R138, R144, R145) -/

/-- DIRECT and BKT. -/
def Beat.readWord (x : Beat) (c : BeatArgs) (w : SWord) (o : WOp) : Except Halt Beat :=
  let n := w.imm % 256
  match x.s.tabEntry c.tile n [if o == .direct then 1 else 3] w.fmt c.flow with
  | .error h => .error h
  | .ok e =>
    let k := fmtBits w.fmt
    let look (a : Nat) : Except Halt Nat :=
      if o == .direct then x.s.direct c.tile e a
      else x.s.bkt c.tile e ((c.stores.find? (·.1 == n)).map (·.2)) a
    match eachEnabled look ((enables k (predMask x.pm w.pred)).zip (lanes k (x.reg w.srcA))) with
    | .error h => .error h
    | .ok rs => .ok (x.write w rs)

/-- Look up the elements that are enabled. -/
def lookAll (g : Nat → Nat → Option Place5 → Except Halt Looked) (miss : Looked) :
    List (Bool × Nat × Nat × Option Place5) → Except Halt (List Looked)
  | [] => .ok []
  | (e, a, b, cur) :: r =>
    match (if e then g a b cur else .ok { miss with cursor := cur }), lookAll g miss r with
    | .ok v, .ok vs => .ok (v :: vs)
    | .error h, _ | _, .error h => .error h

/-- PROBE and PROBE_NEXT (R131, R132). -/
def Beat.probeWord (x : Beat) (c : BeatArgs) (w : SWord) (o : WOp) : Except Halt Beat :=
  let n := w.imm % 256
  match x.s.tabEntry c.tile n [2] w.fmt c.flow with
  | .error h => .error h
  | .ok e =>
    let named (t : Nat × Nat × List (Option Place5)) : Bool := t.1 == n && t.2.1 == w.srcA
    let old := if o == .probe then List.replicate 128 none else ((x.cursors.find? named).map (·.2.2)).getD (List.replicate 128 none)
    let en := enables 64 (predMask x.pm w.pred)
    let rows := en.zip ((lanes 64 (x.reg w.srcA)).zip ((lanes 64 (x.reg w.srcB)).zip old))
    let look (a b : Nat) (cur : Option Place5) : Except Halt Looked :=
      if o == .probe then x.s.probe c.p c.tile e a b else x.s.probeNext c.p c.tile e a cur
    match lookAll look e.missed rows with
    | .error h => .error h
    | .ok rs =>
      let y := (x.write w (rs.map (·.value))).writeMask w (bitsOf w.imm 8 3) (rs.map (·.hit))
      .ok { y with cursors := (n, w.srcA, rs.map (·.cursor)) :: x.cursors.filter fun t => !named t }

/-- Pairs held in the staging buffer of a grace partition. -/
def Beat.held (x : Beat) (n g : Nat) : Nat := ((x.staged.find? fun z => z.table == n && z.grace == g).map (·.pairs)).getD 0

/-- Write that count, for a pair that the item of the pass put in. -/
def Beat.setHeld (x : Beat) (c : BeatArgs) (n g v : Nat) : Beat :=
  let here (z : Staging) : Bool := z.table == n && z.grace == g
  let users := ((x.staged.find? here).elim [] (·.users)).filter (· != c.key) ++ [c.key]
  let rest := x.staged.filter fun z => !here z
  { x with staged := if v = 0 then rest else { port := c.p, table := n, grace := g, pairs := v, users := users } :: rest }

/-- A BUILD element that stores nothing (R133). -/
def Beat.overflow (x : Beat) (c : BeatArgs) : Beat := { x with s := x.s.countP c.p .slabOverflow 1 }

/-- BUILD of one element: the beat and 1 when the pair was stored (R133, R136). -/
def Beat.buildOne (x : Beat) (c : BeatArgs) (e : TabEntry) (a b : Nat) : Except Halt (Beat × Nat) :=
  if tombstone ≤ a then .ok (x.overflow c, 0)
  else if e.kind = 4 then
    let g := e.graceOf a
    match x.s.buildGrace c.p c.tile e a b (x.held e.table g) with
    | .error h => .error h
    | .ok (s1, v, u) =>
      let y := { x with s := s1 }.setHeld c e.table g v
      .ok ({ y with spills := y.spills ++ (u.toList.map fun z => (e.route, z)) }, 1)
  else
    match x.s.buildHash c.p c.tile e a b with
    | .error h => .error h
    | .ok (_, none) => .ok (x.overflow c, 0)
    | .ok (s1, some bk) =>
      .ok ({ x with s := s1, stored := if e.replica then x.stored ++ [(e.table, bk, e.members)] else x.stored }, 1)

/-- BUILD of the elements in lane order: the beat and each element's result. -/
def Beat.buildAll (c : BeatArgs) (e : TabEntry) : List (Bool × Nat × Nat) → Beat → Except Halt (Beat × List Nat)
  | [], x => .ok (x, [])
  | (en, a, b) :: r, x =>
    match (if en then x.buildOne c e a b else .ok (x, 0)) with
    | .error h => .error h
    | .ok (y, v) =>
      match Beat.buildAll c e r y with
      | .error h => .error h
      | .ok (z, vs) => .ok (z, v :: vs)

/-- BUILD (R133, R136, R144). -/
def Beat.buildWord (x : Beat) (c : BeatArgs) (w : SWord) : Except Halt Beat :=
  match x.s.tabEntry c.tile (w.imm % 256) [2, 4] w.fmt c.flow with
  | .error h => .error h
  | .ok e =>
    if e.replica && !e.isHome then .error (.fail .bounds)
    else
      let en := enables 64 (predMask x.pm w.pred)
      match Beat.buildAll c e (en.zip ((lanes 64 (x.reg w.srcA)).zip (lanes 64 (x.reg w.srcB)))) x with
      | .error h => .error h
      | .ok (y, vs) => .ok (y.write w vs)

/-! ## All words of a beat -/

/-- Word `w` in slot `slot`, the j-th COMPACT of the pass when it is one (R100). -/
def Beat.word (x : Beat) (c : BeatArgs) (slot j : Nat) (w : SWord) : Except Halt Beat :=
  match w.wop with
  | none | some .nop => .ok x
  | some o =>
    match o with
    | .eq | .ne | .lt | .le | .gt | .ge | .isnan => x.compareWord c w o
    | .pand | .por | .pxor | .pnot => .ok (x.maskWord w o)
    | .cvt => .ok (x.cvt c slot w)
    | .direct | .bkt => x.readWord c w o
    | .probe | .probeNext => x.probeWord c w o
    | .build => x.buildWord c w
    | .mov | .sel | .bcast | .iota | .perm => x.moveWord c w o
    | .compact => .ok (x.compact c w j)
    | .rsum | .rmin | .rmax | .rcount => .ok (x.reduceWord w o)
    | .rbits | .runif => .ok (x.write w ((List.range (fmtVl w.fmt)).map fun k => c.random o w k))
    | _ => x.elementWord c slot w o

/-- The words of a pass in order (R100): its index is its slot (02 R43). -/
def Beat.words (c : BeatArgs) : Nat → Nat → List SWord → Beat → Except Halt Beat
  | _, _, [], x => .ok x
  | slot, j, w :: ws, x =>
    match x.word c slot j w with
    | .error h => .error h
    | .ok y => Beat.words c (slot + 1) (j + (w.wop == some .compact).toNat) ws y

end Sys2Proof.Machine
end

