-- ==== Sys2Proof/Machine/Pass.lean ====
section
/-! DEFINITION. Passes and beats: dispatch on a tile, input bindings, the words, output bindings with their slab and mesh
grants, the stores after the last beat, NEXT_PASS, the end of an item on a tile (04 R97 to R106, R117, R118, R121 to R123;
05 R127, R136 to R138, R142 to R145). -/

namespace Sys2Proof.Machine

/-! ## Programs -/

/-- The TILE_PROG record of a tile, pipeline and pass. -/
def State.progOf (s : State) (p : Port) (t pipeline pass : Nat) : Option TileProg :=
  s.parts[p].image.bind fun im => im.progs.find? fun g => g.tile == t && g.pipeline == pipeline && g.pass == pass

/-- The entry pass of a pipeline on a tile: its record of lowest PASS (02 R43). -/
def State.entryPass (s : State) (p : Port) (t pipeline : Nat) : Option TileProg :=
  s.parts[p].image.bind fun im =>
    let gs := im.progs.filter fun g => g.tile == t && g.pipeline == pipeline
    gs.find? fun g => gs.all fun h => g.pass ≤ h.pass

/-- A pass before its first beat. -/
def PassRun.start (w : TileWork) (g : TileProg) : PassRun :=
  { work := w, pass := g.pass, beat := 0, started := false, buffers := g.binds.map fun _ => []
    counts := g.compacts.map fun _ => 0, emitted := g.binds.map fun _ => 0, recent := [], stores := [] }

/-- TILE_PASS (R97, R123): a tile in RUN that runs nothing takes the oldest pass of its dispatch queue, as long as the ledger
lets it run what it was given (15 R364, 18 R429); its registers and masks are zero. -/
def State.tilePass (s : State) (t : Tile) : State :=
  match s.tiles[t].run, s.tiles[t].queue with
  | none, w :: q =>
    match s.entryPass w.port t.val w.pipeline with
    | none => s
    | some g =>
      if s.clusterOper (t.val / 8) != .run || !s.mayRun ⟨.tile, t.val⟩ then s
      else s.updTile t fun x => { x with
        vr := Vector.replicate 64 0, pm := Vector.replicate 7 0, queue := q, run := some (PassRun.start w g) }
  | _, _ => s

def execTilePass (t : Tile) (s : State) : Host.Outcome State Fault Refusal := .next (s.tilePass t)

/-! ## Input bindings -/

/-- Bytes `old` at `o` laid over bytes `bs` at `off`. -/
def overlayAt (off : Nat) (bs : List Byte) (o : Nat) (old : List Byte) : List Byte :=
  bs.zipIdx.map fun t => if o ≤ off + t.2 then (old[off + t.2 - o]?).getD t.1 else t.1

/-- What a load of slab bytes sees of the vectors written in the last 31 beats, newest first: each may still be the old one
(R121, log 7). -/
def State.seen (off : Nat) : List (Nat × Nat × List Byte) → State → List Byte → State × List Byte
  | [], s, bs => (s, bs)
  | (_, o, old) :: r, s, bs =>
    if meets o 1024 off 1024 then
      let (n, s1) := s.takeFree
      State.seen off r s1 (if Config.seesOld n then overlayAt off bs o old else bs)
    else State.seen off r s bs

/-- Base of a binding in the slab, the displacement added (Table 4.5). -/
def Binding.slabBase (b : Binding) (d : Nat) : Nat := 64 * bitsOf b.param 0 19 + d

/-- Load one input binding's register (R100 step 1, R104, R122). -/
def Beat.load (c : BeatArgs) (recent : List (Nat × Nat × List Byte)) (b : Binding) (x : Beat) : Except Halt Beat :=
  if b.kind = 1 then
    let off := b.slabBase c.args.d + 1024 * c.beat
    match x.s.granule c.tile off 1024 with
    | .error h => .error h
    | .ok bs =>
      let (s1, v) := State.seen off recent x.s bs
      .ok ({ x with s := s1 }.setReg b.reg (vecOfBytes v))
  else if b.kind = 2 then
    let q : Fin 4 := Fin.ofNat 4 b.param
    match x.s.tiles[tix c.tile].rxq[q] with
    | [] => .ok x
    | pk :: rest =>
      let s1 := (x.s.updTile (tix c.tile) fun y => { y with rxq := y.rxq.set q rest }).creditOwed (tileStop c.tile) pk
      .ok ({ x with s := s1 }.setReg b.reg (vecOfBytes pk.data))
  else .ok x

/-- Load the bindings in order. -/
def Beat.loads (c : BeatArgs) (recent : List (Nat × Nat × List Byte)) : List Binding → Beat → Except Halt Beat
  | [], x => .ok x
  | b :: bs, x =>
    match x.load c recent b with
    | .error h => .error h
    | .ok y => Beat.loads c recent bs y

/-- Every IN_MESH binding finds a packet in its receive queue. -/
def State.packetsReady (s : State) (t : Tile) (bs : List Binding) : Bool :=
  (List.range 4).all fun q =>
    (bs.filter fun b => b.kind == 2 && b.param % 4 == q).length ≤ (s.tiles[t].rxq[(Fin.ofNat 4 q : Fin 4)]).length

/-! ## Output bindings -/

/-- What an output binding hands over: a slab store, or a packet along a DAT route-table entry. -/
inductive Emit where
  | store (off : Nat) (bs : List Byte)
  | push (entry : Nat) (bs : List Byte)
  deriving DecidableEq, Repr

/-- Vector v of a binding: to the slab or to the mesh (Table 4.5, R103). -/
def Binding.emit (b : Binding) (d v : Nat) (bs : List Byte) : Emit :=
  if b.kind = 4 then .push (b.param % 512) bs else .store (b.slabBase d + 1024 * v) bs

/-- Whole vectors at the head of a stream of digits, and the digits that are left (R117). -/
def wholeVectors : Nat → List Nat → List (List Byte) × List Nat
  | 0, ds => ([], ds)
  | n + 1, ds =>
    if ds.length < 2048 then ([], ds)
    else
      let (vs, r) := wholeVectors n (ds.drop 2048)
      (bytesOfDigits (ds.take 2048) :: vs, r)

/-- Binding b carries the stream of a COMPACT word of the pass. -/
def TileProg.streams (g : TileProg) (b : Binding) : Bool := g.compacts.any fun w => b.streams w.dst

/-- The per-beat output of binding b, with its stream and the vectors emitted before: what it hands over, the stream left, the
vectors emitted (R100 step 3, R103). -/
def Beat.output (x : Beat) (c : BeatArgs) (b : Binding) (buf : List Nat) (n : Nat) : List Emit × List Nat × Nat :=
  if c.prog.streams b then
    let (vs, r) := wholeVectors 3 buf
    (vs.zipIdx.map fun t => b.emit c.args.d (n + t.2) t.1, r, n + vs.length)
  else if b.kind = 3 || b.kind = 4 then ([b.emit c.args.d c.beat (vecToBytes (x.reg b.reg))], buf, n)
  else ([], buf, n)

/-- The outputs of every binding. -/
def Beat.outputs (x : Beat) (c : BeatArgs) (emitted : List Nat) : List (List Emit × List Nat × Nat) :=
  (c.prog.binds.zip (x.buffers.zip emitted)).map fun t => x.output c t.1 t.2.1 t.2.2

/-- A store lies within the slab (R104). -/
def Emit.inSlab : Emit → Bool
  | .store off bs => off + bs.length ≤ slabBytes
  | .push _ _ => true

/-- Make the stores. -/
def State.stores (t : Nat) : List Emit → State → State
  | [], s => s
  | .store off bs :: r, s => State.stores t r (s.slabPut t off bs)
  | .push _ _ :: r, s => State.stores t r s

/-- The messages of some emits; none when one of them finds no quota (Table 14.10, step 2). -/
def Partition.pushes (x : Partition) (tile key : Nat) (frame : Option FrameTag) : List Emit → Option (List Send)
  | [] => some []
  | .store _ _ :: r => x.pushes tile key frame r
  | .push entry bs :: r =>
    match x.sendAlong .push tile (some key) frame bs true (x.routeAt (tileStop tile) 3 entry), x.pushes tile key frame r with
    | some z, some zs => some (z :: zs)
    | _, _ => none

/-- The messages of staging buffers that leave (05 R136). -/
def Partition.spillSends (x : Partition) (tile key : Nat) (beat : Bool) : List (Nat × SpillUnit) → Option (List Send)
  | [] => some []
  | (entry, u) :: r =>
    match x.sendAlong (.spill u.stack u.off) tile (some key) none u.data beat (x.routeAt (tileStop tile) 3 entry),
      x.spillSends tile key beat r with
    | some z, some zs => some (z :: zs)
    | _, _ => none

/-- The invalidations of a bucket of a home table: one to every other member (05 R145). -/
def Partition.snoops (x : Partition) (tile key table bucket members : Nat) : List Nat → Option (List Send)
  | [] => some []
  | m :: ms =>
    if members.testBit m && m != tile then
      match x.sendAlong (.snoop table bucket) tile (some key) none [] false (x.routeTo (tileStop tile) 2 (tileStop m)),
        x.snoops tile key table bucket members ms with
      | some z, some zs => some (z :: zs)
      | _, _ => none
    else x.snoops tile key table bucket members ms

/-- The invalidations of several buckets, in order. -/
def Partition.snoopsAll (x : Partition) (tile key : Nat) : List (Nat × Nat × Nat) → Option (List Send)
  | [] => some []
  | (table, bucket, members) :: r =>
    match x.snoops tile key table bucket members (List.range 128), x.snoopsAll tile key r with
    | some a, some b => some (a ++ b)
    | _, _ => none

/-! ## Grants of a beat (R104) -/

/-- Two messages are the same but for their payload. -/
def Send.like (a b : Send) : Bool :=
  a.kind == b.kind && a.src == b.src && a.dst == b.dst && a.network == b.network && a.vc == b.vc && a.rxq == b.rxq

/-- The messages that hold the beat of a tile. -/
def Send.holdsBeat (t : Nat) (z : Send) : Bool := z.beat && z.tile == t

/-- Forget the messages that hold a tile's beat. -/
def State.releaseBeat (s : State) (p : Port) (t : Nat) : State := s.updPart p (·.dropWaiting (Send.holdsBeat t))

/-- The messages of a beat hold their counters: those that waited have all been granted, or every counter is free now. -/
def Partition.gate (x : Partition) (t : Nat) (zs : List Send) : Option Partition :=
  let mine := x.waiting.filter (Send.holdsBeat t)
  let sent := zs.map ({ · with granted := true })
  if !zs.isEmpty && mine.length == zs.length && (mine.zip zs).all (fun a => a.1.like a.2) then
    if mine.all (·.granted) then
      some { x with waiting := x.waiting.filter fun z => !Send.holdsBeat t z, flight := x.flight ++ sent }
    else none
  else
    match (x.dropWaiting (Send.holdsBeat t)).takeAll zs with
    | some y => some { y with flight := y.flight ++ sent }
    | none => none

/-- The beat waits for its messages (Table 14.10, step 3). -/
def Partition.await (x : Partition) (t : Nat) (zs : List Send) : Partition :=
  let mine := x.waiting.filter (Send.holdsBeat t)
  if mine.length == zs.length && (mine.zip zs).all fun a => a.1.like a.2 then x
  else
    let y := x.dropWaiting (Send.holdsBeat t)
    { y with waiting := y.waiting ++ zs }

/-! ## The end of a pass -/

/-- The item of a pass that ends with a status takes it, with the failing beat as Result0 (R99, Table 6.10); an ingest item
stops decoding. The first failure decides: a failing pass, or what ended the item before it (an ABORT, a DMA failure, malformed
input). -/
def Item.passFails (i : Item) (st : Status) (beat : Nat) : Item :=
  if i.abortedAt != 0 || !i.status.carriesOn then i
  else
    let j := { i with status := st, r0 := BitVec.ofNat 32 beat, r1 := 0 }
    if i.st == .inService && i.isIngest then { j with st := .completing, stepsLeft := i.openWindows } else j

/-- The tile is free of a pass. -/
def State.leaveTile (s : State) (t : Tile) (w : TileWork) (fail : Option (Status × Nat)) : State :=
  let s1 := (s.releaseBeat w.port t.val).updTile t ({ · with run := none })
  s1.updItem w.port w.key fun i =>
    let j := i.passOver w t.val
    match fail with
    | some (st, b) => j.passFails st b
    | none => j

/-- A beat ends its item: nothing of the beat is written (R104, R122). -/
def State.beatHalts (s : State) (t : Tile) (r : PassRun) (h : Halt) : State :=
  match h with
  | .fail st => s.leaveTile t r.work (some (st, r.beat))
  | .bad off =>
    (s.leaveTile t r.work (some (.uncorrectable, r.beat))).slabLost t.val off
  | .fetch _ _ => s

/-- The flow of the item that a pass belongs to. -/
def State.workFlow (s : State) (w : TileWork) : Nat := (s.item? w.port w.key).elim 0 (·.flow)

/-- The pass has ended: NEXT_PASS starts, or the item's work on the tile is over (R97). -/
def State.passDone (s : State) (t : Tile) (r : PassRun) (g : TileProg) : State :=
  match (if g.nextPass = 0xFF then none else s.progOf r.work.port t.val g.pipeline g.nextPass) with
  | some h => s.updTile t ({ · with run := some (PassRun.start r.work h) })
  | none => s.leaveTile t r.work none

/-! ## Stores after the last beat (R118) -/

/-- What is left in a stream, zero-filled. -/
def remainder (ds : List Nat) : List Byte := padTo 1024 (bytesOfDigits ds)

/-- The count block of R118. -/
def countBlock (counts : List Nat) : List Byte := padTo 64 ((counts.take 3).flatMap fun n => leBytes 4 (min n 0xFFFFFFFF))

/-- The stores after the last beat in their order: OUT_FINAL bindings, COMPACT remainders in word order, the count block. -/
def PassRun.finals (r : PassRun) (g : TileProg) (vr : Vector VReg 64) : List Emit :=
  let finals := (g.binds.filter (·.kind == 5)).map fun b =>
    Emit.store (b.slabBase r.work.args.d) (vecToBytes vr[Fin.ofNat 64 b.reg])
  let rest := (g.compacts.map (·.dst)).eraseDups.flatMap fun d =>
    (g.binds.zip (r.buffers.zip r.emitted)).flatMap fun t =>
      if t.1.streams d && !t.2.1.isEmpty then [t.1.emit r.work.args.d t.2.2 (remainder t.2.1)] else []
  let block := if bitsOf g.counts 23 1 = 1 then [Emit.store (64 * bitsOf g.counts 0 19 + r.work.args.d) (countBlock r.counts)]
    else []
  finals ++ rest ++ block

/-- An emit after the last beat can be made: its store lies in the slab, its packet has a quota. -/
def Partition.canEmit (x : Partition) (tile : Nat) (e : Emit) : Bool := e.inSlab && (x.pushes tile 0 none [e]).isSome

/-- The stores after the last beat (R118): those before the first that cannot be made stand, and that one ends the item with
BOUNDS. -/
def State.passFinals (s : State) (t : Tile) (r : PassRun) (g : TileProg) : State :=
  let p := r.work.port
  let es := r.finals g s.tiles[t].vr
  let made := es.takeWhile (s.parts[p].canEmit t.val)
  let zs := (s.parts[p].pushes t.val r.work.key r.work.frame made).getD []
  match s.parts[p].gate t.val zs with
  | none => s.updPart p (·.await t.val zs)
  | some x =>
    let s1 := State.stores t.val made (s.updPart p fun _ => x)
    if made.length < es.length then s1.beatHalts t r (.fail .bounds) else s1.passDone t r g

/-! ## A beat -/

/-- The arguments of a beat. -/
def State.beatArgs (s : State) (t : Tile) (r : PassRun) (g : TileProg) (stores : List (Nat × List Byte)) : BeatArgs :=
  let i := s.item? r.work.port r.work.key
  { p := r.work.port, tile := t.val, key := r.work.key, flow := s.workFlow r.work
    ctx := (i.bind (·.ctx)).getD (s.ctxOf r.work.port r.work.pipeline), prog := g, args := r.work.args, beat := r.beat
    stores := stores }

/-- The boundary stores of a pass: every bucket table of at most 4,096 bytes that its BKT words name (05 R127). -/
def State.boundaryStores (s : State) (t flow : Nat) : List SWord → Except Halt (List (Nat × List Byte))
  | [] => .ok []
  | w :: ws =>
    let n := w.imm % 256
    match (if w.wop == some .bkt then (s.tabEntry t n [3] w.fmt flow).toOption else none), s.boundaryStores t flow ws with
    | some e, .ok r =>
      if e.stored then
        match s.granule t e.base e.region with
        | .error h => .error h
        | .ok b => .ok ((n, b) :: r)
      else .ok r
    | none, r => r
    | _, .error h => .error h

/-- The slab vectors that a beat's OUT_SLAB stores overwrite, as they were. -/
def State.overwritten (s : State) (t beat : Nat) (es : List Emit) : List (Nat × Nat × List Byte) :=
  es.filterMap fun
    | .store off bs => some (beat, off, s.slabGet t off bs.length)
    | .push _ _ => none

/-- A beat that ran its words takes effect: stores, packets, invalidations (R100 step 3, R104, 05 R145). -/
def State.beatCommit (s : State) (t : Tile) (r : PassRun) (c : BeatArgs) (x : Beat) : State :=
  let p := c.p
  let outs := x.outputs c r.emitted
  let es := outs.flatMap (·.1)
  let part := s.parts[p]
  match part.pushes t.val c.key r.work.frame es, part.spillSends t.val c.key true x.spills, part.snoopsAll t.val c.key x.stored with
  | some a, some b, some ns =>
    if !es.all Emit.inSlab then s.beatHalts t r (.fail .bounds)
    else
      let zs := a ++ b
      match x.s.parts[p].gate t.val zs with
      | none => s.updPart p (·.await t.val zs)
      | some y =>
        let run := { r with
          beat := r.beat + 1, started := true, buffers := outs.map (·.2.1), counts := x.counts, emitted := outs.map (·.2.2)
          recent := (x.s.overwritten t.val r.beat es).reverse ++ r.recent.filter fun w => r.beat < w.1 + 31
          stores := c.stores }
        let s1 := x.s.updPart p fun _ => { y with waiting := y.waiting ++ ns }
        (State.stores t.val es s1).updTile t ({ · with vr := x.vr, pm := x.pm, run := some run, staging := x.staged })
  | _, _, _ => s.beatHalts t r (.fail .bounds)

/-- A beat stalls for a replica bucket: the READ of the bucket from its home stop, once (05 R145). -/
def State.refetch (s : State) (t : Tile) (r : PassRun) (table bucket : Nat) : State :=
  let p := r.work.port
  let part := s.parts[p]
  let asked := (part.waiting ++ part.flight).any fun z => z.tile == t.val && z.kind == .fetch table bucket
  if asked then s
  else
    let home := (TabEntry.of table (s.slabGet t.val (64 * table) 64)).home
    match part.sendAlong (.fetch table bucket) t.val (some r.work.key) none [] false (part.routeTo (tileStop t.val) 0 (tileStop home)) with
    | none => s.beatHalts t r (.fail .bounds)
    | some z => s.updPart p fun x => { x with waiting := x.waiting ++ [z] }

/-- One beat (R100). -/
def State.beat (s : State) (t : Tile) (r : PassRun) (g : TileProg) : State :=
  let ws := (g.words.take g.slots).map SWord.of
  match (if r.started then .ok r.stores else s.boundaryStores t.val (s.workFlow r.work) ws) with
  | .error h => s.beatHalts t r h
  | .ok stores =>
    let c := s.beatArgs t r g stores
    let x : Beat :=
      { s := s, vr := s.tiles[t].vr, pm := s.tiles[t].pm, cursors := [], staged := s.tiles[t].staging, buffers := r.buffers
        counts := r.counts, spills := [], stored := [] }
    match Beat.loads c r.recent g.binds x with
    | .error h => s.beatHalts t r h
    | .ok y =>
      match Beat.words c 0 0 ws y with
      | .error (.fetch n b) => s.refetch t r n b
      | .error h => s.beatHalts t r h
      | .ok z => s.beatCommit t r c z

/-- PASS_BEAT (R100): the next beat of the tile's pass, or the stores after its last beat; a beat waits for the packets its
IN_MESH bindings take. -/
def State.passBeat (s : State) (t : Tile) : State :=
  match s.tiles[t].run with
  | none => s
  | some r =>
    match s.progOf r.work.port t.val r.work.pipeline r.pass with
    | none => s
    | some g =>
      if s.clusterOper (t.val / 8) != .run then s
      else if r.beat < r.work.args.b then (if s.packetsReady t g.binds then s.beat t r g else s)
      else s.passFinals t r g

def execPassBeat (t : Tile) (s : State) : Host.Outcome State Fault Refusal := .next (s.passBeat t)

/-! ## The end of an item that staged pairs (05 R137) -/

/-- Insert a staging buffer in order of table and grace partition. -/
def insertStaging (a : Staging) : List Staging → List Staging
  | [] => [a]
  | b :: r => if a.table < b.table || (a.table == b.table && a.grace < b.grace) then a :: b :: r else b :: insertStaging a r

/-- Item k of the port put pairs into the buffer. -/
def Staging.usedBy (z : Staging) (p : Port) (k : Nat) : Bool := z.port == p && z.users.contains k

/-- Write out some staging buffers of a tile as units, in order; the first that cannot be written ends with its halt. -/
def State.flushBuffers (p : Port) (t key : Nat) : List Staging → State → State × Option Halt
  | [], s => (s, none)
  | z :: r, s =>
    match s.tabEntry t z.table [4] 11 0 with
    | .error h => (s, some h)
    | .ok e =>
      match s.spillBuffer p t e z.grace z.pairs with
      | .error h => (s, some h)
      | .ok (s1, u) =>
        match s.parts[p].spillSends t key false [(e.route, u)] with
        | none => (s, some (.fail .bounds))
        | some zs => State.flushBuffers p t key r (s1.updPart p fun x => { x with waiting := x.waiting ++ zs })

/-- The end of an item at a tile (05 R137): every buffer that it put pairs into leaves as a unit and is cleared. A unit that
cannot leave ends the item with its status (R138), whose Result0, the beat of a flush that has none, is a free value (log 95). -/
def State.flushTile (s : State) (p : Port) (k : Nat) (t : Tile) : State :=
  let mine := (s.tiles[t].staging.filter (·.usedBy p k)).foldr insertStaging []
  let (s1, h) := State.flushBuffers p t.val k mine s
  let s2 := s1.updTile t fun x => { x with staging := x.staging.filter fun z => !z.usedBy p k }
  match h with
  | none => s2
  | some (.bad off) =>
    let (n, s3) := s2.takeFree
    (s3.updItem p k (·.passFails .uncorrectable (Config.flushBeat n).toNat)).slabLost t.val off
  | some (.fail st) =>
    let (n, s3) := s2.takeFree
    s3.updItem p k (·.passFails st (Config.flushBeat n).toNat)
  | some (.fetch _ _) => s2

/-- ITEM_COMPLETE (15 R349, R352): an ended item writes out what it left in staging buffers (05 R137) and, once those units have
left too, its completion enters the staging FIFO. -/
def State.itemEnd (s : State) (p : Port) (k : Nat) : State :=
  match s.item? p k with
  | none => s
  | some i =>
    let ts := s.stagingTiles p k
    if s.ended p i && !ts.isEmpty then ts.foldl (fun a t => a.flushTile p k t) s else s.itemComplete p k

def execItemComplete (p : Port) (k : Nat) (s : State) : Host.Outcome State Fault Refusal := .next (s.itemEnd p k)

end Sys2Proof.Machine
end

