-- ==== Sys2Proof/Machine/Descriptor.lean ====
section
/-! DEFINITION. BAD_DESCRIPTOR (13 R302, R306): the byte offsets of the fields of a descriptor that break a rule of R8, R11,
R300 to R302, R312 or of the opcode's chapter. A rule that reads batch queues, streams, slabs or runtime tables is checked
when the item is served. -/

namespace Sys2Proof.Machine

/-- The offset of a field at fault. -/
def at? (off : Nat) (bad : Bool) : List Nat := if bad then [off] else []

/-- The lowest non-zero byte of a reserved range (R8). -/
def Item.resv (i : Item) (off n : Nat) : List Nat :=
  ((List.range n).find? fun k => i.fld (off + k) 1 != 0).elim [] fun k => [off + k]

/-- Bits of byte 1 that are defined for an opcode (13 Table 13.2 and the opcodes' chapters). -/
def flagMask (op : Nat) : Nat :=
  match op with
  | 0x01 => 0x0F | 0x03 => 0x1D | 0x04 => 0x1F | 0x05 => 0x7D | 0x06 => 0x2D | 0x07 => 0x3D | 0x10 => 0x1D | 0x14 => 0x1D
  | 0x1F => 0x01 | 0x22 => 0x3D | 0x23 => 0x2D | _ => 0x0D

/-- Faults of bytes 0 to 15 (Table 13.2, R301, R302, R312). -/
def State.commonFaults (s : State) (p : Port) (i : Item) : List Nat :=
  let op := i.opcode
  let b1 := i.fld 1 1
  at? 1 (Nat.land b1 (255 - flagMask op) != 0) ++ at? 3 (4 ≤ i.fld 3 1) ++
  at? 4 (i.token = 0 || s.ports[p].items.any fun j => j.fn == i.fn && j.token == i.token && !j.orphan) ++
  at? 11 (i.fld 11 1 != 0) ++
  (if isPortOp op then at? 2 (i.pipeline != 0) ++ at? 3 (i.cls != 0) ++ at? 8 (i.flow != 0) else []) ++
  at? 12 (op = opAbort && i.after != 0)

/-! ## Fields of one opcode -/

/-- An address field read in a space: its space is defined and its reserved bits are 0 (Table 7.3). -/
def Item.addr (i : Item) (space off : Nat) : List Nat := at? off (space < 3 && place3 space (i.fld off 8) == .bad)

/-- Ingest (Table 6.2, R147, R148). -/
def Item.ingestFaults (i : Item) : List Nat :=
  at? 24 (i.fld 24 8 = 0 || 2 ^ 40 ≤ i.fld 24 8) ++ at? 32 (1023 < i.fld 32 2) ++ at? 34 (3 < i.fld 34 1) ++ i.resv 35 1 ++
  i.resv 45 3 ++ i.resv 54 2 ++
  if i.opcode = opIngestColumns then i.resv 36 4 ++ i.resv 56 8 else at? 56 (i.fld 56 8 % 16 != 0)

/-- INGEST_FRAME (Table 11.2, R252, R253). -/
def Item.frameFaults (i : Item) : List Nat :=
  let sp := i.fld 55 1
  let src := bitsOf sp 0 2
  let dst := bitsOf sp 2 2
  let off := if dst = 1 then i.fld 24 8 % 2 ^ 25 else i.fld 24 8 % 2 ^ 37
  let j := fp32.decode (i.fld 44 4)
  at? 55 (!(src = 0 || src = 2) || !(dst = 1 || dst = 2) || 16 ≤ sp) ++ i.addr src 16 ++ i.addr dst 24 ++
  at? 24 (off % (if dst = 1 then 1024 else 4096) != 0) ++ at? 56 (i.fld 56 4 < 64) ++ at? 60 (4 ≤ i.fld 60 1) ++
  i.resv 61 3 ++
  at? 44 (if i.fld 60 1 % 2 = 1 then
      match j with
      | .nan | .inf _ => true
      | .fin neg m _ => neg && m != 0
    else i.fld 44 4 != 0)

/-- GATHER (Table 8.8). -/
def Item.gatherFaults (i : Item) : List Nat :=
  let sp := i.fld 45 1
  at? 40 (i.fld 40 4 = 0 || 65536 < i.fld 40 4) ++
  at? 45 (64 ≤ sp || bitsOf sp 0 2 = 3 || bitsOf sp 2 2 = 3 || bitsOf sp 4 2 = 3) ++ i.addr (bitsOf sp 0 2) 16 ++
  i.addr (bitsOf sp 2 2) 24 ++ i.addr (bitsOf sp 4 2) 32 ++ at? 46 ((if i.flag 4 then 2 else 0) < i.fld 46 1) ++
  i.resv 47 1 ++ at? 48 (i.fld 48 4 % 64 != 0) ++ at? 52 (i.fld 40 4 ≤ i.fld 52 4) ++ i.resv 62 2

/-! ### Rows of SELECT and SAMPLE (09 R217, R221) -/

/-- Bytes of a source row. -/
def rowBytesOf (list : Bool) (fmt n : Nat) : Nat := if list then 8 * n else roundUp (n * fmtBits fmt / 8) 64

/-- DSTRIDE of a SELECT. -/
def Item.dstride (i : Item) : Nat := roundUp (8 * i.fld 44 4) 64

/-- Two ranges of one space share a byte. -/
def Place3.meets (x : Place3) (n : Nat) (y : Place3) (m : Nat) : Bool :=
  match x, y with
  | .host a, .host b => a < b + m && b < a + n
  | .slab t a, .slab u b => t == u && a < b + m && b < a + n
  | .hbm t a, .hbm u b => t == u && a < b + m && b < a + n
  | _, _ => false

/-- The ranges of an item: field offset, place, bytes. -/
abbrev Ranges := List (Nat × Place3 × Nat)

/-- The fields of ranges that overlap (R171, R216). -/
def overlaps : Ranges → List Nat
  | [] => []
  | (o, x, n) :: r => (r.filter fun t => x.meets n t.2.1 t.2.2).flatMap (fun t => [o, t.1]) ++ overlaps r

/-- Rows of a SELECT or SAMPLE: the descriptor field of their address, the first row's place, how many, the bytes from one to
the next, the bytes of each. -/
structure RowSet where
  field : Nat
  place : Place3
  count : Nat
  stride : Nat
  bytes : Nat
  deriving DecidableEq, Repr

/-- The bytes from the first row to the end of the last. -/
def RowSet.hull (x : RowSet) : Nat := (x.count - 1) * x.stride + x.bytes

/-- n bytes at an offset meet one of `count` ranges of m bytes that start at b and stand `stride` apart. -/
def meetsRow (a n b count stride m : Nat) : Bool :=
  let j := if a < b + m then 0 else (a - b - m) / stride + 1
  j < count && b + j * stride < a + n

/-- Some row of one set shares a byte with some row of the other. -/
def RowSet.meets (x y : RowSet) : Bool :=
  let rows (a b : Nat) : Bool :=
    (List.range x.count).any fun r => meetsRow (a + r * x.stride) x.bytes b y.count y.stride y.bytes
  match x.place, y.place with
  | .host a, .host b => rows a b
  | .slab t a, .slab u b => t == u && rows a b
  | .hbm t a, .hbm u b => t == u && rows a b
  | _, _ => false

/-- The fields of row sets that overlap within one space (R216). -/
def rowOverlaps : List RowSet → List Nat
  | [] => []
  | x :: r => (r.filter x.meets).flatMap (fun y => [x.field, y.field]) ++ rowOverlaps r

/-- The source rows, the destination rows and the summary records of a SELECT or SAMPLE. -/
def Item.rowSets (i : Item) : List RowSet :=
  let sel := i.opcode = opSelect
  let rows := i.fld 54 2
  let n := if sel then i.fld 40 4 else i.fld 32 4
  let fmt := if sel then i.fld 52 1 else i.fld 38 1
  let sp := if sel then i.fld 53 1 else i.fld 39 1
  [{ field := 16, place := place3 (bitsOf sp 0 2) (i.fld 16 8), count := rows, stride := i.fld 56 4
     bytes := rowBytesOf (i.flag 5) fmt n },
   { field := 24, place := place3 (bitsOf sp 2 2) (i.fld 24 8), count := rows, stride := if sel then i.dstride else 16
     bytes := if sel then 8 * min (i.fld 44 4) n else 16 }] ++
  if sel && i.flag 6 then
    [{ field := 32, place := place3 (bitsOf sp 4 2) (i.fld 32 8), count := rows, stride := 32, bytes := 32 }]
  else []

/-- Ranges that a SELECT or SAMPLE reads and writes. -/
def Item.rowRanges (i : Item) : Ranges := i.rowSets.map fun x => (x.field, x.place, x.hull)

/-- Faults of ROWS, ROW_STRIDE and the overlaps. -/
def Item.rowFaults (i : Item) (n fmt : Nat) : List Nat :=
  let rows := i.fld 54 2
  let st := i.fld 56 4
  at? 54 (rows = 0) ++
  at? 56 (if rows ≤ 1 then st != 0 else st % 64 != 0 || st < rowBytesOf (i.flag 5) fmt n) ++ rowOverlaps i.rowSets

/-- SELECT (Table 9.2, R216). -/
def Item.selectFaults (i : Item) : List Nat :=
  let sp := i.fld 53 1
  let fmt := i.fld 52 1
  let n := i.fld 40 4
  let th := i.fld 48 4
  at? 40 (n = 0 || 1048576 < n) ++ at? 44 (i.fld 44 4 = 0 || 1048576 < i.fld 44 4) ++ at? 52 (fmt < 4 || 10 < fmt) ++
  at? 48 (if i.flag 4 then 2 ^ fmtBits fmt ≤ th || (8 ≤ fmt && (ffmt fmt).isNan th) else th != 0) ++
  at? 53 (64 ≤ sp || bitsOf sp 0 2 = 3 || bitsOf sp 2 2 = 3 || bitsOf sp 4 2 = 3) ++ i.addr (bitsOf sp 0 2) 16 ++
  i.addr (bitsOf sp 2 2) 24 ++
  (if i.flag 6 then at? 32 (i.fld 32 8 % 32 != 0) ++ i.addr (bitsOf sp 4 2) 32 else at? 32 (i.fld 32 8 != 0)) ++
  (if i.flag 5 then at? 60 (i.fld 60 4 != 0) else at? 40 (2 ^ 32 < i.fld 60 4 + n)) ++ i.rowFaults n fmt

/-- SAMPLE (Table 9.3, R216). -/
def Item.sampleFaults (i : Item) : List Nat :=
  let sp := i.fld 39 1
  let fmt := i.fld 38 1
  let n := i.fld 32 4
  let k := i.fld 36 2
  at? 32 (n = 0 || 1048576 < n) ++ at? 36 (k = 0 || 4096 < k) ++ at? 38 (fmt < 8 || 10 < fmt) ++
  at? 39 (16 ≤ sp || bitsOf sp 0 2 = 3 || bitsOf sp 2 2 = 3) ++ i.addr (bitsOf sp 0 2) 16 ++ i.addr (bitsOf sp 2 2) 24 ++
  at? 24 (i.fld 24 8 % 16 != 0) ++ at? 40 (0x7F800000 ≤ i.fld 40 4) ++
  at? 44 (i.fld 44 4 = 0 || 0x3F800000 < i.fld 44 4) ++ i.rowFaults n fmt

/-! ### Compression (Table 7.2, R169, R171) -/

/-- Bytes of a stream context (R170). -/
def ctxBytes : Nat := 8585216

/-- Ranges of a compression item. -/
def Item.codecRanges (i : Item) : Ranges :=
  let sp := i.fld 42 1
  let flush := i.opcode = opFlush
  let whole := !flush && bitsOf (i.fld 43 1) 0 2 = 3
  (if flush then [] else [(16, place3 (bitsOf sp 0 2) (i.fld 16 8), i.fld 32 4)]) ++
  [(24, place3 (bitsOf sp 2 2) (i.fld 24 8), i.fld 36 4)] ++
  (if whole then [] else [(48, place3 2 (i.fld 48 8), ctxBytes)]) ++
  if flush || i.fld 44 4 = 0 then [] else [(56, place3 (bitsOf sp 4 2) (i.fld 56 8), i.fld 44 4)]

/-- COMPRESS and DECOMPRESS. -/
def Item.codecFaults (i : Item) : List Nat :=
  let sp := i.fld 42 1
  let ctl := i.fld 43 1
  let first := ctl % 2 = 1
  let last := bitsOf ctl 1 1 = 1
  let dict := i.fld 44 4
  let comp := i.opcode = opCompress
  at? 1 (comp && ((i.flag 4 && !(first && last)) || (i.flag 5 && i.fld 40 1 != 3))) ++
  at? 8 (first && !last && i.flow = 0) ++ at? 32 (i.fld 32 4 = 0) ++ at? 36 (i.fld 36 4 = 0) ++ at? 40 (3 < i.fld 40 1) ++
  at? 41 (if comp then i.fld 41 1 = 0 || 9 < i.fld 41 1 else i.fld 41 1 != 0) ++
  at? 42 (64 ≤ sp || bitsOf sp 0 2 = 3 || bitsOf sp 2 2 = 3 || bitsOf sp 4 2 = 3) ++ at? 43 (4 ≤ ctl) ++
  at? 44 (131072 < dict || (dict != 0 && (i.fld 40 1 = 2 || !first))) ++ i.addr (bitsOf sp 0 2) 16 ++
  i.addr (bitsOf sp 2 2) 24 ++
  (if first && last then at? 48 (i.fld 48 8 != 0) else i.addr 2 48 ++ at? 48 (i.fld 48 8 % 4096 != 0)) ++
  (if dict = 0 then at? 56 (i.fld 56 8 != 0) else i.addr (bitsOf sp 4 2) 56) ++ overlaps i.codecRanges

/-- FLUSH. -/
def Item.flushFaults (i : Item) : List Nat :=
  let sp := i.fld 42 1
  i.resv 16 8 ++ i.addr (bitsOf sp 2 2) 24 ++ i.resv 32 4 ++ at? 36 (i.fld 36 4 = 0) ++ i.resv 40 2 ++
  at? 42 (sp - sp % 16 + sp % 4 != 0 || bitsOf sp 2 2 = 3) ++ i.resv 43 5 ++ i.addr 2 48 ++
  at? 48 (i.fld 48 8 % 4096 != 0) ++ i.resv 56 8 ++ overlaps i.codecRanges

/-- TABLE_REPLACE (Table 8.6, R198). -/
def Item.replaceFaults (i : Item) : List Nat :=
  if i.flag 4 then i.resv 16 20 ++ i.resv 37 3 ++ at? 48 (i.fld 48 8 = 0) ++ i.resv 56 8
  else
    let sp := i.fld 38 1
    i.addr sp 16 ++ at? 24 (i.fld 24 8 % 32 != 0) ++ at? 32 (i.fld 32 4 = 0 || i.fld 32 4 % 32 != 0) ++
    at? 37 (7 < i.fld 37 1) ++ at? 38 (!(sp = 0 || sp = 2)) ++ i.resv 39 25

/-- FIRN_LOAD (Table 8.5). -/
def Item.firnFaults (i : Item) : List Nat :=
  let sp := i.fld 37 1
  let a := bitsOf sp 0 2
  let b := bitsOf sp 2 2
  at? 37 (16 ≤ sp || !(a = 0 || a = 2) || !(b = 0 || b = 2)) ++ i.addr a 16 ++ i.addr b 24 ++ i.resv 38 26

/-- EPOCH_SET (Table 10.3, R243, R244). -/
def Item.epochFaults (i : Item) : List Nat :=
  i.resv 28 4 ++ i.resv 40 24 ++ at? 32 (2 ^ 48 < i.fld 32 8) ++
  if i.flag 4 then at? 16 (i.fld 16 8 != 0) ++ at? 24 (i.fld 24 4 != 0) ++ at? 32 (i.fld 32 8 != 0) else []

/-- Faults that a descriptor shows by itself. Bytes 16 to 63 of a NOP, to which no chapter gives a layout, are taken as
reserved (log 87). -/
def Item.ownFaults (i : Item) : List Nat :=
  match i.opcode with
  | 0x00 => i.resv 16 48
  | 0x01 | 0x02 => i.ingestFaults
  | 0x03 => i.frameFaults
  | 0x04 => i.gatherFaults
  | 0x05 => i.selectFaults
  | 0x06 => i.sampleFaults
  | 0x07 | 0x08 => i.codecFaults
  | 0x09 => i.flushFaults
  | 0x0A | 0x18 | 0x19 => at? 16 (63 < i.fld 16 1) ++ i.resv 17 47
  | 0x1A => at? 16 (63 < i.fld 16 1) ++ i.resv 17 7 ++ i.resv 32 32
  | 0x10 => i.replaceFaults
  | 0x11 => i.firnFaults
  | 0x12 => i.resv 48 16
  | 0x13 => i.resv 17 1 ++ at? 18 (i.fld 18 2 = 0 || 255 < i.fld 18 2) ++ i.resv 20 12 ++ i.resv 48 16
  | 0x14 => i.epochFaults
  | 0x1F => i.resv 20 44
  | 0x20 => i.resv 22 2 ++ at? 24 (i.fld 24 8 % 8 != 0) ++ i.resv 32 32
  | 0x21 => at? 24 (i.fld 24 4 < 64 || 16777216 < i.fld 24 4 || i.fld 24 4 % 64 != 0) ++ i.resv 40 24
  | 0x22 => i.resv 20 4 ++ i.resv 32 32
  | 0x23 => i.resv 24 40
  | _ => []

/-- An assigned opcode (Table 13.3). -/
def assignedOp (op : Nat) : Bool := isPortOp op || isPipelineOp op

/-! ## What the loaded image decides -/

/-- Output row bytes of a GATHER (R204). -/
def Item.outRow (i : Item) (g : GatherRec) : Nat :=
  if i.flag 4 then g.rowWidth * (if i.fld 46 1 = 0 then 4 else 2)
  else max (rowElems g.classHot g.rowWidth + rowScale g.classHot) (rowElems g.classCold g.rowWidth + rowScale g.classCold)

/-- The warp mesh of a number. -/
def State.warpOf (s : State) (p : Port) (mesh : Nat) : Option WarpMesh :=
  s.parts[p].image.bind fun im => im.warps.find? (·.mesh == mesh)

/-- The pipeline continues items on a tile (R99). -/
def State.contOn (s : State) (p : Port) (i : Item) : Bool :=
  (s.sched p i.pipeline).any (·.cont) && 4 ≤ i.opcode && i.opcode ≤ 8

/-- Field that holds SPACES of an engine item. -/
def spacesAt (op : Nat) : Nat := if op = 3 then 55 else if op = 4 then 45 else if op = 5 then 53 else if op = 6 then 39 else 42

/-- Destination space of an engine item. -/
def Item.dstSpace (i : Item) : Nat := bitsOf (i.fld (spacesAt i.opcode) 1) 2 2

/-- Tile and offset that a slab destination names. -/
def Item.dstTile (i : Item) : Nat := bitsOf (i.fld 24 8) 25 7
def Item.dstOff (i : Item) : Nat := bitsOf (i.fld 24 8) 0 25

/-- The B of Table 4.10, where it could pass R98. -/
def Item.contBeats (i : Item) : Nat :=
  if i.opcode = opGather then ceilDiv ((i.fld 40 4 - i.fld 52 4) * i.fld 48 4) 1024
  else if i.opcode = opSelect then ceilDiv (i.fld 54 2 * i.dstride) 1024 else 0

/-- The D of Table 4.10. -/
def Item.contDisp (i : Item) : Nat := i.dstOff + if i.opcode = opGather then i.fld 52 4 * i.fld 48 4 else 0

/-- Conditions of R99. -/
def State.contFaults (s : State) (p : Port) (i : Item) : List Nat :=
  if !s.contOn p i then []
  else if i.dstSpace != 1 then [spacesAt i.opcode]
  else
    at? 24 ((s.entryPass p i.dstTile i.pipeline).isNone || i.contDisp % 1024 != 0) ++
    at? (if i.opcode = opGather then 40 else 44) (2 ^ 24 ≤ i.contBeats)

/-- JITTER is within (min(OW, OH) − 1) / 8 (R253). -/
def jitterFits (m : WarpMesh) (jitter : Nat) : Bool :=
  match fp32.decode jitter with
  | .fin _ q e =>
    let (n, d) := ratio q e
    n * 8 ≤ (min m.outW m.outH - 1) * d
  | _ => false

/-- R253 in the image. -/
def State.frameImageFaults (s : State) (p : Port) (i : Item) : List Nat :=
  match s.warpOf p (i.fld 54 1) with
  | none => [54]
  | some m =>
    at? 54 (if i.dstSpace = 1 then !m.units.getLsbD (i.dstTile / 8)
      else !((s.clustersOf p).any fun c => m.units.getLsbD c.val)) ++
    at? 44 (i.fld 60 1 % 2 = 1 && !jitterFits m (i.fld 44 4))

/-- Bytes of a table's regions overlap (R200). -/
def replaceOverlaps (g : GatherRec) (i : Item) : Bool :=
  let rows := i.fld 48 8
  overlap (i.fld 40 4 * 4096) (dataBytes g rows) (i.fld 44 4 * 4096) (dirBytes rows)

/-- The entry of table n on a tile as a fetch finds it; the slabs of a cluster at OFF read as zero, and an entry that reads
uncorrectable is left to the item's service (16 R368). -/
def State.entryAtFetch (s : State) (n t : Nat) : Option TabEntry :=
  if s.slabBad t (64 * n) 64 then none
  else some (TabEntry.of n (if s.clusterOper (t / 8) == .off then List.replicate 64 0 else s.slabGet t (64 * n) 64))

/-- Faults of an AGE_TICK at its fetch (05 R140): a tile outside the partition; an entry of another flow, or that is not HASH
with AGEING. -/
def State.ageFaults (s : State) (p : Port) (i : Item) : List Nat :=
  let named := (List.range 128).filter fun t => (i.fld 32 16).testBit t
  let es := named.filterMap (s.entryAtFetch (i.fld 16 1))
  at? 32 (named.any fun t => !s.ownsCluster p (t / 8)) ++
  at? 8 (es.any fun e => e.kind == 2 && e.ageing && e.flow != i.flow) ++ at? 16 (es.any fun e => e.kind != 2 || !e.ageing)

/-- Faults that the loaded image decides, and what it left in the partition: the table entries of an AGE_TICK, the batch queue
of a queue operation or a BATCH_CLOSE (12 R282, R286). -/
def State.imageFaults (s : State) (p : Port) (i : Item) : List Nat :=
  let plan (fits : Nat → Bool) : List Nat :=
    at? 32 (!((s.parts[p].image.bind fun im => im.plans.find? (·.plan == i.fld 32 2)).any fun x => fits x.container))
  (match i.opcode with
  | 0x01 => plan fun c => 1 ≤ c && c ≤ 3
  | 0x02 => plan (· == 4)
  | 0x03 => s.frameImageFaults p i
  | 0x04 =>
    match s.gatherRec p i.table with
    | none => [44]
    | some g => at? 48 (i.fld 48 4 < i.outRow g)
  | 0x10 =>
    match s.gatherRec p i.table with
    | none => [36]
    | some g => if i.flag 4 then at? 48 (g.maxRows < i.fld 48 8) ++ at? 40 (replaceOverlaps g i) else []
  | 0x11 =>
    match s.gatherRec p i.table with
    | none => [36]
    | some g => if g.firnSlots = 0 then [36] else at? 32 (g.firnSlots < i.fld 32 4)
  | 0x13 => s.ageFaults p i
  | 0x0A | 0x18 | 0x19 | 0x1A => at? 16 (!(s.parts[p].bq[qix (i.fld 16 1)]).enabled)
  | 0x14 => at? 2 (s.sched p i.pipeline).isNone
  | _ => []) ++ s.contFaults p i

/-- BAD_DESCRIPTOR: the lowest byte offset of the fields at fault (R306). -/
def State.badDescriptor (s : State) (p : Port) (i : Item) : Option Nat :=
  if !assignedOp i.opcode then some 0
  else
    (s.commonFaults p i ++ i.ownFaults ++ if s.parts[p].pstate == .loaded then s.imageFaults p i else []).min?

end Sys2Proof.Machine
end

