-- ==== Sys2Proof/Machine/Fetch.lean ====
section
/-! DEFINITION. Fetch and admission (13 R298, R301 to R306; 15 R347, R348, R356; 11 R256). -/

namespace Sys2Proof.Machine

/-- Queue pairs with unfetched descriptors, function by function (R298). -/
def State.fetchable (s : State) (p : Port) : List (Func × Nat) :=
  (List.finRange 16).flatMap fun f =>
    if s.fnExists p f && !s.asleepFn p f then
      ((List.range (min 64 (s.qpCount p f))).filter fun n =>
        (s.qp p f n).st == .enabled && (s.qp p f n).sqHead != (s.qp p f n).sqTail).map fun n => (f, n)
    else []

/-- The next queue pair in round-robin order after the last one served (R298). -/
def State.nextPair (s : State) (p : Port) : Option (Func × Nat) :=
  let l := s.fetchable p
  let r := s.ports[p].rr
  (l.find? fun e => r.1 < e.1.val || (r.1 == e.1.val && r.2 < e.2)).orElse fun _ => l.head?

/-- A descriptor as it is fetched. -/
def State.newItem (s : State) (p : Port) (f : Func) (n : Nat) (desc : List Byte) : Item :=
  { key := s.ports[p].fetchNo + 1, fn := f, qp := n, epoch := (s.fn p f).epoch, desc := desc, seq := none, flowPipe := 0
    st := .waiting, unit := none, ctx := none, snap := [], delivered := [], reissued := [], status := .ok, r0 := 0, r1 := 0
    engine := ⟨.port, p.val⟩, waitsFor := none, stepsLeft := 0, cont := none, frame := none, ingest := none, orphan := false
    abortedAt := 0, arrival := none, readFailed := false }

/-- Items that hold an admission entry (R347). -/
def State.admitted (s : State) (p : Port) : List Item := s.ports[p].items.filter (·.seq.isSome)

/-- The item of the flow that holds its flow-table entry (R356). -/
def State.flowHolder (s : State) (p : Port) (flow : Nat) : Option Item := (s.admitted p).find? (·.flow == flow)

/-- Flows in flight, one item for each (R356). -/
def State.flowsOf (s : State) (p : Port) : List (Nat × Nat) :=
  ((s.admitted p).filter (·.flow != 0)).map (fun i => (i.flow, i.flowPipe)) |>.eraseDups

/-- The first exhausted limit, 0 for none (R305). -/
def State.exhausted (s : State) (p : Port) (i : Item) (c : Sched) : Nat :=
  let a := s.admitted p
  let fs := s.flowsOf p
  let fresh := i.flow != 0 && (s.flowHolder p i.flow).isNone
  if (s.parts[p].place.elim 0 (·.admission)) ≤ a.length then 1
  else if c.admission ≤ (a.filter (·.pipeline == i.pipeline)).length then 2
  else if fresh && (s.parts[p].place.elim 0 (·.flows)) ≤ fs.length then 3
  else if fresh && c.flows ≤ (fs.filter (·.2 == i.pipeline)).length then 4
  else 0

/-- The admission check of a frame (11 R255, R256). -/
def State.frameAdmission (s : State) (p : Port) (i : Item) : State :=
  let maxAge := i.fld 40 4
  let cap := i.fld 32 8
  let age := min (s.deviceTime.toNat - cap) 0xFFFFFFFF
  let tag (untimed : Bool) : FrameTag :=
    { maxAge := BitVec.ofNat 32 maxAge, capture := BitVec.ofNat 64 cap, untimed := untimed, admitted := i.flag 4 }
  if maxAge = 0 then s.updItem p i.key ({ · with frame := some (tag false) })
  else if s.time.valid then
    if frameFresh maxAge cap s.deviceTime.toNat then
      s.updItem p i.key ({ · with frame := some (tag false), r0 := BitVec.ofNat 32 age })
    else (s.countP p .frameStale 1).completeNow p i.key .staleDropped age 0
  else if i.flag 4 then (s.countP p .frameUntimed 1).updItem p i.key ({ · with frame := some (tag true) })
  else (s.countP p .frameStale 1).completeNow p i.key .staleDropped 0 1

/-- Admit an item: it takes its admission entry, the next admission sequence and, for a flow not in flight, a flow-table
entry that counts against its own pipeline (R305, R347, R348, R356). -/
def State.takeIn (s : State) (p : Port) (i : Item) : State :=
  let pipe := ((s.flowHolder p i.flow).map (·.flowPipe)).getD i.pipeline
  let seq := s.parts[p].admSeq
  let s1 := (s.updItem p i.key ({ · with seq := some seq, flowPipe := pipe })).updPart p ({ · with admSeq := seq + 1 })
  let s2 := s1.countP p .admitted 1
  if i.opcode = opIngestFrame then s2.frameAdmission p i else s2

/-- A descriptor by which the floor owner's PF loads a floor: its BEGIN, the chunks and the commit of its session, an ABORT of
one of them (03 R66, 19 Table 19.7). -/
def State.loadsFloor (s : State) (p : Port) (i : Item) : Bool :=
  s.floorOwnerPort == some p && i.fn == 0 &&
  (i.opcode == opAbort || (i.opcode == opImageBegin && i.fld 20 1 == 1) ||
    ((i.opcode == opImageChunk || i.opcode == opImageCommit) && s.parts[p].session.any (·.floor)))

/-- A port opcode completes NOT_READY: on a port whose record is absent (03 R73, but for loading a floor: log 80), while a
floor change holds its partition (03 R88 step 1), and while the partition is APPLYING, but for ABORT and the image opcodes
(02 R59 step 1; DEDUCED, log 117, where R306 serves a NOP). -/
def State.portRefuses (s : State) (p : Port) (i : Item) : Bool :=
  (s.parts[p].place.isNone && !s.loadsFloor p i) || s.floorHolds p ||
  (s.parts[p].pstate == .applying && i.opcode == 0)

/-- A queue operation from a function that is neither the PF nor the queue's consuming function (12 R286). -/
def State.foreignQueueOp (s : State) (p : Port) (i : Item) : Bool :=
  (i.opcode == opQueueMark || i.opcode == opQueueRewind || i.opcode == opQueueRelease) && i.fn.val != 0 &&
  i.fn.val != (s.bq p (i.fld 16 1)).consumer

/-- What becomes of a fetched descriptor (R301, R305, R306; 02 R59 step 1). -/
def State.accept (s : State) (p : Port) (i : Item) (bad : Option Nat) : State :=
  let op := i.opcode
  match bad with
  | some off => s.completeNow p i.key .badDescriptor off 0
  | none =>
    if isPortOp op then
      if isImageOp op && i.fn != 0 then s.completeNow p i.key .unsupported 0 0
      else if s.portRefuses p i then s.completeNow p i.key .notReady 0 0
      else s.commitsArrive p
    else if s.parts[p].pstate != .loaded || s.refusing p then s.completeNow p i.key .notReady 0 0
    else
      match s.sched p i.pipeline with
      | none => s.completeNow p i.key .unsupported 0 0
      | some c =>
        if !(c.opcodes.testBit op && c.classes.testBit i.cls) || s.foreignQueueOp p i then s.completeNow p i.key .unsupported 0 0
        else
          let x := s.exhausted p i c
          if x != 0 then (s.countF p i.fn .refused).completeNow p i.key .refused x 0 else s.takeIn p i

/-- Fetch the descriptor at the SQ head; the head advances (R298). -/
def State.fetchOne (s : State) (p : Port) (f : Func) (n : Nat) : State :=
  let q := s.qp p f n
  let i := s.newItem p f n (s.hostGet p (q.sqBase.toNat + 64 * q.sqHead) 64)
  let bad := s.badDescriptor p i
  let s1 := s.updQp p f n ({ · with sqHead := (q.sqHead + 1) % q.sqSize })
  let s2 := s1.updPort p fun x => { x with fetchNo := x.fetchNo + 1, items := x.items ++ [i] }
  s2.accept p i bad

/-- Fetch k descriptors in SQ order. -/
def State.fetchMany (p : Port) (f : Func) (n : Nat) : Nat → State → State
  | 0, s => s
  | k + 1, s => State.fetchMany p f n k (s.fetchOne p f n)

/-- FETCH_TURN (R298, 22 R490): up to 8 descriptors of the next queue pair, ending at the SQ tail or at the end of the ring. -/
def State.fetchTurn (s : State) (p : Port) : State :=
  if !s.ready || !s.ports[p].linkUp then s
  else
    match s.nextPair p with
    | none => s
    | some (f, n) =>
      let q := s.qp p f n
      let k := min 8 (min (ringDist q.sqTail q.sqHead q.sqSize) (q.sqSize - q.sqHead))
      let s1 := ((s.exitL1 p).updPort p ({ · with rr := (f.val, n) })).sendReads p f (q.sqBase.toNat + 64 * q.sqHead) (64 * k)
      let s2 := State.fetchMany p f n k s1
      if (s2.qp p f n).sqHead == (s2.qp p f n).sqTail then s2.takeDoorbell p f n else s2

def execFetchTurn (p : Port) (s : State) : Host.Outcome State Fault Refusal := .next (s.fetchTurn p)

end Sys2Proof.Machine
end

