-- ==== Sys2Proof/Machine/Sched.lean ====
section
/-! DEFINITION. Ready lists, dispatch, service, continuation passes, lookahead and segments (15 R349 to R363; 04 R99; 03 R85,
R86; 08 R196, R200; 10 R245; 11 R258). -/

namespace Sys2Proof.Machine

/-! ## Readiness (R350) -/

/-- The unit type that an opcode's chapter fixes (R353). -/
def fixedUnit (op : Nat) : Option UnitType :=
  match op with
  | 0x01 | 0x02 => some .decode
  | 0x03 => some .warp
  | 0x04 | 0x10 | 0x11 | 0x12 => some .gather
  | 0x05 | 0x06 => some .select
  | 0x07 | 0x08 | 0x09 => some .compress
  | _ => none

/-- The unit type of an ENTRY_TYPE (02 Table 2.12). -/
def entryUnitType (n : Nat) : Option UnitType :=
  [UnitType.tile, .select, .warp, .decode, .compress, .gather].find? (·.code == n)

/-- The target unit type of an item: the one its opcode's chapter fixes, else the ENTRY_TYPE of its pipeline's SCHED record
(R353). -/
def State.servedBy (s : State) (p : Port) (i : Item) : Option UnitType :=
  (fixedUnit i.opcode).orElse fun _ => (s.sched p i.pipeline).bind fun c => entryUnitType c.entryType

/-- Admitted items earlier than an item (R348). -/
def State.before (s : State) (p : Port) (i : Item) : List Item :=
  (s.admitted p).filter fun j => j.seq.getD 0 < i.seq.getD 0

/-- A TABLE_REPLACE of the SWAP form. -/
def Item.isSwap (i : Item) : Bool := i.opcode == opTableReplace && i.flag 4

/-- A pause holds the item: GATHER, FIRN_LOAD and further SWAPs naming the table (Tables 8.7, 8.10). -/
def State.paused (s : State) (p : Port) (i : Item) : Bool :=
  (i.opcode == opGather || i.opcode == opFirnLoad || i.isSwap) &&
  s.parts[p].gtab.any fun g => g.table == i.table && g.pause.isSome

/-- An earlier admitted item that an item must see completed beside R350's own conditions: items of its pipeline for an
EPOCH_SET and an EPOCH_SET of its pipeline (R245), another SWAP of its table for a SWAP (08 Table 8.10), items of the queue's
pipeline for a BATCH_CLOSE, which waits for them before it takes a unit (12 R282, log 83). -/
def State.awaits (s : State) (p : Port) (i j : Item) : Bool :=
  (j.pipeline == i.pipeline && (j.opcode == opEpochSet || i.opcode == opEpochSet)) ||
  (i.isSwap && j.isSwap && i.table == j.table) ||
  (i.opcode == opBatchClose && (s.parts[p].bq[qix (i.fld 16 1)]).layout.any fun l => l.pipeline == j.pipeline)

/-- READY (R350, R245). -/
def State.isReady (s : State) (p : Port) (i : Item) : Bool :=
  let e := s.before p i
  i.st == .waiting && i.seq.isSome && !i.orphan && s.fencesOk p i && (i.flow == 0 || e.all (·.flow != i.flow)) &&
  e.all (fun j => !s.awaits p i j) && !s.paused p i

/-! ## Units (R355, Table 15.4) -/

/-- Items in service on a unit at once, and items queued beyond those. -/
def serviceCap (ty : UnitType) : Nat × Nat :=
  match ty with
  | .gather => (16, 16)
  | .select | .warp | .decode | .compress => (1, 2)
  | _ => (1, 4)

/-- Items and passes that a tile holds beside the items dispatched to it as units: the pass in progress is in service. -/
def State.passesOn (s : State) (u : UnitId) (st : ItemState) : Nat :=
  let x := s.tiles[tix u.idx]
  if u.ty != .tile then 0
  else if st == .inService then (if x.run.isSome then 1 else 0)
  else if st == .queued then x.queue.length
  else 0

/-- Items of unit u in a state, of partition p where the capacity is per partition. -/
def State.onUnit (s : State) (p : Port) (u : UnitId) (st : ItemState) : Nat :=
  let own (q : Port) : Nat := (s.ports[q].items.filter fun i => i.unit == some u && i.st == st).length
  match u.ty with
  | .decode | .compress => own p
  | _ => ((List.finRange 6).map own).sum + s.passesOn u st

/-- The units that the opcode's chapter and the SCHED record permit (R355, 11 R258). -/
def State.permitted (s : State) (p : Port) (i : Item) (ty : UnitType) : List UnitId :=
  let all : List Nat :=
    match ty with
    | .select | .warp => (s.clustersOf p).map (·.val)
    | .tile => s.tilesOf p
    | .gather => [0]
    | _ => List.range ty.count
  let sched (n : Nat) : Bool :=
    ty == .gather ||
    (s.sched p i.pipeline).all fun c => c.entryType != ty.code || c.entryUnit == 0xFF || c.entryUnit == n
  let fits (n : Nat) : Bool :=
    if i.opcode != opIngestFrame then sched n
    else if i.dstSpace = 1 then n == i.dstTile / 8
    else sched n && (s.warpOf p (i.fld 54 1)).any fun m => m.units.getLsbD n
  (all.filter fits).map fun n => ⟨ty, n⟩

/-- Eligible units of an item (R355). -/
def State.eligible (s : State) (p : Port) (i : Item) (ty : UnitType) : List UnitId :=
  (s.permitted p i ty).filter fun u =>
    s.usable u && s.onUnit p u .inService + s.onUnit p u .queued < (serviceCap ty).1 + (serviceCap ty).2

/-- The unit chosen: the lowest in RUN that is free, else the lowest in RUN, else the lowest in the shallowest sleep state
(R355, and the example of R364). -/
def State.chooseUnit (s : State) (p : Port) (i : Item) (ty : UnitType) : Option UnitId :=
  let us := s.eligible p i ty
  let awake := us.filter s.running
  let free := awake.filter fun u => s.onUnit p u .inService + s.onUnit p u .queued < (serviceCap ty).1
  free.head?.orElse fun _ => s.lowestAwake us

/-! ## Dispatch (R353, R354) -/

/-- The oldest item by admission sequence. -/
def oldest : List Item → Option Item
  | [] => none
  | i :: r =>
    match oldest r with
    | none => some i
    | some j => if j.seq.getD 0 < i.seq.getD 0 then some j else some i

/-- The head of the ready list of a unit type and class. -/
def State.listHead (s : State) (p : Port) (ty : UnitType) (c : Nat) : Option Item :=
  oldest (s.ports[p].items.filter fun i => s.servedBy p i == some ty && i.cls == c && s.isReady p i)

/-- The heads of the ready lists of a unit type, class 0 first. -/
def State.heads (s : State) (p : Port) (ty : UnitType) : List Item := (List.range 4).filterMap (s.listHead p ty)

/-- Dispatches that an item was passed over as a head. -/
def Partition.passedOver (x : Partition) (k : Nat) : Nat := ((x.passed.find? (·.1 == k)).map (·.2)).getD 0

/-- The next item of a type: a head passed over 64 times, highest class first, else the head of the highest class; one
without an eligible unit stays READY (R354, R355). -/
def State.nextDispatch (s : State) (p : Port) (ty : UnitType) : Option (Item × UnitId) :=
  let hs := s.heads p ty
  let starved := hs.filter fun i => 64 ≤ s.parts[p].passedOver i.key
  (starved ++ hs).findSome? fun i => (s.chooseUnit p i ty).map fun u => (i, u)

/-- The pass-over counts after a dispatch of item k with these heads of its type; those of other items stand. -/
def Partition.countPassed (x : Partition) (hs : List Item) (k : Nat) : Partition :=
  { x with passed := (hs.filter (·.key != k)).map (fun i => (i.key, x.passedOver i.key + 1)) ++
      x.passed.filter fun e => e.1 != k && hs.all (·.key != e.1) }

/-- DISPATCH (R354, R355): the item enters the unit's dispatch queue, and dispatch thaws the unit. -/
def State.dispatch (s : State) (p : Port) (ty : UnitType) : State :=
  match s.nextDispatch p ty with
  | none => s
  | some (i, u) =>
    let hs := s.heads p ty
    let forced := 64 ≤ s.parts[p].passedOver i.key && hs.any fun j => j.cls < i.cls
    let s1 := s.updItem p i.key ({ · with st := .queued, unit := some u, engine := u })
    let s2 := s1.updPart p (·.countPassed hs i.key)
    let s3 := if forced then s2.countP p .starveDispatch 1 else s2
    (unitGroup u).foldl (fun a v => a.thawUnit v) s3

def execDispatch (p : Port) (ty : UnitType) (s : State) : Host.Outcome State Fault Refusal := .next (s.dispatch p ty)

/-! ## Service (R349) -/

/-- An item in service still reads the half of the table's firn set that is inactive now (08 R194 step 1). -/
def State.halfHeld (s : State) (p : Port) (table k : Nat) : Bool :=
  match s.parts[p].gtab.find? (·.table == table) with
  | none => false
  | some g => s.ports[p].items.any fun j =>
      j.key != k && j.st == .inService && j.opcode == opGather && j.table == table &&
      j.snap.any fun h => h.table == table && h.active != g.active

/-- Mark the inactive half of a table valid or not. -/
def State.markInactiveHalf (s : State) (p : Port) (table : Nat) (valid : Bool) : State :=
  s.updPart p fun x => { x with gtab := x.gtab.map fun g =>
    if g.table != table then g else if g.active then { g with validA := valid } else { g with validB := valid } }

/-- The ranges of a FIRN_LOAD: its rows and its list. -/
def Item.firnRanges (i : Item) (g : GatherRec) : Ranges :=
  let sp := i.fld 37 1
  [(16, place3 (bitsOf sp 0 2) (i.fld 16 8), i.fld 32 4 * slotBytes g),
   (24, place3 (bitsOf sp 2 2) (i.fld 24 8), 4 * i.fld 32 4)]

/-- Every range lies within what the partition may touch (07 R170). -/
def State.rangesOk (s : State) (p : Port) (rs : Ranges) : Bool := rs.all fun r => s.inBounds p r.2.1 r.2.2

/-- A new region of a SWAP passes the partition's range (08 R200). -/
def State.swapBounds (s : State) (p : Port) (i : Item) (c : GatherRec) : Bool :=
  s.hbmRange p < i.fld 40 4 * 4096 + dataBytes c (i.fld 48 8) || s.hbmRange p < i.fld 44 4 * 4096 + dirBytes (i.fld 48 8)

/-- Item k pauses a table that no other item pauses (08 Table 8.7 step 1). -/
def State.pauseTable (s : State) (p : Port) (table k : Nat) : State :=
  s.updPart p fun x => { x with gtab := x.gtab.map fun g =>
    if g.table == table && g.pause.isNone then { g with pause := some k } else g }

/-- What the start of service does at once: a FIRN_LOAD that nothing holds back marks its half invalid (08 R194 step 2); a
SWAP within bounds pauses its table (08 Table 8.7 step 1). -/
def State.atServiceStart (s : State) (p : Port) (i : Item) : State :=
  if i.opcode = opFirnLoad && !s.halfHeld p i.table i.key &&
      (s.gatherRec p i.table).any (fun g => s.rangesOk p (i.firnRanges g)) then s.markInactiveHalf p i.table false
  else if i.isSwap && (s.gatherRec p i.table).any (fun g => !s.swapBounds p i g) then s.pauseTable p i.table i.key
  else s

/-- The item may enter service now: it is QUEUED on a unit that is in RUN, still runs what it was given, and has a place. -/
def State.mayStart (s : State) (p : Port) (i : Item) : Bool :=
  i.st == .queued && !s.paused p i &&
  i.unit.any fun u => s.running u && s.mayRun u && s.onUnit p u .inService < (serviceCap u.ty).1

/-- The unit named as ENGINE of an item: the lowest tile of an AGE_TICK, else the unit it runs on (13 R307). -/
def Item.ownEngine (i : Item) (p : Port) : UnitId :=
  if i.opcode = opAgeTick then
    ((List.range 128).find? fun t => (i.fld 32 16).testBit t).elim ⟨.port, p.val⟩ fun t => ⟨.tile, t⟩
  else i.engine

/-- SERVICE_START (R349): the item enters service and takes its snapshots (08 R196, 10 R241). -/
def State.serviceStart (s : State) (p : Port) (k : Nat) : State :=
  match s.item? p k with
  | none => s
  | some i =>
    if s.mayStart p i then
      let gtab := s.parts[p].gtab
      let c := s.ctxOf p i.pipeline
      (s.updItem p k ({ · with st := .inService, snap := gtab, ctx := some c, engine := i.ownEngine p })).atServiceStart p i
    else s

def execServiceStart (p : Port) (k : Nat) (s : State) : Host.Outcome State Fault Refusal := .next (s.serviceStart p k)

/-! ## Passes that follow an engine step (04 R99, R347) -/

/-- A tile takes a pass: its dispatch queue has room and it takes dispatch (R355, Table 15.4). -/
def State.tileRoom (s : State) (t : Tile) : Bool := s.tiles[t].queue.length < 4 && s.usable ⟨.tile, t.val⟩

/-- Dispatch a pass to a tile; it thaws the tile's cluster. -/
def State.queuePass (s : State) (t : Tile) (w : TileWork) : State :=
  (s.updTile t fun x => { x with queue := x.queue ++ [w] }).thawUnit ⟨.tile, t.val⟩

/-- The engine step of an item ends; a continuation pass is to follow where the pipeline asks for one (R99, Table 4.10). -/
def State.finishEngine (s : State) (p : Port) (i : Item) (st : Status) (r0 r1 : Nat) (args : PassArgs) : State :=
  let s1 := s.finishService p i.key st r0 r1
  if s.contOn p i && st.carriesOn then s1.updItem p i.key ({ · with cont := some (i.dstTile, args) }) else s1

/-- CONTINUATION (R99): the entry pass is dispatched on the continuation tile as a step of the item. -/
def State.continuation (s : State) (p : Port) (k : Nat) : State :=
  match s.item? p k with
  | none => s
  | some i =>
    match i.cont with
    | none => s
    | some (t, args) =>
      if i.st == .completing && s.tileRoom (tix t) then
        (s.updItem p k fun j => { j with cont := none, stepsLeft := j.stepsLeft + 1 }).queuePass (tix t)
          { port := p, key := k, pipeline := i.pipeline, args := args, window := none, frame := none }
      else s

def execContinuation (p : Port) (k : Nat) (s : State) : Host.Outcome State Fault Refusal := .next (s.continuation p k)

/-! ## Lookahead (R359, R360) -/

/-- Bytes of a range that lie within what a speculative read may touch: none of the host, none out of bounds (R360). -/
def State.specBytes (s : State) (p : Port) (x : Place3) (n : Nat) : Nat :=
  match x with
  | .host _ => 0
  | _ => if s.inBounds p x n then n else 0

/-- Bytes that a gather engine reads ahead for a QUEUED GATHER: the indices of the first 64 positions, and the directory
entries they name (Table 15.7). -/
def State.gatherAhead (s : State) (p : Port) (i : Item) : Nat :=
  let n := min 64 (i.fld 40 4 - i.fld 52 4)
  let x := (place3 (bitsOf (i.fld 45 1) 0 2) (i.fld 16 8)).plus (4 * i.fld 52 4)
  if s.specBytes p x (4 * n) = 0 then 0
  else
    match s.parts[p].gtab.find? (·.table == i.table), s.readPlace p i x (4 * n) with
    | some g, .bytes bs =>
      let named := (List.range n).filter fun k =>
        let r := field bs (4 * k) 4
        r < g.rows && r != 0xFFFFFFFF && s.inBounds p (.hbm (r % 8) (g.dirPage * 4096 + (r / 8 + 1) * 8)) 8
      4 * n + 8 * named.length
    | _, _ => 4 * n

/-- Bytes that a tile sequencer reads ahead for the passes of item k on its queue: the first two beats of each IN_SLAB
binding, 8 vectors at most (Table 15.7). -/
def State.tileAhead (s : State) (p : Port) (k : Nat) (t : Tile) : Nat :=
  match s.tiles[t].queue.find? fun w => w.port == p && w.key == k with
  | none => 0
  | some w =>
    match s.entryPass p t.val w.pipeline with
    | none => 0
    | some g =>
      let reads := (g.binds.filter (·.kind == 1)).flatMap fun b =>
        (List.range (min 2 w.args.b)).filter fun n => b.slabBase w.args.d + 1024 * n + 1024 ≤ slabBytes
      1024 * min 8 reads.length

/-- The QUEUED GATHER items that the shared gather engines read ahead for: four of the device, the first by port and fetch
(Table 15.7; which four the spec leaves open, log 84). -/
def State.queuedGathers (s : State) : List (Port × Nat) :=
  ((List.finRange 6).flatMap fun p =>
    (s.ports[p].items.filter fun j => j.opcode == opGather && j.st == .queued).map fun j => (p, j.key)).take 4

/-- SPECULATIVE_READ (R359, R360): its only trace is CNT_SPEC_READ_BYTES. -/
def State.speculativeRead (s : State) (p : Port) (k : Nat) : State :=
  match s.item? p k with
  | none => s
  | some i =>
    let g := if i.opcode == opGather && i.st == .queued && s.queuedGathers.contains (p, k) then s.gatherAhead p i else 0
    let t := ((List.finRange 128).map (s.tileAhead p k)).sum
    s.countP p .specReadBytes (g + t)

def execSpeculativeRead (p : Port) (k : Nat) (s : State) : Host.Outcome State Fault Refusal := .next (s.speculativeRead p k)

/-! ## Segments (03 R85, R86) -/

/-- A partition's weight at a shared unit (Table 2.6). -/
def Place.weightAt (r : Place) (ty : UnitType) : Nat :=
  match ty with
  | .decode => r.decodeWeight
  | .compress => r.compressWeight
  | _ => r.gatherWeight

/-- The partition has work pending at the unit: an item queued or in service there, or one that it unwraps the input of
(07 R174). -/
def State.worksOn (s : State) (u : UnitId) (p : Port) : Bool :=
  s.ports[p].items.any fun i =>
    ((i.st == .inService || i.st == .queued) && (unitGroup u).any fun v => i.unit == some v) ||
    (i.unwraps && s.unwrapUnit == some u)

/-- The partition's weight at the unit. -/
def State.weightOf (s : State) (u : UnitId) (p : Port) : Nat := s.parts[p].place.elim 0 (·.weightAt u.ty)

/-- The partition that the unit turns to next: the next in rotation with work, one of weight 0 only when no other has work. -/
def State.nextServed (s : State) (u : UnitId) (last : Nat) : Option Port :=
  let works := (List.finRange 6).filter (s.worksOn u)
  let heavy := works.filter fun p => s.weightOf u p != 0
  let l := if heavy.isEmpty then works else heavy
  (l.find? fun p => last < p.val).orElse fun _ => l.head?

/-- The partition that a shared unit works for now: the one its segment belongs to while that one has work, else the next in
rotation. -/
def State.turn (s : State) (u : UnitId) : Option Port :=
  match s.served.find? (·.1 == u.slot) with
  | none => s.nextServed u 6
  | some (_, q, _) => if s.worksOn u (pix q) then some (pix q) else s.nextServed u q

/-- It is the partition's turn at every unit that serves an item together with unit u (R85, R86, log 85). -/
def State.hasTurn (s : State) (p : Port) (u : UnitId) : Bool := (unitGroup u).all fun v => s.turn v == some p

/-- The item writes host memory: its rows, masks, records, output or reject list lie there. -/
def Item.writesHost (i : Item) : Bool :=
  let op := i.opcode
  if i.isIngest then i.fld 36 4 != 0
  else if op = opGather then i.dstSpace == 0 || bitsOf (i.fld 45 1) 4 2 == 0
  else if op = opSelect then i.dstSpace == 0 || (i.flag 6 && bitsOf (i.fld 53 1) 4 2 == 0)
  else if op = opSample || op = opCompress || op = opDecompress || op = opFlush then i.dstSpace == 0
  else false

/-- The shared units that an item works on give it its turn; no unit works in a tripped device (17 R405); host writes of a
function in D3hot or D3cold wait, and the item holds its unit (22 R498; log 115). -/
def State.itsTurn (s : State) (p : Port) (i : Item) : Bool :=
  !s.power.tripped && !(s.asleepFn p i.fn && i.writesHost) && i.unit.all fun u => !(u.ty == .decode || u.ty == .compress || u.ty == .gather) || s.hasTurn p u

/-- An item of the given opcode in service whose unit works for its partition now. -/
def State.servingNow (s : State) (p : Port) (k op : Nat) : Option Item := (s.serving p k op).filter (s.itsTurn p)

/-- A decode unit works on an ingest item: in its partition's turn and, where its input is unwrapped, in the turn at the
compression unit, which it thaws first (06 R149, R162; 07 R174). -/
def State.atDecode (s : State) (p : Port) (i : Item) (body : Unit → State) : State :=
  if !s.itsTurn p i then s
  else if !i.unwraps then body ()
  else
    match s.unwrapUnit with
    | none => s
    | some u => if !s.running u then s.thawUnit u else if s.hasTurn p u then body () else s

/-- SEGMENT_SWITCH (R85, R86): at a segment boundary a shared unit serves on until the partition's weight is used up, then
turns to the next. -/
def State.segmentSwitch (s : State) (u : UnitId) : State :=
  if !(u.ty == .decode || u.ty == .compress || u.ty == .gather) || !u.valid then s
  else
    let cur := s.served.find? (·.1 == u.slot)
    let rest := s.served.filter (·.1 != u.slot)
    let turn (last : Nat) : State :=
      match s.nextServed u last with
      | none => { s with served := rest }
      | some p => { s with served := (u.slot, p.val, max 1 (s.weightOf u p)) :: rest }
    match cur with
    | none => turn 6
    | some (_, p, left) =>
      if 1 < left && s.worksOn u (pix p) then { s with served := (u.slot, p, left - 1) :: rest } else turn p

def execSegmentSwitch (u : UnitId) (s : State) : Host.Outcome State Fault Refusal := .next (s.segmentSwitch u)

end Sys2Proof.Machine
end

