-- ==== Sys2Proof/Machine/Age.lean ====
section
/-! DEFINITION. AGE_TICK (05 R139 to R142) and EPOCH_SET (10 R243 to R246), and how an engine reaches slabs of sleeping
clusters (16 R372, R373). -/

namespace Sys2Proof.Machine

/-! ## Slabs of sleeping clusters -/

/-- An access to the place needs no thaw first. -/
def State.awake (s : State) (x : Place3) : Bool :=
  match x with
  | .slab t _ => s.clusterOper (t / 8) == .run || (s.clusterOper (t / 8)).down
  | _ => true

/-- The access arrives at the tile's fenced port and thaws its cluster (Table 16.5). -/
def State.wake (s : State) (x : Place3) : State :=
  match x with
  | .slab t _ => if s.awake x then s else s.thawUnit ⟨.tile, t⟩
  | _ => s

/-- Do something that accesses these places, or thaw the clusters it waits for (R373). -/
def State.reach (s : State) (xs : List Place3) (body : Unit → State) : State :=
  if xs.all s.awake then body () else xs.foldl State.wake s

/-! ## AGE_TICK -/

/-- What a sweep has done: ways removed, ways that remain occupied, whether a bucket was skipped, and for each tombstone
of a home table its tile, table, bucket and MEMBERS (R145). -/
structure Sweep where
  s : State
  removed : Nat
  left : Nat
  skipped : Bool
  stored : List (Nat × Nat × Nat × Nat)
  deriving DecidableEq, Repr

/-- Sweep one way of bucket b: its key and age as read (R141). -/
def Sweep.way (x : Sweep) (t : Nat) (e : TabEntry) (ticks b w key age : Nat) : Sweep :=
  if tombstone ≤ key then x
  else
    let a := min (age + ticks) 255
    let s1 := x.s.slabPut t (e.ageAt b w) (leBytes 1 a)
    if e.ttl ≤ a then { x with s := s1.slabPut t (e.keyAt b w) (leBytes 8 tombstone), removed := x.removed + 1 }
    else { x with s := s1, left := x.left + 1 }

/-- Sweep one bucket; one that reads uncorrectable is left as it is (R141). -/
def Sweep.bucket (x : Sweep) (t : Nat) (e : TabEntry) (ticks b : Nat) : Sweep :=
  let off := if x.s.slabBad t (e.keyAt b 0) 64 then e.keyAt b 0 else e.ageAt b 0
  if x.s.slabBad t (e.keyAt b 0) 64 || x.s.slabBad t (e.ageAt b 0) 8 then
    { x with s := x.s.slabLost t off, skipped := true }
  else
    let keys := x.s.slabGet t (e.keyAt b 0) 64
    let ages := x.s.slabGet t (e.ageAt b 0) 8
    let y := (List.range 8).foldl (fun a w => a.way t e ticks b w (field keys (8 * w) 8) (field ages w 1)) x
    if e.isHome then { y with stored := y.stored ++ List.replicate (y.removed - x.removed) (t, e.table, b, e.members) } else y

/-- Sweep a tile. -/
def Sweep.tile (x : Sweep) (ticks : Nat) (te : Nat × TabEntry) : Sweep :=
  (List.range te.2.count).foldl (fun a b => a.bucket te.1 te.2 ticks b) x

/-- The tiles that TILES names. -/
def Item.sweptTiles (i : Item) : List Nat := (List.range 128).filter fun t => (i.fld 32 16).testBit t

/-- Why an AGE_TICK does not sweep: the lowest field at fault, or an entry outside Table 5.2 (R125, R140). -/
def ageFault (i : Item) (es : List (Nat × TabEntry)) : Option (Status × Nat) :=
  if es.any fun te => te.2.kind == 2 && te.2.ageing && te.2.flow != i.flow then some (.badDescriptor, 8)
  else if es.any fun te => te.2.kind != 2 || !te.2.ageing then some (.badDescriptor, 16)
  else if es.any fun te => !te.2.wf then some (.bounds, 0)
  else none

/-- The invalidations that a sweep sends; none when one finds no quota (R145, Table 14.10). -/
def Partition.sweepSnoops (x : Partition) (key : Nat) : List (Nat × Nat × Nat × Nat) → Option (List Send)
  | [] => some []
  | (t, table, b, members) :: r =>
    match x.snoops t key table b members (List.range 128), x.sweepSnoops key r with
    | some a, some c => some (a ++ c)
    | _, _ => none

/-- The sweep of every named tile and the item's results. -/
def State.sweepAll (s : State) (p : Port) (i : Item) (es : List (Nat × TabEntry)) : State :=
  let start : Sweep := { s := s, removed := 0, left := 0, skipped := false, stored := [] }
  let x := es.foldl (fun a te => a.tile (i.fld 18 2) te) start
  match s.parts[p].sweepSnoops i.key x.stored with
  | none => s.finishService p i.key .bounds 0 0
  | some zs =>
    let s1 := (x.s.countP p .ageRemoved x.removed).updPart p fun y => { y with waiting := y.waiting ++ zs }
    s1.finishService p i.key (if x.skipped then .partialDone else .ok) x.removed x.left

/-- AGE_TICK (R140 to R142). -/
def State.ageTick (s : State) (p : Port) (k : Nat) : State :=
  match s.serving p k opAgeTick with
  | none => s
  | some i =>
    let n := i.fld 16 1
    let ts := i.sweptTiles
    s.reach (ts.map fun t => .slab t 0) fun _ =>
      match ts.find? fun t => s.slabBad t (64 * n) 64 with
      | some t => (s.slabLost t (64 * n)).finishService p k .uncorrectable 0 0
      | none =>
        let es := ts.map fun t => (t, TabEntry.of n (s.slabGet t (64 * n) 64))
        match ageFault i es with
        | some (st, off) => s.finishService p k st off 0
        | none => s.sweepAll p i es

def execAgeTick (p : Port) (k : Nat) (s : State) : Host.Outcome State Fault Refusal := .next (s.ageTick p k)

/-! ## EPOCH_SET -/

/-- The context that an EPOCH_SET leaves (R243). -/
def Item.newContext (i : Item) (c : RimeCtx) : RimeCtx :=
  if i.flag 4 then RimeCtx.make c.seed (c.epoch + 1) c.shuffleN
  else RimeCtx.make (BitVec.ofNat 64 (i.fld 16 8)) (BitVec.ofNat 32 (i.fld 24 4)) (i.fld 32 8)

/-- EPOCH_SET (R243, R246; 12 R276). -/
def State.epochSet (s : State) (p : Port) (k : Nat) : State :=
  match s.serving p k opEpochSet with
  | none => s
  | some i =>
    let c := i.newContext (s.ctxOf p i.pipeline)
    let s1 := s.updPart p fun x => { x with ctx := x.ctx.set (Fin.ofNat 256 i.pipeline) c }
    (s1.epochForQueues p i.pipeline).finishService p k .ok c.epoch.toNat c.k0.toNat

def execEpochSet (p : Port) (k : Nat) (s : State) : Host.Outcome State Fault Refusal := .next (s.epochSet p k)

end Sys2Proof.Machine
end

