-- ==== Sys2Proof/Machine/Gather.lean ====
section
/-! DEFINITION. Embedding tables: GATHER, the firn set, TABLE_REPLACE (08 R187 to R213). -/

namespace Sys2Proof.Machine

/-! ## Places -/

/-- The directory entry of slot n of a table: slot 0 of every stack is the default row's, slot floor(r / 8) + 1 row r's
(R189). -/
def dirPlace (g : GatherRun) (stack slot : Nat) : Place3 := .hbm stack (g.dirPage * 4096 + slot * 8)

/-- The cold row of slot n (R189). -/
def rowPlace (g : GatherRun) (c : GatherRec) (stack slot : Nat) : Place3 := .hbm stack (g.dataPage * 4096 + slot * coldStride c)

/-- Slot s of half h of a table's firn set: its tile, the offset of its row, the offset of its index (R191). -/
structure FirnSlot where
  tile : Nat
  row : Nat
  index : Nat
  deriving DecidableEq, Repr

/-- Where a firn slot lies, for the partition's tile list (R191). -/
def firnSlot (c : GatherRec) (tiles : List Nat) (h : Bool) (s : Nat) : FirnSlot :=
  let t := tiles.length
  let j := s / t
  let base := c.firnBase * 64 + h.toNat * halfBytes c t
  { tile := (tiles[s % t]?).getD 0, row := base + j * slotBytes c, index := base + slotsPerTile c t * slotBytes c + 4 * j }

/-- SCALE, SLOT_h, IN_h, ABSENT of a directory entry (Table 8.4). -/
def entryScale (e : Nat) : Nat := bitsOf e 0 16
def entrySlot (e : Nat) (h : Bool) : Nat := bitsOf e (if h then 36 else 16) 20
def entryIn (e : Nat) (h : Bool) : Bool := e.testBit (if h then 57 else 56)
def entryAbsent (e : Nat) : Bool := e.testBit 58

/-- An entry with IN_h cleared. -/
def entryWithout (e : Nat) (h : Bool) : Nat := if entryIn e h then e - 2 ^ (if h then 57 else 56) else e

/-- An entry with SLOT_h = k and IN_h = 1. -/
def entryWith (e : Nat) (h : Bool) (k : Nat) : Nat :=
  let lo := if h then 36 else 16
  let x := e - bitsOf e lo 20 * 2 ^ lo + k % 2 ^ 20 * 2 ^ lo
  if entryIn x h then x else x + 2 ^ (if h then 57 else 56)

/-- An uncorrectable error met at a place: the unit's fault summary and ERROR_CONTAINED (R208, 20 R450). -/
def State.reportUe (s : State) (p : Port) (x : Place3) : State :=
  match x with
  | .slab t off => s.slabLost t off
  | .hbm st off => (s.setFault ⟨.hbm, st⟩ 2).contained ⟨.hbm, st⟩ 2 ((s.hbmBase p + off) / 4096) [p]
  | _ => s

/-- The runtime descriptor of a table. -/
def State.gatherRun (s : State) (p : Port) (table : Nat) : Option GatherRun := s.parts[p].gtab.find? (·.table == table)

/-- The half of a table is valid. -/
def State.halfValid (s : State) (p : Port) (table : Nat) (h : Bool) : Bool :=
  (s.gatherRun p table).any fun g => if h then g.validB else g.validA

/-! ## Rows -/

/-- One element of a row as a value (R188). -/
def rowElement (cls : Nat) (half : Bool) (scale : Nat) (bs : List Byte) (n : Nat) : Fl :=
  match cls with
  | 0 => fp32.decode (field bs (4 * n) 4)
  | 1 => (ffmt (if half then 9 else 8)).decode (field bs (2 * n) 2)
  | 2 =>
    let v := toSigned 8 (field bs n 1)
    Fl.mul (.fin (v < 0) v.natAbs 0) ((ffmt 9).decode scale)
  | _ =>
    let v := toSigned 4 (bitsOf (field bs (n / 2) 1) (4 * (n % 2)) 4)
    Fl.mul (.fin (v < 0) v.natAbs 0) ((ffmt 9).decode scale)

/-- A row as it was read: class, FP16 choice, element bytes, scale. -/
structure RowRead where
  cls : Nat
  half : Bool
  elems : List Byte
  scale : Nat
  deriving DecidableEq, Repr

/-- The output row of a GATHER (R204). -/
def Item.outputRow (i : Item) (c : GatherRec) (r : RowRead) : List Byte :=
  if i.flag 4 then
    let f := if i.fld 46 1 = 0 then 10 else i.fld 46 1 + 7
    (List.range c.rowWidth).flatMap fun n =>
      leBytes (fmtBits f / 8) ((ffmt f).out rne (rowElement r.cls r.half r.scale r.elems n))
  else (padTo (i.outRow c) (r.elems ++ leBytes (rowScale r.cls) r.scale)).take (i.outRow c)

/-- Fault kinds of a position (R208). -/
inductive GFault where
  | row | directory
  deriving DecidableEq, Repr

/-- Read a cold row: slot n of a stack, with a scale that is known or read from the slot's entry. An uncorrectable error is
where it lies. -/
def State.coldRow (s : State) (p : Port) (i : Item) (g : GatherRun) (c : GatherRec) (stack slot : Nat) (scale : Option Nat) :
    Except (GFault × Option Place3) RowRead :=
  let x := rowPlace g c stack slot
  let d := dirPlace g stack slot
  let sc : Except (GFault × Option Place3) Nat :=
    match scale with
    | some v => .ok v
    | none =>
      if rowScale c.classCold = 0 then .ok 0
      else
        match s.readPlace p i d 8 with
        | .ue => .error (.directory, some d)
        | .bytes bs => if 2 ^ 59 ≤ leNat bs then .error (.directory, none) else .ok (entryScale (leNat bs))
  match sc with
  | .error e => .error e
  | .ok v =>
    match s.readPlace p i x (rowElems c.classCold c.rowWidth) with
    | .ue => .error (.row, some x)
    | .bytes bs => .ok { cls := c.classCold, half := c.coldFp16, elems := bs, scale := v }

/-- How a position resolves (R203): its row, whether it maps to the default row, whether it is hot, whether a stale firn slot
was met, and the state after a firn slot that failed. -/
structure Resolved where
  s : State
  row : Except (GFault × Option Place3) RowRead
  invalid : Bool
  hot : Bool
  stale : Bool

/-- Read a firn slot that passes the tests of R192 up to its index. -/
def State.firnRow (s : State) (p : Port) (i : Item) (g : GatherRun) (c : GatherRec) (r e : Nat) : Resolved :=
  let h := g.active
  let z := firnSlot c (s.tilesOf p) h (entrySlot e h)
  let cold (s1 : State) (stale : Bool) : Resolved :=
    { s := s1, row := s1.coldRow p i g c (r % 8) (r / 8 + 1) (some (entryScale e)), invalid := false, hot := false
      stale := stale }
  let bytes := rowElems c.classHot c.rowWidth + rowScale c.classHot
  if s.slabBad z.tile z.index 4 then cold (s.slabLost z.tile z.index) false
  else if leNat (s.slabGet z.tile z.index 4) != r then cold s true
  else if s.slabBad z.tile z.row bytes then cold (s.slabLost z.tile z.row) false
  else
    let bs := s.slabGet z.tile z.row bytes
    let n := rowElems c.classHot c.rowWidth
    { s := s, row := .ok { cls := c.classHot, half := c.hotFp16, elems := bs.take n, scale := leNat (bs.drop n) }
      invalid := false, hot := true, stale := false }

/-- The firn test of R192 passes for the entry up to the slot's index. -/
def State.maybeHot (s : State) (p : Port) (g : GatherRun) (c : GatherRec) (e : Nat) : Bool :=
  s.halfValid p c.table g.active && entryIn e g.active && entrySlot e g.active < c.firnSlots

/-- Resolve position n with index r (R203, R208). -/
def State.resolve (s : State) (p : Port) (i : Item) (g : GatherRun) (c : GatherRec) (n r : Nat) : Resolved :=
  let dflt (s1 : State) : Resolved :=
    { s := s1, row := s1.coldRow p i g c (n % 8) 0 none, invalid := true, hot := false, stale := false }
  let d := dirPlace g (r % 8) (r / 8 + 1)
  let bad (x : Option Place3) : Resolved :=
    { s := s, row := .error (.directory, x), invalid := false, hot := false, stale := false }
  if r = 0xFFFFFFFF || g.rows ≤ r then dflt s
  else
    match s.readPlace p i d 8 with
    | .ue => bad (some d)
    | .bytes bs =>
      let e := leNat bs
      if 2 ^ 59 ≤ e then bad none
      else if entryAbsent e then dflt s
      else if s.maybeHot p g c e then s.firnRow p i g c r e
      else { s := s, row := s.coldRow p i g c (r % 8) (r / 8 + 1) (some (entryScale e)), invalid := false, hot := false
             stale := false }

/-! ## GATHER -/

/-- What a GATHER has done up to a position: the masks as bits by position, the counts, the lowest fault. -/
structure Gathered where
  s : State
  status : Nat
  hot : Nat
  dflt : Nat
  hits : Nat
  stale : Nat
  faults : Nat
  first : Option (Nat × GFault)

/-- Write the row of position n. -/
def State.putRow (s : State) (p : Port) (i : Item) (n : Nat) (bs : List Byte) : State :=
  s.writePlace p ((place3 i.dstSpace (i.fld 24 8)).plus (n * i.fld 48 4)) bs

/-- Serve a position in LENIENT mode (R206, R209). -/
def Gathered.lenient (x : Gathered) (p : Port) (i : Item) (g : GatherRun) (c : GatherRec) (n r : Nat) : Gathered :=
  let j := n - i.fld 52 4
  let z := x.s.resolve p i g c n r
  let bit (b : Bool) : Nat := if b then 2 ^ j else 0
  match z.row with
  | .ok row =>
    { x with s := z.s.putRow p i n (i.outputRow c row), status := x.status + bit z.invalid, hot := x.hot + bit z.hot
             dflt := x.dflt + z.invalid.toNat, hits := x.hits + z.hot.toNat, stale := x.stale + z.stale.toNat }
  | .error (k, ue) =>
    let s1 := ue.elim z.s fun d => z.s.reportUe p d
    let (row, s2) : List Byte × State :=
      if z.invalid then (List.replicate (i.outRow c) 0, s1)
      else
        match s1.coldRow p i g c (n % 8) 0 none with
        | .ok row => (i.outputRow c row, s1)
        | .error (_, ue2) => (List.replicate (i.outRow c) 0, ue2.elim s1 fun d => s1.reportUe p d)
    { x with s := s2.putRow p i n row, status := x.status + bit true, dflt := x.dflt + z.invalid.toNat
             stale := x.stale + z.stale.toNat, faults := x.faults + 1
             first := x.first.orElse fun _ => some (n, k) }

/-- Serve positions in STRICT mode up to the first fault (R206, R210). -/
def Gathered.strict (p : Port) (i : Item) (g : GatherRun) (c : GatherRec) : List (Nat × Nat) → Gathered → Gathered
  | [], x => x
  | (n, r) :: rest, x =>
    let j := n - i.fld 52 4
    let z := x.s.resolve p i g c n r
    let bit (b : Bool) : Nat := if b then 2 ^ j else 0
    match z.row with
    | .ok row =>
      Gathered.strict p i g c rest
        { x with s := z.s.putRow p i n (i.outputRow c row), status := x.status + bit z.invalid, hot := x.hot + bit z.hot
                 dflt := x.dflt + z.invalid.toNat, hits := x.hits + z.hot.toNat, stale := x.stale + z.stale.toNat }
    | .error (k, ue) =>
      { x with s := ue.elim z.s fun d => z.s.reportUe p d, dflt := x.dflt + z.invalid.toNat, stale := x.stale + z.stale.toNat
               faults := 1, first := some (n, k) }

/-- Places of a GATHER: indices, rows, masks, with their bytes. -/
def Item.gatherRanges (i : Item) (c : GatherRec) : Ranges :=
  let sp := i.fld 45 1
  let n := i.fld 40 4
  [(16, place3 (bitsOf sp 0 2) (i.fld 16 8), 4 * n),
   (24, place3 (bitsOf sp 2 2) (i.fld 24 8), (n - 1) * i.fld 48 4 + i.outRow c),
   (32, place3 (bitsOf sp 4 2) (i.fld 32 8), 16 * ceilDiv (n - i.fld 52 4) 64)]

/-- Firn slots that the positions could be served from. -/
def State.firnPlaces (s : State) (p : Port) (i : Item) (g : GatherRun) (c : GatherRec) (rs : List Nat) : List Place3 :=
  rs.filterMap fun r =>
    if r = 0xFFFFFFFF || g.rows ≤ r then none
    else
      match s.readPlace p i (dirPlace g (r % 8) (r / 8 + 1)) 8 with
      | .ue => none
      | .bytes bs =>
        let e := leNat bs
        if 2 ^ 58 ≤ e || !s.maybeHot p g c e then none
        else
          let z := firnSlot c (s.tilesOf p) g.active (entrySlot e g.active)
          some (.slab z.tile z.index)

/-- The end of a GATHER: masks, counters, results (R205, R207, Table 8.9). -/
def State.gatherDone (x : Gathered) (p : Port) (i : Item) (served : Nat) : State :=
  let n := i.fld 40 4
  let start := i.fld 52 4
  let w := 8 * ceilDiv (n - start) 64
  let s1 := x.s.writePlace p (place3 (bitsOf (i.fld 45 1) 4 2) (i.fld 32 8)) (leBytes w x.status ++ leBytes w x.hot)
  let s2 := (((s1.countP p .gatherRows served).countP p .gatherDefault x.dflt).countP p .gatherFaults x.faults).countP p
    .firnHits x.hits
  let s3 := s2.countP p .firnStale x.stale
  let args (q : Nat) : PassArgs :=
    { b := ceilDiv ((q - start) * i.fld 48 4) 1024, d := i.contDisp, s0 := i.fld 56 6, e0 := start }
  match x.first with
  | none => s3.finishEngine p i .ok x.dflt x.hits (args n)
  | some (q, k) =>
    if i.strict then s3.finishEngine p i .stopped q (match k with | .row => 1 | .directory => 2) (args q)
    else s3.finishEngine p i .partialDone q x.faults (args n)

/-- GATHER (R201 to R210). -/
def State.gather (s : State) (p : Port) (k : Nat) : State :=
  match s.servingNow p k opGather with
  | none => s
  | some i =>
    match s.gatherRec p i.table, i.snap.find? (·.table == i.table) with
    | some c, some g =>
      let rs := i.gatherRanges c
      let n := i.fld 40 4
      let start := i.fld 52 4
      let ix := place3 (bitsOf (i.fld 45 1) 0 2) (i.fld 16 8)
      if !s.rangesOk p rs then s.finishService p k .bounds 0 0
      else
        s.reach (rs.map (·.2.1)) fun _ =>
          match s.readPlace p i (ix.plus (4 * start)) (4 * (n - start)) with
          | .ue => (s.reportUe p ix).finishService p k .uncorrectable 0 0
          | .bytes bs =>
            let idx := (List.range (n - start)).map fun j => (start + j, field bs (4 * j) 4)
            s.reach (s.firnPlaces p i g c (idx.map (·.2))) fun _ =>
              let x : Gathered :=
                { s := s, status := 0, hot := 0, dflt := 0, hits := 0, stale := 0, faults := 0, first := none }
              if i.strict then
                let y := Gathered.strict p i g c idx x
                State.gatherDone y p i ((y.first.elim n (·.1)) - start)
              else State.gatherDone (idx.foldl (fun a t => a.lenient p i g c t.1 t.2) x) p i (n - start)
    | _, _ => s

def execGather (p : Port) (k : Nat) (s : State) : Host.Outcome State Fault Refusal := .next (s.gather p k)

/-! ## The firn set -/

/-- Row r's directory entry. -/
def rowDir (g : GatherRun) (r : Nat) : Place3 := dirPlace g (r % 8) (r / 8 + 1)

/-- Change a directory entry. -/
def State.modEntry (s : State) (p : Port) (i : Item) (x : Place3) (f : Nat → Nat) : State :=
  match s.readPlace p i x 8 with
  | .ue => s
  | .bytes bs => s.writePlace p x (leBytes 8 (f (leNat bs)))

/-- A row index that a list may place. -/
def placeable (g : GatherRun) (r : Nat) : Bool := r != 0xFFFFFFFF && r < g.rows

/-- Write slot k of half h: its row and its index, or an unused mark (R194 step 4). -/
def State.putSlot (s : State) (z : FirnSlot) (row : Option (Nat × List Byte)) : State :=
  match row with
  | some (r, bs) => (s.slabPut z.tile z.row bs).slabPut z.tile z.index (leBytes 4 r)
  | none => s.slabPut z.tile z.index (leBytes 4 0xFFFFFFFF)

/-- Steps 3 to 6 of a FIRN_LOAD: the old list's entries, the slots, the new entries, the valid mark. -/
def State.firnWrite (s : State) (p : Port) (i : Item) (g : GatherRun) (c : GatherRec) (old : List Nat)
    (list : List Nat) (rows : List Byte) : State :=
  let h := !g.active
  let bytes := rowElems c.classHot c.rowWidth + rowScale c.classHot
  let s1 := old.foldl (fun a r => a.modEntry p i (rowDir g r) (entryWithout · h)) s
  let s2 := (List.range c.firnSlots).foldl (fun a k =>
    let z := firnSlot c (s.tilesOf p) h k
    match list[k]? with
    | some r => a.putSlot z (if placeable g r then some (r, slice rows (k * Sys2Proof.Machine.slotBytes c) bytes) else none)
    | none => a.putSlot z none) s1
  let s3 := list.zipIdx.foldl (fun a t => if placeable g t.1 then a.modEntry p i (rowDir g t.1) (entryWith · h t.2) else a) s2
  (s3.markInactiveHalf p c.table true).finishService p i.key .ok (list.filter (placeable g)).length h.toNat

/-- The rows in the half's old index list that are below ROWS (R194 step 3); a slot that reads uncorrectable holds none. -/
def State.oldList (s : State) (p : Port) (g : GatherRun) (c : GatherRec) : List Nat :=
  (List.range c.firnSlots).filterMap fun k =>
    let z := firnSlot c (s.tilesOf p) (!g.active) k
    if s.slabBad z.tile z.index 4 then none
    else
      let r := leNat (s.slabGet z.tile z.index 4)
      if placeable g r then some r else none

/-- FIRN_LOAD (R193, R194). -/
def State.firnLoad (s : State) (p : Port) (k : Nat) : State :=
  match s.servingNow p k opFirnLoad with
  | none => s
  | some i =>
    match s.gatherRec p i.table, s.gatherRun p i.table with
    | some c, some g =>
      let rs := i.firnRanges c
      if !s.rangesOk p rs then s.finishService p k .bounds 0 0
      else if s.halfHeld p i.table k then s
      else
        let s0 := s.markInactiveHalf p i.table false
        let src := place3 (bitsOf (i.fld 37 1) 0 2) (i.fld 16 8)
        let lst := place3 (bitsOf (i.fld 37 1) 2 2) (i.fld 24 8)
        let n := i.fld 32 4
        s0.reach ((s.tilesOf p).take (min c.firnSlots (s.tilesOf p).length) |>.map fun t => .slab t 0) fun _ =>
          match s0.readPlace p i lst (4 * n), s0.readPlace p i src (n * Sys2Proof.Machine.slotBytes c) with
          | .ue, _ => (s0.reportUe p lst).finishService p k .uncorrectable 0 0
          | _, .ue => (s0.reportUe p src).finishService p k .uncorrectable 0 0
          | .bytes lb, .bytes rows =>
            let list := (List.range n).map fun j => field lb (4 * j) 4
            let old := s0.oldList p g c
            match (old ++ list.filter (placeable g)).find? fun r => s0.readPlace p i (rowDir g r) 8 == .ue with
            | some r => (s0.reportUe p (rowDir g r)).finishService p k .uncorrectable 0 0
            | none => s0.firnWrite p i g c old list rows
    | _, _ => s

def execFirnLoad (p : Port) (k : Nat) (s : State) : Host.Outcome State Fault Refusal := .next (s.firnLoad p k)

/-- A FIRN_SWAP cannot swap the table: no firn slots, or an inactive half that is invalid or being loaded (R195,
Table 8.10). -/
def State.swapOffends (s : State) (p : Port) (t : Nat) : Bool :=
  !((s.gatherRec p t).any fun c => c.firnSlots != 0) || !((s.gatherRun p t).any fun g => if g.active then g.validA else g.validB) ||
  s.ports[p].items.any fun j => j.st == .inService && j.opcode == opFirnLoad && j.table == t

/-- FIRN_SWAP (R195). -/
def State.firnSwap (s : State) (p : Port) (k : Nat) : State :=
  match s.serving p k opFirnSwap with
  | none => s
  | some i =>
    let named := (List.range 256).filter fun t => (i.fld 16 32).testBit t
    match named.find? (fun t => s.swapOffends p t) with
    | some t => s.finishService p k .stateStale t 0xFFFFFFFF
    | none =>
      let flip (g : GatherRun) : GatherRun := if named.contains g.table then { g with active := !g.active } else g
      (s.updPart p fun x => { x with gtab := x.gtab.map flip }).finishService p k .ok named.length 0

def execFirnSwap (p : Port) (k : Nat) (s : State) : Host.Outcome State Fault Refusal := .next (s.firnSwap p k)

/-! ## TABLE_REPLACE -/

/-- The WRITE form's destination overlaps a live region of the table in that stack (R199). -/
def State.writesLive (s : State) (p : Port) (i : Item) (c : GatherRec) : Bool :=
  (s.gatherRun p i.table).any fun g =>
    overlap (i.fld 24 8) (i.fld 32 4) (g.dataPage * 4096) (dataBytes c g.rows) ||
    overlap (i.fld 24 8) (i.fld 32 4) (g.dirPage * 4096) (dirBytes g.rows)

/-- TABLE_REPLACE WRITE (R199). -/
def State.tableWrite (s : State) (p : Port) (k : Nat) : State :=
  match s.servingNow p k opTableReplace with
  | none => s
  | some i =>
    match s.gatherRec p i.table with
    | none => s
    | some c =>
      let n := i.fld 32 4
      let src := place3 (bitsOf (i.fld 38 1) 0 2) (i.fld 16 8)
      let dst := Place3.hbm (i.fld 37 1) (i.fld 24 8)
      if i.isSwap then s
      else if s.writesLive p i c then s.finishService p k .badDescriptor 24 0
      else if !s.inBounds p dst n || !s.inBounds p src n then s.finishService p k .bounds 0 0
      else
        match s.readPlace p i src n with
        | .ue => (s.reportUe p src).finishService p k .uncorrectable 0 0
        | .bytes bs => (s.writePlace p dst bs).finishService p k .ok n 0

def execTableReplaceWrite (p : Port) (k : Nat) (s : State) : Host.Outcome State Fault Refusal := .next (s.tableWrite p k)

/-- TABLE_REPLACE SWAP: a region past the range ends it; otherwise items naming the table are held, as they are from the start
of its service on (R200, Table 8.7 step 1). -/
def State.swapPause (s : State) (p : Port) (k : Nat) : State :=
  match s.serving p k opTableReplace with
  | none => s
  | some i =>
    match s.gatherRec p i.table with
    | none => s
    | some c =>
      if !i.isSwap then s
      else if s.swapBounds p i c then s.finishService p k .bounds 0 0
      else s.pauseTable p i.table k

def execTableReplaceSwap (p : Port) (k : Nat) (s : State) : Host.Outcome State Fault Refusal := .next (s.swapPause p k)

/-- GATHER and FIRN_LOAD items in service on a table (Table 8.7 step 2). -/
def State.tableBusy (s : State) (p : Port) (table : Nat) : Bool :=
  s.ports[p].items.any fun j => j.st == .inService && (j.opcode == opGather || j.opcode == opFirnLoad) && j.table == table

/-- Empty both index lists of a table (Table 8.7 step 3, R191). -/
def State.emptyLists (s : State) (p : Port) (c : GatherRec) : State :=
  [false, true].foldl (fun a h => (List.range c.firnSlots).foldl (fun b k =>
    b.putSlot (firnSlot c (s.tilesOf p) h k) none) a) s

/-- SWAP, steps 3 and 4 (R200, Table 8.7): the new descriptor, both halves invalid, the pause ends. -/
def State.tableSwap (s : State) (p : Port) (k : Nat) : State :=
  match s.serving p k opTableReplace with
  | none => s
  | some i =>
    match s.gatherRec p i.table with
    | none => s
    | some c =>
      if !(s.gatherRun p i.table).any (fun g => g.pause == some k) || s.tableBusy p i.table then s
      else
        let s1 := s.updPart p fun x => { x with gtab := x.gtab.map fun g =>
          if g.table == i.table then
            { g with dataPage := i.fld 40 4, dirPage := i.fld 44 4, rows := i.fld 48 8, validA := false, validB := false
                     pause := none }
          else g }
        let (n, s2) := (s1.emptyLists p c).takeFree
        s2.finishService p k .ok (Config.pauseLength n).toNat 0

def execSwap (p : Port) (k : Nat) (s : State) : Host.Outcome State Fault Refusal := .next (s.tableSwap p k)

end Sys2Proof.Machine
end

