-- ==== Sys2Proof/Machine/Select.lean ====
section
/-! DEFINITION. SELECT and SAMPLE (09 R214 to R234). -/

namespace Sys2Proof.Machine

/-! ## Elements and order -/

/-- An element of a row: its index and its bit pattern as read. -/
structure Elem where
  idx : Nat
  pat : Nat
  deriving DecidableEq, Repr

/-- A floating format of SELECT and SAMPLE. -/
def floatFmt (f : Nat) : Bool := 8 ≤ f && f ≤ 10

/-- The pattern is a NaN of the format. -/
def nanOf (f b : Nat) : Bool := floatFmt f && (ffmt f).isNan b

/-- The rank key of a pattern (R218). -/
def rankKey (f b : Nat) : Nat :=
  let w := fmtBits f
  let top := 2 ^ (w - 1)
  if f = 4 || f = 6 then (b + top) % 2 ^ w
  else if !floatFmt f then b
  else if nanOf f b then 0
  else if b % top = 0 then top
  else if b < top then b + top
  else 2 ^ w - 1 - b

/-- `a` stands before `b` in the selection order, by the keys given (R219). -/
def ranksBefore (key : Elem → Nat) (a b : Elem) : Bool := key b < key a || (key a == key b && a.idx < b.idx)

/-- Insert an element in order. -/
def insertBy (before : Elem → Elem → Bool) (a : Elem) : List Elem → List Elem
  | [] => [a]
  | b :: r => if before b a then b :: insertBy before a r else a :: b :: r

/-- Elements in order. -/
def orderBy (before : Elem → Elem → Bool) (xs : List Elem) : List Elem := xs.foldr (insertBy before) []

/-- The elements of a row in the selection order of their rank keys. -/
def selectionOrder (f : Nat) (xs : List Elem) : List Elem := orderBy (ranksBefore fun a => rankKey f a.pat) xs

/-- The elements of a row's bytes: n packed elements from an index base, or n entries (R217, R219, R224). -/
def rowElemsOf (list : Bool) (f n base : Nat) (bs : List Byte) : List Elem :=
  let w := fmtBits f
  if list then (List.range n).map fun k => { idx := field bs (8 * k) 4, pat := field bs (8 * k + 4) (w / 8) }
  else (List.range n).map fun k => { idx := base + k, pat := field bs (w / 8 * k) (w / 8) }

/-- An entry (R224). -/
def Elem.entry (a : Elem) : List Byte := leBytes 4 a.idx ++ leBytes 4 a.pat

/-! ## Summaries (R225) -/

/-- A finite value in units of the format's smallest subnormal. -/
def unitsOf (x : FFmt) : Fl → Int
  | .fin neg m e => let v : Int := (m * 2 ^ (e - x.emin).toNat : Nat); if neg then -v else v
  | _ => 0

/-- The sum of some elements (R225). -/
def sumOf (f : Nat) (xs : List Elem) : Nat :=
  if !floatFmt f then ofSigned 64 ((xs.map fun a => intVal f a.pat).foldl (· + ·) 0)
  else
    let x := ffmt f
    let vs := xs.map fun a => x.decode a.pat
    let pos := vs.contains (.inf false)
    let neg := vs.contains (.inf true)
    if pos && neg then fp64.nan
    else if pos || neg then fp64.out rne (.inf neg)
    else
      let t : Int := (vs.map (unitsOf x)).foldl (· + ·) 0
      if t = 0 then 0 else fp64.out rne (.fin (t < 0) t.natAbs x.emin)

/-- The summary record of a row (Table 9.4). -/
def summaryRecord (f qualified : Nat) (row written : List Elem) : List Byte :=
  let left := row.filter fun a => !written.contains a
  leBytes 4 written.length ++ leBytes 4 qualified ++ leBytes 4 (row.filter fun a => nanOf f a.pat).length ++ leBytes 4 0 ++
    leBytes 8 (sumOf f (written.filter fun a => !nanOf f a.pat)) ++ leBytes 8 (sumOf f (left.filter fun a => !nanOf f a.pat))

/-! ## SELECT -/

/-- What a row selects: the entries written and how many qualify (R221, R223). -/
def Item.selects (i : Item) (row : List Elem) : List Elem × Nat :=
  let f := i.fld 52 1
  let k := i.fld 44 4
  if i.flag 4 then
    let q := row.filter fun a => !nanOf f a.pat && rankKey f (i.fld 48 4) ≤ rankKey f a.pat
    let q1 := orderBy (fun a b => a.idx < b.idx) q
    (q1.take k, q.length)
  else ((selectionOrder f row).take k, min k row.length)

/-- Progress over the rows of an item: rows whose result is short (PARTIAL), the lowest, and a total. -/
structure RowsDone where
  s : State
  total : Nat
  short : Nat
  lowest : Option Nat

/-- The progress of an item before its first row. -/
def RowsDone.start (s : State) : RowsDone := { s := s, total := 0, short := 0, lowest := none }

/-- Where row r of an item's source lies, its bytes. -/
def Item.sourceRow (i : Item) (r : Nat) : Place3 :=
  (place3 (bitsOf (i.fld (spacesAt i.opcode) 1) 0 2) (i.fld 16 8)).plus (r * i.fld 56 4)

/-- The destination. -/
def Item.dstPlace (i : Item) : Place3 := place3 i.dstSpace (i.fld 24 8)

/-- One row of a SELECT: its entries, then its summary record. -/
def RowsDone.selectRow (x : RowsDone) (p : Port) (i : Item) (r : Nat) : Except RowsDone RowsDone :=
  let f := i.fld 52 1
  let n := i.fld 40 4
  let src := i.sourceRow r
  match x.s.readPlace p i src (rowBytesOf (i.flag 5) f n) with
  | .ue => .error { x with s := x.s.reportUe p src }
  | .bytes bs =>
    let row := rowElemsOf (i.flag 5) f n (i.fld 60 4) bs
    let (out, q) := i.selects row
    let s1 := x.s.writePlace p (i.dstPlace.plus (r * i.dstride)) (out.flatMap Elem.entry)
    let s2 :=
      if i.flag 6 then
        s1.writePlace p ((place3 (bitsOf (i.fld 53 1) 4 2) (i.fld 32 8)).plus (32 * r)) (summaryRecord f q row out)
      else s1
    let more : Bool := i.fld 44 4 < q
    .ok { s := s2.countP p .selectRows 1, total := x.total + out.length, short := x.short + more.toNat
          lowest := x.lowest.orElse fun _ => if more then some r else none }

/-- Rows from r on, up to the first that cannot be read. -/
def rowsFrom (f : RowsDone → Nat → Except RowsDone RowsDone) : Nat → Nat → RowsDone → Except RowsDone RowsDone
  | 0, _, x => .ok x
  | n + 1, r, x =>
    match f x r with
    | .error y => .error y
    | .ok y => rowsFrom f n (r + 1) y

/-- SELECT (R214 to R227, R230). -/
def State.select (s : State) (p : Port) (k : Nat) : State :=
  match s.servingNow p k opSelect with
  | none => s
  | some i =>
    let rs := i.rowRanges
    let rows := i.fld 54 2
    if !s.rangesOk p rs then s.finishService p k .bounds 0 0
    else
      s.reach (rs.map (·.2.1)) fun _ =>
        match rowsFrom (fun x r => x.selectRow p i r) rows 0 (.start s) with
        | .error x => x.s.finishService p k .uncorrectable 0 0
        | .ok x =>
          let args : PassArgs := { b := ceilDiv (rows * i.dstride) 1024, d := i.dstOff, s0 := 0, e0 := 0 }
          match x.lowest with
          | none => x.s.finishEngine p i .ok rows (min x.total 0xFFFFFFFF) args
          | some r => x.s.finishEngine p i .partialDone r x.short args

def execSelect (p : Port) (k : Nat) (s : State) : Host.Outcome State Fault Refusal := .next (s.select p k)

/-! ## SAMPLE (R228, R229) -/

def fadd (a b : Nat) : Nat := fp32.out rne (Fl.add 0 (fp32.decode a) (fp32.decode b))
def fsub (a b : Nat) : Nat := fp32.out rne (Fl.add 0 (fp32.decode a) (fp32.decode b).neg)
def fmul (a b : Nat) : Nat := fp32.out rne (Fl.mul (fp32.decode a) (fp32.decode b))
def fdiv (a b : Nat) : Nat := fp32.div rne (fp32.decode a) (fp32.decode b)
def fexp (a : Nat) : Nat := fp32.exp rne (fp32.decode a)

/-- 1.0 and the infinities of FP32. -/
def fOne : Nat := 0x3F800000
def fInf : Nat := 0x7F800000
def fNegInf : Nat := 0xFF800000

/-- A pattern widened to FP32. -/
def widen (f b : Nat) : Nat := fp32.out rne ((ffmt f).decode b)

/-- The weights of the candidates c with scaled values z, the first the greatest. -/
def weights (zs : List Nat) : List Nat :=
  let z0 := zs.headD 0
  zs.map fun z =>
    if z0 = fInf then (if z = fInf then fOne else 0)
    else if z0 = fNegInf then fOne
    else fexp (fsub z z0)

/-- Running sums C[1], C[2], … of weights from C[0]. -/
def prefixSums : Nat → List Nat → List Nat
  | _, [] => []
  | c, w :: ws => fadd c w :: prefixSums (fadd c w) ws

/-- The sample record of a row: index, value, prob, n, m (Table 9.5); none without a candidate. -/
structure Sampled where
  idx : Nat
  pat : Nat
  prob : Nat
  nucleus : Nat
  cands : Nat
  deriving DecidableEq, Repr

def Sampled.none : Sampled := { idx := 0xFFFFFFFF, pat := 0, prob := 0, nucleus := 0, cands := 0 }

def Sampled.record (x : Sampled) : List Byte :=
  leBytes 4 x.idx ++ leBytes 4 x.pat ++ leBytes 4 x.prob ++ leBytes 2 x.nucleus ++ leBytes 2 x.cands

/-- Draw one index of a row (R228). -/
def Item.sampleOf (i : Item) (ctx : RimeCtx) (r : Nat) (row : List Elem) : Option Sampled :=
  let f := i.fld 38 1
  let cs := row.filter fun a => !nanOf f a.pat
  let temp := i.fld 40 4
  if temp = 0 then
    (selectionOrder 10 (cs.map fun a => { a with pat := widen f a.pat })).head?.bind fun a =>
      (cs.find? (·.idx == a.idx)).map fun b => { idx := b.idx, pat := b.pat, prob := fOne, nucleus := 1, cands := 1 }
  else
    let m := min (i.fld 36 2) cs.length
    let z (a : Elem) : Nat := fdiv (widen f a.pat) temp
    let best := (orderBy (ranksBefore fun a => rankKey 10 (z a)) cs).take m
    let ws := weights (best.map z)
    let sums := prefixSums 0 ws
    let target := fmul (i.fld 44 4) (sums.getLastD 0)
    let n := (sums.findIdx fun x => target ≤ x) + 1
    let cn := (sums[n - 1]?).getD 0
    let v := (ctx.rime 0x0004 ((i.fld 48 6 + r) % 2 ^ 48) (i.fld 60 4) 0).w0.toNat / 256
    let t := fmul (fp32.out rne (.fin false v (-24))) cn
    let j := min ((sums.take n).findIdx fun x => t < x) (n - 1)
    (best[j]?).map fun a =>
      { idx := a.idx, pat := a.pat, prob := fdiv ((ws[j]?).getD 0) cn, nucleus := n, cands := m }

/-- One row of a SAMPLE. -/
def RowsDone.sampleRow (x : RowsDone) (p : Port) (i : Item) (ctx : RimeCtx) (r : Nat) : Except RowsDone RowsDone :=
  let f := i.fld 38 1
  let n := i.fld 32 4
  let src := i.sourceRow r
  match x.s.readPlace p i src (rowBytesOf (i.flag 5) f n) with
  | .ue => .error { x with s := x.s.reportUe p src }
  | .bytes bs =>
    let z := i.sampleOf ctx r (rowElemsOf (i.flag 5) f n 0 bs)
    let y := z.getD Sampled.none
    let s1 := (x.s.writePlace p (i.dstPlace.plus (16 * r)) y.record).countP p .sampleRows 1
    .ok { s := s1.countP p .sampleEmpty z.isNone.toNat, total := if r = 0 then y.idx else x.total
          short := x.short + z.isNone.toNat, lowest := x.lowest.orElse fun _ => if z.isNone then some r else none }

/-- SAMPLE (R228 to R230). -/
def State.sample (s : State) (p : Port) (k : Nat) : State :=
  match s.servingNow p k opSample with
  | none => s
  | some i =>
    let rs := i.rowRanges
    let rows := i.fld 54 2
    let ctx := i.ctx.getD (s.ctxOf p i.pipeline)
    if !s.rangesOk p rs then s.finishService p k .bounds 0 0
    else
      s.reach (rs.map (·.2.1)) fun _ =>
        match rowsFrom (fun x r => x.sampleRow p i ctx r) rows 0 (.start s) with
        | .error x => x.s.finishService p k .uncorrectable 0 0
        | .ok x =>
          let args : PassArgs := { b := ceilDiv (16 * rows) 1024, d := i.dstOff, s0 := i.fld 48 6, e0 := 0 }
          match x.lowest with
          | none => x.s.finishEngine p i .ok rows x.total args
          | some r => x.s.finishEngine p i .partialDone r x.short args

def execSample (p : Port) (k : Nat) (s : State) : Host.Outcome State Fault Refusal := .next (s.sample p k)

/-! ## A failed read (R234) -/

/-- Rows before the row of an item's source that holds a byte offset. -/
def Item.rowsBefore (i : Item) (off : Nat) : Nat :=
  if i.fld 56 4 = 0 then 0 else min (off / i.fld 56 4) (i.fld 54 2)

/-- The rows of a SELECT or SAMPLE in service before the one whose read failed stand: they are written and counted (R234, log
100). -/
def State.earlierRows (s : State) (p : Port) (i : Item) (off : Nat) : State :=
  if i.st != .inService || !s.rangesOk p i.rowRanges || !(i.rowRanges.map (·.2.1)).all s.awake then s
  else
    let rows (f : RowsDone → Nat → Except RowsDone RowsDone) : State :=
      match rowsFrom f (i.rowsBefore off) 0 (.start s) with
      | .ok x => x.s
      | .error x => x.s
    if i.opcode = opSelect then rows fun x r => x.selectRow p i r
    else if i.opcode = opSample then rows fun x r => x.sampleRow p i (i.ctx.getD (s.ctxOf p i.pipeline)) r
    else s

end Sys2Proof.Machine
end

