-- ==== Sys2Proof/Machine/Port.lean ====
section
/-! DEFINITION. Host ports: resets, power states, link, configuration, host-read completions, SPDM and IDE (03 R90, 20 R457 to
R466, 22 R487 to R510, 23 R515 to R518, 24 R528, R533 to R536). -/

namespace Sys2Proof.Machine

/-! ## Resets of functions and ports -/

/-- Configuration registers of a function at their PCI Express reset values; PME_En, PME_Status and the AER registers
are sticky (log 4). -/
def FnState.resetConfig (x : FnState) : FnState :=
  { x with
    d3 := false, msixEnable := false, msixMask := false, msix := [], mps := 128, mrrs := 512, relaxed := true
    memEnable := false, ltrEnable := false, aspmL1 := false, l11 := false, l12 := false, commonClock := false, ptmEnable := false, ptmBusy := false }

/-- Queue pairs and event queue of a function at their reset values (23 R518, 24 R534). -/
def FnState.resetQueues (x : FnState) : FnState :=
  { x with
    qps := Vector.replicate 64 .reset, evq := [], evLost := 0, evClasses := 0xFFF, evVector := 0, evVecEn := false }

/-- What an FLR of the function itself also resets (23 R516, 24 R532, R533). -/
def FnState.resetOwn (x : FnState) : FnState :=
  { x with portErr := 0, cnt := Vector.replicate 7 0, ptmHost := 0, ptmDev := 0 }

/-- Take a function's doorbells off the port. -/
def State.dropDoorbells (s : State) (p : Port) (f : Func) : State :=
  s.updPort p fun q => { q with fifo := q.fifo.filter (·.1 != f.val), overflow := q.overflow.filter (·.1 != f.val) }

/-- Reset the queues and configuration of one function. -/
def State.resetFn (s : State) (p : Port) (f : Func) : State :=
  (s.dropDoorbells p f).updFn p f fun x => x.resetQueues.resetConfig

/-- What FLR of the PF and every port link reset reset of the port: every function's queues and configuration, VF Enable,
LEDGER_SEL, BAR4_BASE, the IDE stream, SPDM (22 R509, Table 22.5, 24 R528). -/
def State.resetPort (s : State) (p : Port) : State :=
  ((List.finRange 16).foldl (fun a f => a.resetFn p f) s).updPort p fun q => { q with
    fifo := [], overflow := [], numVfs := 0, vfEnable := false, ari := false, ledgerSel := 0, bar4Base := 0, bar4Mib := 64
    bar4Next := none, windows := [], ideRx := .none, ideTx := .none, spdm := .none }

/-- The shape a PLACE record gives a port (Table 3.6, 19 R442). -/
def shapeOf : Option Place → Shape
  | none => .absent
  | some r => { vfCount := r.vfCount, qpPf := r.qpPf, qpVf := r.qpVf, msixPf := r.msixPf, msixVf := r.msixVf, bar4 := r.bar4 }

/-- The PLACE record whose shape the port takes at its next reset: before the floor is applied, that of the verified default
floor (22 R499). -/
def State.nextPlace (s : State) (p : Port) : Option Place :=
  if s.boot.ready || s.boot.fatal then s.parts[p].place else s.boot.defaultFloor.bind fun f => f.places[p]

/-- A port link reset (20 R463 to R466, 03 R90): every epoch increments and every item of the port ends; registers return to
their reset values; without RETAIN_ON_LINK_RESET the partition is scrubbed, and a scrub that has incremented the epoch
increments it no second time (03 Table 3.8). -/
def State.linkReset (s : State) (p : Port) : State :=
  let retain := s.parts[p].place.any (·.retain)
  let once : BitVec 32 := if !retain && s.parts[p].scrubBumped then 0 else 1
  let s1 := ((s.bumpEpoch p (List.finRange 16) once).resetPort p).updPort p
    ({ · with linkUp := false, flit := false, lanes := 0, rate := 0, linkPm := .l0, staged := [] })
  let s2 := s1.updateLtr p
  if retain then s2 else s2.startScrub p true .nobody

/-- PORT_CTRL and the shape take what PERST_n and a hot reset give them (R515, R87). -/
def State.hardReset (s : State) (p : Port) : State :=
  s.updPort p ({ · with cto := 2, shape := shapeOf (s.nextPlace p) })

/-- PERST_ASSERT (R499, R90): a port link reset, and D3cold while the pin is low. -/
def execPerstAssert (p : Port) (s : State) : Host.Outcome State Fault Refusal :=
  .next (((s.linkReset p).hardReset p).updPort p ({ · with perstN := false }))

/-- HOT_RESET (R90). -/
def execHotReset (p : Port) (s : State) : Host.Outcome State Fault Refusal := .next ((s.linkReset p).hardReset p)

/-- LINK_DOWN (R90, Table 20.3, Table 23.7): the link is lost without PERST_n or a hot reset. -/
def State.linkDown (s : State) (p : Port) : State :=
  let s1 := s.updFn p 0 fun x => { x with portErr := x.portErr ||| 0x40 }
  (s1.setFault ⟨.port, p.val⟩ 8).linkReset p

def execLinkDown (p : Port) (s : State) : Host.Outcome State Fault Refusal := .next (s.linkDown p)

/-- FLR (R497, Table 20.6, Table 22.5): the PF's resets the port's functions, a VF's that VF; the function is in D0. -/
def State.flr (s : State) (p : Port) (f : Func) : State :=
  if !s.fnExists p f then s
  else if f.val = 0 then
    ((((s.bumpEpoch p (List.finRange 16)).resetPort p).updPort p ({ · with cto := 2 })).updFn p 0 FnState.resetOwn).updateLtr p
  else (((s.bumpEpoch p [f]).resetFn p f).updFn p f FnState.resetOwn).updateLtr p

def execFlr (p : Port) (f : Func) (s : State) : Host.Outcome State Fault Refusal := .next (s.flr p f)

/-! ## Power states and wake -/

/-- A wake condition that has come to exist sets PME_Status and, in D3hot with the link up, sends PM_PME (R500). -/
def State.evalWake (s : State) (p : Port) (f : Func) : State :=
  let x := s.fn p f
  if x.pmeEn && !x.pmeStatus && s.asleepFn p f && !x.evq.isEmpty then
    let s1 := s.updFn p f ({ · with pmeStatus := true })
    if s.ports[p].perstN && s.ports[p].linkUp then s1.send (.pme p f) else s1
  else s

/-- Level of HPp_WAKE_n (R500): low while PERST_n is low and a PME_Status of the port is set. -/
def State.wakeN (s : State) (p : Port) : Bool :=
  s.ports[p].perstN || (List.finRange 16).all fun f => !(s.fn p f).pmeStatus

/-- D3HOT_ENTRY (R498). -/
def State.d3Entry (s : State) (p : Port) (f : Func) : State :=
  if !s.fnExists p f || (s.fn p f).d3 then s
  else
    let s1 := s.updFn p f ({ · with d3 := true })
    ((List.range 64).foldl (fun a n => a.drainPair p f n) s1).evalWake p f

def execD3hotEntry (p : Port) (f : Func) (s : State) : Host.Outcome State Fault Refusal := .next (s.d3Entry p f)

/-- D3HOT_EXIT (R498): the writes that wait go on. -/
def State.d3Exit (s : State) (p : Port) (f : Func) : State :=
  if s.fnExists p f && (s.fn p f).d3 then s.updFn p f ({ · with d3 := false }) else s

def execD3hotExit (p : Port) (f : Func) (s : State) : Host.Outcome State Fault Refusal := .next (s.d3Exit p f)

/-! ## Link -/

/-- LINK_UP (R489, R499): PERST_n is high and the PHY is up; a width of x16, x8 or x4 and a rate code of Table 23.3 (1 2.5,
6 64 GT/s, Flit mode required there); the clocking mode is that of Common Clock Configuration (R503). -/
def State.trainLink (s : State) (p : Port) (lanes rate : Nat) (flit : Bool) : State :=
  if s.porN && s.ports[p].phyUp && (lanes == 16 || lanes == 8 || lanes == 4) && 1 ≤ rate && rate ≤ 6 then
    s.updPort p ({ · with
      perstN := true, linkUp := true, lanes := lanes, rate := rate, flit := flit || rate == 6, linkPm := .l0, clkreqN := false
      commonClock := (s.fn p 0).commonClock })
  else s

def execLinkUp (p : Port) (lanes rate : Nat) (flit : Bool) (s : State) : Host.Outcome State Fault Refusal :=
  .next (s.trainLink p lanes rate flit)

/-- L1_ENTRY (R501): L1, or L1.1 or L1.2 as enabled; a substate releases CLKREQ_n. -/
def State.l1Entry (s : State) (p : Port) (sub : Nat) : State :=
  let x := s.fn p 0
  if s.ports[p].linkUp && x.aspmL1 && (sub == 0 || (sub == 1 && x.l11) || (2 ≤ sub && x.l12)) then
    s.updPort p ({ · with
      linkPm := if sub = 0 then .l1 else if sub = 1 then .l11 else .l12, clkreqN := decide (sub ≠ 0) })
  else s

def execL1Entry (p : Port) (sub : Nat) (s : State) : Host.Outcome State Fault Refusal := .next (s.l1Entry p sub)

/-- L1_EXIT (R501). -/
def execL1Exit (p : Port) (s : State) : Host.Outcome State Fault Refusal := .next (s.exitL1 p)

/-! ## Configuration -/

/-- A word of the header that the manual gives (R487: identity, class, Interrupt Pin 0), else bytes of the PCI Express layout
(log 10). -/
def headerWord (f : Func) (off : Nat) : BitVec 32 :=
  if off = 0 then BitVec.ofNat 32 (vendorId + (if f.val = 0 then 0x7007 else 0x7017) * 2 ^ 16)
  else if off = 8 then BitVec.ofNat 32 (0x10 + 0x120000 * 2 ^ 8)
  else if off = 0x3C then
    Config.standardByte 1 (off + 3) ++ Config.standardByte 1 (off + 2) ++ (0 : Byte) ++ Config.standardByte 1 off
  else
    Config.standardByte 1 (off + 3) ++ Config.standardByte 1 (off + 2) ++ Config.standardByte 1 (off + 1) ++
      Config.standardByte 1 off

/-- What BAR n reads once all ones were written (Table 22.3): 64-bit BARs, BAR4 prefetchable and the PF's alone. -/
def State.barMask (s : State) (p : Port) (f : Func) (n : Nat) : Nat :=
  let low (size kind : Nat) : Nat := 2 ^ 32 - size + kind
  if n = 0 then low 0x1000000 4
  else if n = 2 then low 0x40000 4
  else if n = 4 && f.val = 0 && s.ports[p].shape.bar4 then low (s.ports[p].bar4Mib * 0x100000) 0xC
  else if n = 1 || n = 3 || (n = 5 && f.val = 0 && s.ports[p].shape.bar4) then 2 ^ 32 - 1
  else 0

/-- Code of a payload or read size: 0 for 128 bytes, one more for each doubling. -/
def sizeCode (n : Nat) : Nat := Nat.log2 n - 7

/-- The IDE stream is in Secure state (R509). -/
def PortState.ideSecure (q : PortState) : Bool := q.ideRx == .active && q.ideTx == .active

/-- A register of a capability, its fields as PCI Express places them, those that no rule of the manual gives 0 (log 113):
R490, R494 to R496, R498, R500 to R506, R509. -/
def State.configReg (s : State) (p : Port) (f : Func) : CfgReg → BitVec 32
  | .header off => headerWord f off
  | r =>
    let x := s.fn p f
    let q := s.ports[p]
    let flag (b : Bool) (n : Nat) : Nat := if b then 2 ^ n else 0
    let pf (v : Nat) : Nat := if f.val = 0 then v else 0
    BitVec.ofNat 32 (match r with
    | .header _ => 0
    | .barSize n => s.barMask p f n
    | .powerCaps => 2 ^ 30 + 2 ^ 31
    | .powerControl => (if x.d3 then 3 else 0) + 8 + flag x.pmeEn 8 + flag x.pmeStatus 15
    | .deviceControl => flag x.relaxed 4 + sizeCode x.mps * 2 ^ 5 + sizeCode x.mrrs * 2 ^ 12
    | .deviceCaps2 => 2 ^ 11 + 2 ^ 16 + 2 ^ 17
    | .deviceControl2 => flag x.ltrEnable 10
    | .link => flag x.aspmL1 1 + flag x.commonClock 6 + q.rate * 2 ^ 16 + q.lanes * 2 ^ 20
    | .sriovControl => pf (flag q.vfEnable 0 + flag q.ari 4)
    | .sriovVfs => pf (q.shape.vfCount + q.shape.vfCount * 2 ^ 16)
    | .sriovNumVfs => pf q.numVfs
    | .sriovStride => pf (1 + 2 ^ 16)
    | .sriovDevice => pf (0x7017 * 2 ^ 16)
    | .msix => if s.msixSize p f = 0 then 0 else (s.msixSize p f - 1) * 2 ^ 16 + flag x.msixMask 30 + flag x.msixEnable 31
    | .resizableCaps => pf (if q.shape.bar4 then 0x700 else 0)
    | .resizableControl => pf (if q.shape.bar4 then 4 + 2 ^ 5 + Nat.log2 (q.bar4Next.getD q.bar4Mib) * 2 ^ 8 else 0)
    | .ptmCaps => 1 + 2 ^ 8
    | .ptmControl => flag x.ptmEnable 0
    | .l1Substates => pf (flag x.l12 2 + flag x.l11 3)
    | .aerStatus => x.aerStatus.toNat
    | .aerSeverity => x.aerSeverity.toNat
    | .aerCorrected => x.aerCorrected.toNat
    | .aerLog k => bitsOf x.aerLog.toNat (32 * k.val) 32
    | .ide => pf (if q.ideSecure then 2 else 0))

/-- CONFIGURATION_REQUEST (R444, R490, R494 to R496, R498, R500 to R504): a BAR4 size takes effect when Memory Space Enable is
next set (R494); a write that asks for D1 or D2 is ignored (R498). -/
def State.configure (s : State) (p : Port) (f : Func) (r : CfgReq) : State :=
  if !s.fnExists p f then s
  else
    match r with
    | .read r => s.send (.config p f (s.configReg p f r))
    | .powerState n => if n = 3 then s.d3Entry p f else if n = 0 then s.d3Exit p f else s
    | .commonClock on => if f.val = 0 then s.updFn p f ({ · with commonClock := on }) else s
    | .l1Substates l11 l12 => if f.val = 0 then s.updFn p f ({ · with l11 := l11, l12 := l12 }) else s
    | .aerSeverity v => s.updFn p f ({ · with aerSeverity := v })
    | .aerStatusClear v => s.updFn p f fun x => { x with aerStatus := x.aerStatus &&& ~~~v }
    | .aerCorrectedClear v => s.updFn p f fun x => { x with aerCorrected := x.aerCorrected &&& ~~~v }
    | .memSpaceEnable on =>
      let s1 := s.updFn p f ({ · with memEnable := on })
      if on && !(s.fn p f).memEnable && f.val = 0 then
        s1.updPort p fun q => { q with bar4Mib := q.bar4Next.getD q.bar4Mib, bar4Next := none }
      else s1
    | .maxPayload n => if n = 128 || n = 256 || n = 512 then s.updFn p f ({ · with mps := n }) else s
    | .maxReadRequest n =>
      if 128 ≤ n && n ≤ 4096 && 2 ^ Nat.log2 n == n then s.updFn p f ({ · with mrrs := n }) else s
    | .relaxedOrdering on => s.updFn p f ({ · with relaxed := on })
    | .numVfs n =>
      if f.val = 0 && !s.ports[p].vfEnable && n ≤ s.ports[p].shape.vfCount then s.updPort p ({ · with numVfs := n }) else s
    | .ariCapable on => if f.val = 0 then s.updPort p ({ · with ari := on }) else s
    | .bar4Size mib =>
      if f.val = 0 && s.ports[p].shape.bar4 && (mib = 16 || mib = 32 || mib = 64) then
        s.updPort p ({ · with bar4Next := some mib })
      else s
    | .msixEnable on => if s.msixSize p f != 0 then s.updFn p f ({ · with msixEnable := on }) else s
    | .msixFunctionMask on => if s.msixSize p f != 0 then s.updFn p f ({ · with msixMask := on }) else s
    | .ptmEnable on => s.updFn p f ({ · with ptmEnable := on })
    | .ltrEnable on => if f.val = 0 then s.updFn p f ({ · with ltrEnable := on }) else s
    | .aspmL1 on => if f.val = 0 then s.updFn p f ({ · with aspmL1 := on }) else s
    | .pmeEnable on => (s.updFn p f ({ · with pmeEn := on })).evalWake p f
    | .pmeStatusClear => s.updFn p f ({ · with pmeStatus := false })

/-- Vectors whose Pending Bit is set and which nothing masks any longer are signalled (R496, PCI Express). -/
def State.firePending (s : State) (p : Port) (f : Func) : State :=
  let x := s.fn p f
  if !x.msixEnable || x.msixMask then s
  else
    (x.msix.filter fun e => e.pending && !e.mask).foldl (fun a e =>
      (a.updFn p f (·.setMsix { e with pending := false })).send (.msix p f e.vector e.addr e.data)) s

def execConfigurationRequest (p : Port) (f : Func) (r : CfgReq) (s : State) : Host.Outcome State Fault Refusal :=
  .next ((s.configure p f r).firePending p f)

/-- VFs of the port that exist. -/
def State.vfs (s : State) (p : Port) : List Func := (List.finRange 16).filter fun f => f.val != 0 && s.fnExists p f

/-- VF_ENABLE (R495): set, it creates NumVFs VFs unless the ARI rule forbids; cleared, it takes the VFs away and their epochs
increment (R463, log 21). -/
def State.vfEnableWrite (s : State) (p : Port) (on : Bool) : State :=
  if on then
    if 7 < s.ports[p].numVfs && !s.ports[p].ari then s else s.updPort p ({ · with vfEnable := true })
  else if s.ports[p].vfEnable then
    let gone := s.vfs p
    ((gone.foldl (fun a f => a.resetFn p f) (s.bumpEpoch p gone)).updPort p ({ · with vfEnable := false })).updateLtr p
  else s

def execVfEnable (p : Port) (on : Bool) (s : State) : Host.Outcome State Fault Refusal := .next (s.vfEnableWrite p on)

/-! ## Host reads -/

/-- The item that a host read belongs to: of the function, with the token, in service and not ended; an image descriptor reads
as the port serves it. -/
def State.readOwner (s : State) (p : Port) (f : Func) (tok : Nat) : Option Item :=
  s.ports[p].items.find? fun i => i.fn == f && i.token == tok && !i.orphan &&
    (i.st == .inService || (i.st == .waiting && isImageOp i.opcode))

/-- A late completion (R462, Table 23.7 bit 5). -/
def State.lateDiscard (s : State) (p : Port) (f : Func) (tok : BitVec 32) : State :=
  let s1 := (s.countF p f .dmaLateDiscard).updFn p f fun x => { x with portErr := x.portErr ||| 0x20 }
  s1.postEvent .dmaLateDiscard ⟨.port, p.val⟩ tok.toNat [(p, f)] (some p) tok.toNat

/-- A DMA failure ends the item (R460, Table 23.7 bit 2): causes 2 and 3 set DMA_POISON; ERROR_CONTAINED with cause 0xFF.
Windows that an ingest item has dispatched run to their end first (06 R168); earlier rows of a SELECT or SAMPLE stand (09
R234). -/
def State.dmaFail (s : State) (p : Port) (i : Item) (st : Status) (off cause : Nat) : State :=
  let s1 := (s.earlierRows p i off).updFn p i.fn fun x => { x with
    portErr := (x.portErr &&& ~~~(0xFF0000 : BitVec 64)) ||| BitVec.ofNat 64 (0x4 + cause * 2 ^ 16) }
  let s2 := if cause = 2 || cause = 3 then s1.setFault ⟨.port, p.val⟩ 10 else s1
  (((s2.contained ⟨.port, p.val⟩ 0xFF 0 [p]).stopItem p i).finish p i.key st (min off (2 ^ 32 - 1)) cause).updItem p i.key
    fun j => { j with cont := none, stepsLeft := if j.isIngest then j.openWindows else 0, readFailed := true }

/-- A read that came back poisoned or with an ECRC error: re-issued twice, then the item ends (R457). -/
def State.reissue (s : State) (p : Port) (i : Item) (off cause : Nat) : State :=
  let n := ((i.reissued.find? (·.1 == off)).map (·.2)).getD 0
  if n < 2 then s.updItem p i.key fun j => { j with reissued := (off, n + 1) :: j.reissued.filter (·.1 != off) }
  else s.dmaFail p i .uncorrectable off cause

/-- An item that a failed read ended and whose dispatched windows still run: it has not ended yet (06 R168). -/
def State.failedReader (s : State) (p : Port) (f : Func) (tok : Nat) : Option Item :=
  s.ports[p].items.find? fun i => i.fn == f && i.token == tok && !i.orphan && i.st == .completing && i.readFailed && i.stepsLeft != 0

/-- A further failed read before the item ends: Result0 is the lowest offset (R460). -/
def State.lowerOffset (s : State) (p : Port) (i : Item) (off : Nat) : State :=
  s.updItem p i.key fun j => { j with r0 := if off < j.r0.toNat then BitVec.ofNat 32 off else j.r0 }

/-- The AER error of a host read's completion (22 Table 22.4). -/
def aerOfRead : HostRead → Option AerError
  | .ok _ _ => none
  | .poisoned => some .poisoned
  | .ecrc => some .ecrc
  | .unsupportedRequest => some .unsupportedRequest
  | .completerAbort => some .completerAbort

/-- HOST_READ_COMPLETION (R457, R458, R460, R462, R558): its bytes are those the item uses; a failed one is an AER error and is
re-issued or ends the item; one without an item is discarded late. -/
def State.hostRead (s : State) (p : Port) (f : Func) (tok : BitVec 32) (off : Nat) (r : HostRead) : State :=
  let a : State := (aerOfRead r).elim s (s.aerError p f)
  match a.readOwner p f tok.toNat with
  | none =>
    match r, a.failedReader p f tok.toNat with
    | .unsupportedRequest, some i | .completerAbort, some i => a.lowerOffset p i off
    | _, _ => a.lateDiscard p f tok
  | some i =>
    match r with
    | .ok addr bytes => a.updItem p i.key fun j => { j with delivered := j.delivered.puts (addr % 2 ^ 64) bytes }
    | .poisoned => a.reissue p i off 2
    | .ecrc => a.reissue p i off 3
    | .unsupportedRequest => a.dmaFail p i .bounds off 4
    | .completerAbort => a.dmaFail p i .bounds off 5

def execHostReadCompletion (p : Port) (f : Func) (tok : BitVec 32) (off : Nat) (r : HostRead) (s : State) :
    Host.Outcome State Fault Refusal := .next (s.hostRead p f tok off r)

/-- COMPLETION_TIMEOUT (R460, Table 22.4): the item ends HOST_TIMEOUT. A timeout of no read of an item does not occur. -/
def State.readTimeout (s : State) (p : Port) (f : Func) (tok : BitVec 32) (off : Nat) : State :=
  match s.readOwner p f tok.toNat, s.failedReader p f tok.toNat with
  | none, none => s
  | none, some i => (s.aerError p f .completionTimeout).lowerOffset p i off
  | some i, _ => (s.aerError p f .completionTimeout).dmaFail p i .hostTimeout off 1

def execCompletionTimeout (p : Port) (f : Func) (tok : BitVec 32) (off : Nat) (s : State) :
    Host.Outcome State Fault Refusal := .next (s.readTimeout p f tok off)

/-! ## DOE: SPDM and IDE_KM -/

/-- DIGEST of the applied floor as measured: before step 12, of the verified default floor (Table 19.5). -/
def State.measuredFloor (s : State) : List Byte :=
  if s.boot.ready || s.boot.fatal then s.floorDigest else s.boot.defaultFloor.elim zeroDigest (·.digest)

/-- An SPDM measurement block (Table 18.4). Blocks 2 and 3 are of the firmware that was booted: an update of its bank changes
them at the next release of POR_n (R424). -/
def State.measurement (s : State) (p : Port) (idx : Nat) : List Byte :=
  match idx with
  | 1 => (List.range 48).map Config.bootRomIdentity
  | 2 => s.boot.running.elim zeroDigest (·.digest)
  | 3 => leBytes 4 (s.boot.running.elim 0 (·.securityVersion.toNat)) ++ leBytes 1 s.boot.bank
  | 4 => s.measuredFloor
  | 5 => s.parts[p].digest ++ leBytes 8 s.parts[p].version.toNat
  | 6 => leBytes 1 s.floorSel.toNat ++ leBytes 1 s.orderCode.gbPerStack ++ leBytes 1 p.val
  | _ => []

/-- DOE is answered from link-up (Table 19.5). -/
def State.doeUp (s : State) (p : Port) : Bool := s.porN && s.ports[p].linkUp

/-- A DOE answer. -/
def State.answerDoe (s : State) (p : Port) (data : List Byte) : State := s.send (.doe p data)

/-- The n bytes of an answer that its standard defines (log 10). -/
def standardBytes (kind n : Nat) : List Byte := (List.range n).map (Config.standardByte kind)

/-- Answer with the device's signature after the data (R423). -/
def State.answerSigned (s : State) (p : Port) (body : List Byte) : State :=
  let (n, s1) := s.takeFree
  s1.answerDoe p (body ++ Config.deviceSignature n body)

/-- MEASUREMENT_REQUEST (R423, R424): block idx, or all six for 0xFF, with a signature; any other index is answered with an
SPDM error. -/
def State.measure (s : State) (p : Port) (idx : Nat) : State :=
  if !s.doeUp p then s
  else
    let blocks := if idx = 0xFF then [1, 2, 3, 4, 5, 6] else [idx]
    if blocks.any fun k => k < 1 || 6 < k then s.answerDoe p (standardBytes 2 4)
    else s.answerSigned p (blocks.flatMap fun k => leBytes 1 k ++ s.measurement p k)

def execMeasurementRequest (p : Port) (idx : Nat) (s : State) : Host.Outcome State Fault Refusal := .next (s.measure p idx)

/-- KEY_EXCHANGE (R508), its answer signed (R423). -/
def execKeyExchange (p : Port) (s : State) : Host.Outcome State Fault Refusal :=
  .next (if s.doeUp p then (s.updPort p ({ · with spdm := .exchanging })).answerSigned p (standardBytes 3 4) else s)

/-- FINISH (R508): a good one secures the session, a bad one ends it. -/
def execFinish (p : Port) (ok : Bool) (s : State) : Host.Outcome State Fault Refusal :=
  .next (
    if s.doeUp p && s.ports[p].spdm == .exchanging then
      (s.updPort p ({ · with spdm := if ok then .secured else .none })).answerDoe p (standardBytes 4 4)
    else s)

/-- An IDE_KM message, answered in a secured session only (R508). -/
def State.ideKm (s : State) (p : Port) (kind : Nat) (g : PortState → PortState) : State :=
  if s.doeUp p && s.ports[p].spdm == .secured then (s.updPort p g).answerDoe p (standardBytes kind 4) else s

/-- QUERY (R508). -/
def execQuery (p : Port) (s : State) : Host.Outcome State Fault Refusal := .next (s.ideKm p 5 id)

/-- Change the key state of one direction. -/
def PortState.setKeys (q : PortState) (rx : Bool) (g : IdeKeys → IdeKeys) : PortState :=
  if rx then { q with ideRx := g q.ideRx } else { q with ideTx := g q.ideTx }

/-- KEY_PROG (R508). -/
def execKeyProg (p : Port) (rx : Bool) (s : State) : Host.Outcome State Fault Refusal :=
  .next (s.ideKm p 6 fun q => q.setKeys rx fun k => if k == .active then k else .programmed)

/-- K_SET_GO (R509): a programmed direction becomes active; the stream is Secure once both are. -/
def execKSetGo (p : Port) (rx : Bool) (s : State) : Host.Outcome State Fault Refusal :=
  .next (s.ideKm p 7 fun q => q.setKeys rx fun k => if k == .none then k else .active)

/-- K_SET_STOP (R508). -/
def execKSetStop (p : Port) (rx : Bool) (s : State) : Host.Outcome State Fault Refusal :=
  .next (s.ideKm p 8 fun q => q.setKeys rx fun _ => .none)

/-- DOE_ABORT (R507): a partial SPDM exchange goes; an established session stays. -/
def execDoeAbort (p : Port) (s : State) : Host.Outcome State Fault Refusal :=
  .next (if s.ports[p].spdm == .exchanging then s.updPort p ({ · with spdm := .none }) else s)

/-- IDE_CHECK_FAILED (R509, Table 22.4): a fatal error and a port link reset. -/
def execIdeCheckFailed (p : Port) (s : State) : Host.Outcome State Fault Refusal :=
  .next (if s.ports[p].ideSecure then ((s.aerError p 0 .ideCheckFailed)).linkReset p else s)

end Sys2Proof.Machine
end

