-- ==== Sys2Proof/Machine/Power.lean ====
section
/-! DEFINITION. Caps, settings, rails, heat and trips (17). -/

namespace Sys2Proof.Machine

def State.setPowerState (s : State) (g : Power → Power) : State := { s with power := g s.power }

/-- The effective cap (R397): the lowest of the cap and the limits in force. -/
def Power.effective (x : Power) : Nat :=
  let a := x.pwrbrkLimit.elim x.cap (min x.cap)
  x.vrhotLimit.elim a (min a)

/-- Recompute the effective cap; POWER_CAP on each change, with the cause (17, What you can see). -/
def State.refreshCap (s : State) (cause : Nat) : State :=
  let e := s.power.effective
  if e = s.power.effCap then s
  else
    (s.setPowerState ({ · with effCap := e })).postEvent .powerCap ⟨.fabric, 0⟩ (e % 1024 + cause * 2 ^ 10) s.presentPfs none

/-- Power of a cluster at full chains at a setting, in mW (Table 17.5). -/
def settingPower (i : Nat) : Nat :=
  if i < 7 then 1500 + 8500 * (4 + 2 * i) / 16 else if i = 7 then 17000 else if i = 8 then 26000 else 36000

/-- Power of cluster c in mW, were the cap setting i (Table 17.5; R407: faulted units count nothing). -/
def State.clusterPower (s : State) (i : Nat) (c : Cluster) : Nat :=
  match s.clusterOper c.val with
  | .run => settingPower (min i (min (maxOpSetting (s.powerRecord c).maxOp) s.power.thermal[c]))
  | .retain => 600
  | .idle => 2500
  | _ => 0

/-- The unit is neither FAULTED nor FENCED: a faulted one counts nothing (R407). -/
def State.counts (s : State) (u : UnitId) : Bool := !(s.ledgerWord u).oper.down

/-- Estimated package power in mW, were the cap setting i (R397). -/
def State.estimate (s : State) (a : Activity) (i : Nat) : Nat :=
  let hbm := (a.hbm.zipIdx.filter fun x => s.counts ⟨.hbm, x.2⟩).map (·.1)
  let ports := (List.range 6).filter fun n => a.portsL0.getLsbD n && s.counts ⟨.port, n⟩
  24000 + 9 * hbm.foldl (· + ·) 0 + 40 * a.engines + 20 * a.mesh + 4000 * ports.length +
    ((List.finRange 16).map (s.clusterPower i)).foldl (· + ·) 0

/-- The highest of settings 0 to n whose estimate fits, 0 when none does. -/
def State.fits (s : State) (a : Activity) : Nat → Nat
  | 0 => 0
  | n + 1 => if s.estimate a (n + 1) ≤ 1000 * s.power.effCap then n + 1 else s.fits a n

/-- VIN_CL is on: the cap loop runs (R449, Table 19.7). -/
def State.capLoopRuns (s : State) : Bool := s.porN && s.boot.railsOn == 6 && !s.power.tripped

/-- CAP_EVALUATION (R397, R400): the highest setting that fits replaces the cap setting, and the brake setting. -/
def State.capEvaluation (s : State) (a : Activity) : State :=
  if s.capLoopRuns then (s.setPowerState ({ · with capSetting := s.fits a 9, brake := false })).settle else s

def execCapEvaluation (a : Activity) (s : State) : Host.Outcome State Fault Refusal := .next (s.capEvaluation a)

/-- OP_FREQUENCY_SWITCH (16 R366): the voltage has ramped and the cluster takes its target setting. -/
def State.frequencySwitch (s : State) (c : Cluster) : State := if s.clusterOper c.val == .run then s.runAt c else s

def execOpFrequencySwitch (c : Cluster) (s : State) : Host.Outcome State Fault Refusal := .next (s.frequencySwitch c)

/-! ## Rails -/

/-- Code of a PMBus command (R390). -/
def PmbusCommand.code : PmbusCommand → Nat
  | .operation _ => 0x01 | .clearFaults => 0x03 | .voutMode => 0x20 | .voutCommand => 0x21 | .statusWord => 0x79
  | .readVin => 0x88 | .readVout => 0x8B | .readIout => 0x8C | .readTemperature1 => 0x8D

/-- Addresses of the PMBus rails that are on (Table 17.2). -/
def State.pmbusRails (s : State) : List Nat := (List.range s.boot.railsOn).map (0x40 + ·)

/-- A transaction with each PMBus rail that is on. -/
def State.askRails (s : State) (cs : List PmbusCommand) : State :=
  s.pmbusRails.foldl (fun a n => cs.foldl (fun b c => b.send (.pmbus n c)) a) s

/-- Units that a PMBus rail feeds (R392). -/
def railUnits (addr : Nat) : List UnitId :=
  let all (t : UnitType) : List UnitId := (List.range t.count).map fun i => ⟨t, i⟩
  if addr = 0x45 then all .cluster ++ all .tile ++ all .select ++ all .warp
  else if 0x42 ≤ addr && addr ≤ 0x44 then all .hbm
  else if addr = 0x40 || addr = 0x41 then all .port ++ all .hbm
  else []

/-- Fault bits of a STATUS_WORD: VOUT_OV, IOUT_OC, VIN_UV and OFF, bits [6:3] of PMBus 1.3 (log 15). -/
def railFaulty : RailStatus → Bool
  | .failed => true
  | .word w => bitsOf w.toNat 3 4 != 0

/-- A rail that is on fails (R392, Table 20.10): a POWER entry, and FAULTED in every unit that it feeds. -/
def State.railFails (s : State) (addr : Nat) (word : BitVec 64) : State :=
  (railUnits addr).foldl (fun a u => a.unitFault u 5 0) (s.logMoraine 4 0xFF (BitVec.ofNat 64 (3 + addr % 256 * 2 ^ 8)) word)

/-- PMBUS_STATUS_POLL (R392): STATUS_WORD of a rail is read; a faulty rail fails its units. -/
def State.statusPoll (s : State) (addr : Nat) (r : RailStatus) : State :=
  if s.porN && s.pmbusRails.contains addr then
    let s1 := s.send (.pmbus addr .statusWord)
    if railFaulty r then
      s1.railFails addr (match r with
        | .word w => w.setWidth 64
        | .failed => 0)
    else s1
  else s

def execPmbusStatusPoll (addr : Nat) (r : RailStatus) (s : State) : Host.Outcome State Fault Refusal :=
  .next (s.statusPoll addr r)

/-- The readings of the rails: one that failed, or was not made, stays as it was. -/
def Power.readRails (x : Power) (r : List RailReading) : Vector (Nat × Nat) 9 :=
  Vector.ofFn fun (k : Fin 9) => (r[k.val]?).elim x.rails[k] fun y => if y.failed then x.rails[k] else (y.mv, y.da)

/-- Addresses of the rails on which three transactions in a row failed: the PMBus rails are the last six of Table 17.2. -/
def failedRails (r : List RailReading) : List Nat :=
  (r.zipIdx.filter fun x => x.1.failed && 3 ≤ x.2).map fun x => 0x40 + (x.2 - 3)

/-- PMBUS_TELEMETRY (R392, R394, R397): READ_VOUT and READ_IOUT of every rail that is on; package power is the sum over the
rails; above the effective cap the setting falls one step; a rail that failed fails its units. -/
def State.telemetry (s : State) (r : List RailReading) : State :=
  if !s.porN || !s.boot.fwRunning then s
  else
    let rails := s.power.readRails r
    let mw := (rails.toList.map fun x => x.1 * x.2 / 10).foldl (· + ·) 0
    let s1 := (s.askRails [.readVout, .readIout]).setPowerState ({ · with rails := rails, pkg := mw })
    let s2 :=
      if s.capLoopRuns && 1000 * s.power.effCap < mw then
        (s1.setPowerState fun x => { x with capSetting := x.capSetting - 1 }).settle
      else s1
    ((failedRails r).filter s.pmbusRails.contains).foldl (fun a n => a.railFails n 0) s2

def execPmbusTelemetry (r : List RailReading) (s : State) : Host.Outcome State Fault Refusal := .next (s.telemetry r)

/-! ## Heat -/

/-- The unit whose sensor it is (R402): clusters, HBM controllers and stacks, mesh and Orlys. -/
def sensorUnit (n : Nat) : UnitId :=
  if n < 16 then ⟨.cluster, n⟩ else if n < 24 then ⟨.hbm, n - 16⟩ else if n < 28 then ⟨.fabric, 0⟩ else ⟨.hbm, n - 28⟩

/-- Post a THERMAL event: sensor, °C, entry or exit. -/
def State.postThermal (s : State) (n : Nat) (temp : Int) (entry : Bool) : State :=
  s.postEvent .thermal (sensorUnit n) (n + ofSigned 8 (temp / 10) * 2 ^ 8 + entry.toNat * 2 ^ 16) s.presentPfs none

/-- Throttle entry and exit of a sensor with thresholds in 0.1 °C. -/
def State.throttle (s : State) (n : Nat) (temp hi lo : Int) : State :=
  let on := s.power.throttled.contains n
  if !on && hi ≤ temp then (s.setPowerState fun x => { x with throttled := n :: x.throttled }).postThermal n temp true
  else if on && temp ≤ lo then
    (s.setPowerState fun x => { x with throttled := x.throttled.filter (· != n) }).postThermal n temp false
  else s

/-- Temperature at which a sensor trips the device, in 0.1 °C (R405). -/
def tripPoint (n : Nat) : Int := if n < 28 then 1150 else 1050

/-- The fast domains that a trip gates (16 Table 16.3). -/
def fastUnit (u : UnitId) : Bool :=
  match u.ty with
  | .cluster | .tile | .select | .warp | .decode | .compress | .gather => true
  | _ => false

/-- The oper state of a gated unit: OFF, or the lowest that a gather engine has (Table 16.3; log 110). -/
def gatedOper (u : UnitId) : Oper := if u.ty == .gather then .idle else .off

/-- A trip (R405, R452 bit 12): THERMTRIP_n low, every fast domain gated, slabs, HBM keys and tile state lost, TRIP entry. -/
def State.trip (s : State) (n : Nat) (temp : Int) : State :=
  let u := sensorUnit n
  let s1 := { s with
    thermtripN := false
    power := { s.power with tripped := true, volts := Vector.replicate 16 0 }
    tiles := Vector.replicate 128 .reset
    clusters := Vector.replicate 16 .reset
    unitSleep := []
    slab := [], slabUe := [], hbm := [], hbmUe := []
    parts := s.parts.map fun (x : Partition) => { x with keyGen := x.keyGen + 1 } }
  let s2 := (((List.range 219).map unitOfSlot).filter fastUnit).foldl (fun a u => a.setOper (gatedOper u) u) s1
  let s3 := if u.ty == .cluster || u.ty == .hbm then s2.setFault u 12 else s2
  s3.logMoraine 5 0xFF (BitVec.ofNat 64 (n % 256)) (BitVec.ofInt 64 temp)

/-- The comparators trip once (R405). -/
def State.tripIfHot (s : State) (n : Nat) (temp : Int) : State :=
  if tripPoint n ≤ temp && !s.power.tripped then s.trip n temp else s

/-- THROT in 0.1 °C. -/
def Power.throt10 (x : Power) : Int := 10 * (x.throt : Int)

/-- Readings of sensors n, n + 1, ... are stored, in 0.1 °C. -/
def storeTemps (x : Power) : Nat → List Int → Power
  | _, [] => x
  | n, t :: ts => storeTemps (if h : n < 36 then { x with temps := x.temps.set n t } else x) (n + 1) ts

/-- Cluster, mesh and Orlys sensors govern thermal settings (R403). -/
def throttlingSensors : List Nat := List.range 16 ++ [24, 25, 26, 27]

/-- SENSOR_SAMPLE (R402, R403, R405). -/
def State.sensorSample (s : State) (ts : List Int) : State :=
  let s1 := { s with power := storeTemps s.power 0 (ts.take 28) }
  let at' (n : Nat) : Int := (ts[n]?).getD 0
  let s2 := throttlingSensors.foldl (fun a n =>
    a.throttle n (at' n) a.power.throt10 (a.power.throt10 - 30)) s1
  (List.range 28).foldl (fun a n => a.tripIfHot n (at' n)) s2

def execSensorSample (ts : List Int) (s : State) : Host.Outcome State Fault Refusal := .next (s.sensorSample ts)

/-- A flag of stack k takes a value. -/
def flagStack (v : BitVec 8) (k : Nat) (on : Bool) : BitVec 8 :=
  let mask : BitVec 8 := BitVec.ofNat 8 (2 ^ k)
  if on then v ||| mask else v &&& ~~~mask

/-- Percent of its bandwidth that stack k may use (R400, R404). -/
def State.hbmPercent (s : State) (k : Nat) : Nat :=
  if s.power.brake then 25 else if s.power.hbmHalf.getLsbD k then 50 else 100

/-- Sixteenths of their cycles in which the shared engines start work (R400). -/
def State.engineDuty (s : State) : Nat := if s.power.brake then 4 else 16

/-- HBM_SENSOR_READ (R402, R404, R405): above 85 °C a stack refreshes at twice its rate; at 95 °C it is limited to half its
bandwidth, lifted at 90 °C. -/
def State.hbmSensorRead (s : State) (ts : List Int) : State :=
  let s1 := { s with power := storeTemps s.power 28 (ts.take 8) }
  let at' (k : Nat) : Int := (ts[k]?).getD 0
  (List.range 8).foldl (fun a k =>
    let b := a.throttle (28 + k) (at' k) 950 900
    let half := b.power.throttled.contains (28 + k)
    (b.setPowerState fun x => { x with
      hbmHalf := flagStack x.hbmHalf k half, hbmRefresh := flagStack x.hbmRefresh k (850 < at' k) }).tripIfHot (28 + k) (at' k)) s1

def execHbmSensorRead (ts : List Int) (s : State) : Host.Outcome State Fault Refusal := .next (s.hbmSensorRead ts)

/-- Sensors that govern cluster c (R403). -/
def governing (c : Cluster) : List (Fin 36) := [⟨c.val, by omega⟩, 24, 25, 26, 27]

/-- THERMAL_STEP_DOWN (R403). -/
def State.thermalDown (s : State) (c : Cluster) : State :=
  if (governing c).any fun n => s.power.throt10 ≤ s.power.temps[n] then
    (s.setPowerState fun x => { x with thermal := x.thermal.set c (x.thermal[c] - 1) }).settle
  else s

def execThermalStepDown (c : Cluster) (s : State) : Host.Outcome State Fault Refusal := .next (s.thermalDown c)

/-- THERMAL_STEP_UP (R403). -/
def State.thermalUp (s : State) (c : Cluster) : State :=
  if (governing c).all fun n => s.power.temps[n] ≤ s.power.throt10 - 30 then
    (s.setPowerState fun x => { x with thermal := x.thermal.set c (min 9 (x.thermal[c] + 1)) }).settle
  else s

def execThermalStepUp (c : Cluster) (s : State) : Host.Outcome State Fault Refusal := .next (s.thermalUp c)

/-- THERMAL_TRIP (R405). -/
def execThermalTrip (sensor : Nat) (temp : Int) (s : State) : Host.Outcome State Fault Refusal :=
  .next (s.tripIfHot sensor temp)

/-! ## Board pins -/

/-- PWRBRK_FALL (R400): the brake setting at once; the limit is half the cap. -/
def State.pwrbrkFall (s : State) : State :=
  let s1 := { s with
    pwrbrkN := false
    power := { s.power with brake := true, pwrbrkLimit := some (s.power.cap / 2) } }
  (s1.refreshCap 1).settle

def execPwrbrkFall (s : State) : Host.Outcome State Fault Refusal := .next s.pwrbrkFall

/-- PWRBRK_LIFT (R400): the limit lifts once the pin has read high for 1 ms. -/
def State.pwrbrkLift (s : State) : State :=
  ({ s with pwrbrkN := true, power := { s.power with pwrbrkLimit := none } }).refreshCap 1

def execPwrbrkLift (s : State) : Host.Outcome State Fault Refusal := .next s.pwrbrkLift

/-- VRHOT_FALL (R401): the limit starts from the effective cap; STATUS_WORD of every rail is read, and a POWER entry for each regulator that reports a temperature
warning. -/
def State.vrhotFall (s : State) (hot : List (Nat × BitVec 16)) : State :=
  let s1 := { s with vrhotN := false, power := { s.power with vrhotLimit := some s.power.effCap } }
  hot.foldl (fun a x => a.logMoraine 4 0xFF (BitVec.ofNat 64 (2 + x.1 % 256 * 2 ^ 8)) (x.2.setWidth 64))
    (s1.askRails [.statusWord])

def execVrhotFall (hot : List (Nat × BitVec 16)) (s : State) : Host.Outcome State Fault Refusal := .next (s.vrhotFall hot)

/-- VRHOT_LIMIT_STEP (R401): 25 W down each millisecond while the pin is low, no lower than 140 W. -/
def State.vrhotStep (s : State) : State :=
  match s.power.vrhotLimit with
  | some l => if s.vrhotN then s else (s.setPowerState ({ · with vrhotLimit := some (if l ≤ 140 then l else max 140 (l - 25)) })).refreshCap 2
  | none => s

def execVrhotLimitStep (s : State) : Host.Outcome State Fault Refusal := .next s.vrhotStep

/-- VRHOT_RECOVERY_STEP (R401): 25 W up until the limit no longer binds. -/
def State.vrhotRecovery (s : State) : State :=
  match s.power.vrhotLimit with
  | some l =>
    let other := s.power.pwrbrkLimit.elim s.power.cap (min s.power.cap)
    (({ s with vrhotN := true }).setPowerState
      ({ · with vrhotLimit := if other ≤ l + 25 then none else some (l + 25) })).refreshCap 2
  | none => { s with vrhotN := true }

def execVrhotRecoveryStep (s : State) : Host.Outcome State Fault Refusal := .next s.vrhotRecovery

/-- Store a new cap and THROT (R395, Table 17.6). -/
def State.setCaps (s : State) (cap throt : Nat) : State :=
  (s.setPowerState fun x => { x with
    cap := cap, throt := throt, pwrbrkLimit := x.pwrbrkLimit.map fun _ => cap / 2 }).refreshCap 0

end Sys2Proof.Machine
end

