-- ==== Sys2Proof/Machine/Session.lean ====
section
/-! DEFINITION. Image sessions and the commit queue (02 R49 to R57, 18 R416, R422). -/

namespace Sys2Proof.Machine

/-- A status with its two results. -/
structure Result where
  st : Status
  r0 : Nat
  r1 : Nat
  deriving DecidableEq, Repr

/-- IMAGE_INVALID as Table 2.18 lays it out. -/
def ImgFail.result (f : ImgFail) : Result := { st := .imageInvalid, r0 := f.sub + f.sec * 2 ^ 16, r1 := f.off % 2 ^ 32 }

/-- A failure that no image byte shows. -/
def noField (sub : Nat) : ImgFail := { sub := sub, sec := 0xFFFF, off := 0xFFFFFFFF }

/-- Complete a port-served item with a result. -/
def State.complete (s : State) (p : Port) (k : Nat) (r : Result) : State := s.completeNow p k r.st r.r0 r.r1

def State.session? (s : State) (ld : Loader) : Option Session :=
  match ld with
  | .port p => s.parts[p].session
  | .mgmt => s.mgmtSession

def State.setSession (s : State) (ld : Loader) (z : Option Session) : State :=
  match ld with
  | .port p => s.updPart p ({ · with session := z })
  | .mgmt => { s with mgmtSession := z }

/-- IMG_ERROR of the loader's port takes an IMAGE_INVALID (R57, Table 24.2). -/
def State.setImgError (s : State) (ld : Loader) (f : ImgFail) : State :=
  let r := f.result
  match ld with
  | .port p => s.updPart p ({ · with imgError := BitVec.ofNat 64 (r.r0 + r.r1 * 2 ^ 32) })
  | .mgmt => s

/-- The session number of the next BEGIN: incremented, never 0 (Table 2.18). -/
def nextSession (n : BitVec 32) : BitVec 32 := if n + 1 = 0 then 1 else n + 1

/-- Why a BEGIN of these fields fails (R51, Table 2.20). -/
def State.beginFault (s : State) (ld : Loader) (size kind target : Nat) : Option ImgFail :=
  let tgt := match ld with
    | .port p => p.val
    | .mgmt => 0xFF
  if !sizeOk size then some (noField 0x05)
  else if !(kind = 1 || kind = 2) || (kind = 1 && !s.ownsFloor ld) then some (noField 0x03)
  else if target != (if kind = 1 then 0xFF else tgt) then some (noField 0x04)
  else none

/-- BEGIN (R51, R54): opens the loader's session. -/
def State.beginSession (s : State) (ld : Loader) (size kind target : Nat) (digest : List Byte) : State × Result :=
  if (s.session? ld).isSome then (s, { st := .limit, r0 := 0, r1 := 0 })
  else
    match s.beginFault ld size kind target with
    | some f => (s.setImgError ld f, f.result)
    | none =>
      let no := nextSession (match ld with
        | .port p => s.parts[p].sessionNo
        | .mgmt => s.mgmtSessionNo)
      let z : Session :=
        { no := no, floor := kind == 1, target := target, size := size, digest := digest, bytes := [], st := .open
          epoch := match ld with
            | .port p => (s.fn p 0).epoch
            | .mgmt => 0 }
      let s1 := match ld with
        | .port p => s.updPart p ({ · with sessionNo := no })
        | .mgmt => { s with mgmtSessionNo := no }
      (((s1.setSession ld (some z)).postLoader ld (kind == 1) 0), { st := .ok, r0 := no.toNat, r1 := 0 })

/-- The loader's session when it is OPEN and has this number. -/
def State.openSession (s : State) (ld : Loader) (no : Nat) : Option Session :=
  (s.session? ld).filter fun z => z.no.toNat == no && z.st == .open

/-- STATE_STALE of a session mismatch (Table 2.18). -/
def State.sessionStale (s : State) (ld : Loader) : Result :=
  { st := .stateStale, r0 := (s.session? ld).elim 0 fun z => z.no.toNat, r1 := 0xFFFFFFFF }

/-- CHUNK (R52, R54). -/
def State.chunk (s : State) (ld : Loader) (no off : Nat) (bs : List Byte) : State × Result :=
  match s.openSession ld no with
  | none => (s, s.sessionStale ld)
  | some z =>
    if off != z.bytes.length || z.size < off + bs.length then
      let f := noField 0x16
      (((s.setImgError ld f).dropLoader ld).postLoader ld z.floor 0x16, f.result)
    else
      (s.setSession ld (some { z with bytes := z.bytes ++ bs }),
       { st := .ok, r0 := z.bytes.length + bs.length, r1 := z.no.toNat })

/-- COMMIT of an OPEN session (R53): it takes its place in the commit queue by its arrival. -/
def State.queueCommit (s : State) (ld : Loader) (z : Session) (c : Commit) : State :=
  let s1 := (s.setSession ld (some { z with st := .queued })).postLoader ld z.floor 0
  { s1 with commitQ := placeCommit c s1.commitQ }

/-! ## The descriptors -/

/-- IMAGE_BEGIN (R49, R51): while the partition's record is absent only a floor may be begun (R73, R442). -/
def State.imageBegin (s : State) (p : Port) (k : Nat) : State :=
  match s.portItem p k opImageBegin with
  | none => s
  | some i =>
    if s.parts[p].place.isNone && i.fld 20 1 != 1 then s.completeNow p k .notReady 0 0
    else
      match s.readPlace p i (.host (i.fld 24 8)) 48 with
      | .ue => s
      | .bytes d =>
        let x := s.beginSession (.port p) (i.fld 16 4) (i.fld 20 1) (i.fld 21 1) d
        x.1.complete p k x.2

def execImageBegin (p : Port) (k : Nat) (s : State) : Host.Outcome State Fault Refusal := .next (s.imageBegin p k)

/-- IMAGE_CHUNK (R52). -/
def State.imageChunk (s : State) (p : Port) (k : Nat) : State :=
  match s.portItem p k opImageChunk with
  | none => s
  | some i =>
    match s.readPlace p i (.host (i.fld 16 8)) (i.fld 24 4) with
    | .ue => s
    | .bytes bs =>
      let x := s.chunk (.port p) (i.fld 28 4) (i.fld 32 8) bs
      x.1.complete p k x.2

def execImageChunk (p : Port) (k : Nat) (s : State) : Host.Outcome State Fault Refusal := .next (s.imageChunk p k)

/-- IMAGE_COMMIT (R53). -/
def State.imageCommit (s : State) (p : Port) (k : Nat) : State :=
  match s.portItem p k opImageCommit with
  | none => s
  | some i =>
    if s.chunksOut p i then s
    else
      match s.openSession (.port p) (i.fld 16 4) with
      | none => s.complete p k (s.sessionStale (.port p))
      | some z =>
        (s.queueCommit (.port p) z
          { arrival := i.arrival.getD s.arrivals, kind := .session (.port p), asker := .item p k, abortInFlight := i.flag 5
            verifyOnly := i.flag 4, expect := BitVec.ofNat 64 (i.fld 24 8) }).updItem p k ({ · with st := .inService })

def execImageCommit (p : Port) (k : Nat) (s : State) : Host.Outcome State Fault Refusal := .next (s.imageCommit p k)

/-! ## Verification -/

/-- The version that EXPECT_VERSION is compared with (R55). -/
def State.currentVersion (s : State) (ld : Loader) (floor : Bool) : BitVec 64 :=
  if floor then s.floorVersion
  else
    match ld with
    | .port p => s.parts[p].version
    | .mgmt => 0

/-- Answer whoever asked for a commit. -/
def State.answerCommit (s : State) (c : Commit) (r : Result) : State := s.answer c.asker kyFloorCommit r.st r.r0 r.r1

/-- The session of a commit ends without effect (R57). -/
def State.failCommit (s : State) (ld : Loader) (floor : Bool) (c : Commit) (sub : Nat) (r : Result) : State :=
  ((s.dropLoader ld).postLoader ld floor sub).answerCommit c r

/-- EXPECT_VERSION matches the current version of the commit's target (R55). -/
def State.expects (s : State) (ld : Loader) (floor : Bool) (want : BitVec 64) : Bool :=
  want == BitVec.allOnes 64 || want == s.currentVersion ld floor

/-- STATE_STALE of a version mismatch (Table 2.18). -/
def State.versionStale (s : State) (ld : Loader) (floor : Bool) : Result :=
  let v := s.currentVersion ld floor
  { st := .stateStale, r0 := v.toNat % 2 ^ 32, r1 := v.toNat / 2 ^ 32 }

/-- Verify a session's image (R55 to R57, Table 2.20). A mismatch of EXPECT_VERSION is found before verification and changes
nothing (18 R428): the session is OPEN as before its commit (log 81). -/
def State.verifySession (s : State) (ld : Loader) (z : Session) (c : Commit) : State :=
  if !s.expects ld z.floor c.expect then
    ((s.setSession ld (some { z with st := .open })).postLoader ld z.floor 0).answerCommit c (s.versionStale ld z.floor)
  else
    match s.verify ld z with
    | some f => (s.setImgError ld f).failCommit ld z.floor c f.sub f.result
    | none =>
      let s1 := (s.setSession ld (some { z with st := .verifying })).postLoader ld z.floor 0
      match ld, z.floor with
      | .port p, false => { s1 with verified := some (.part p (parsePart z.bytes) c) }
      | _, _ => { s1 with verified := some (.floor (parseFloor z.bytes) c) }

/-- Item i of port p is an IMAGE_COMMIT of an OPEN session that arrived before commit c and has not taken its place yet. -/
def State.arrivedBefore (s : State) (p : Port) (i : Item) (c : Commit) : Bool :=
  (s.portItem p i.key opImageCommit).isSome && !s.chunksOut p i && (s.openSession (.port p) (i.fld 16 4)).isSome &&
  i.arrival.any fun a => a < c.arrival || (a == c.arrival && p.val < c.rank)

/-- Some commit that arrived before c has not taken its place in the queue yet (R53). -/
def State.commitDue (s : State) (c : Commit) : Bool :=
  (List.finRange 6).any fun p => s.ports[p].items.any fun i => s.arrivedBefore p i c

/-- COMMIT_VERIFY (R53, R56, R416): the security engine takes the commit that arrived first. -/
def State.commitVerify (s : State) : State :=
  match s.verified, s.commitQ with
  | none, c :: rest =>
    let s1 := { s with commitQ := rest }
    if s.commitDue c then s else
    match c.kind with
    | .session ld =>
      match s.session? ld with
      | some z => s1.verifySession ld z c
      | none => s1
    | .firmware floor =>
      let ok : Bool := !floor || (s.verifyFloorBank s.fu.bytes).isNone
      { s1 with fu := { s1.fu with verdict := some ok } }
  | _, _ => s

def execCommitVerify (s : State) : Host.Outcome State Fault Refusal := .next s.commitVerify

end Sys2Proof.Machine
end

