-- ==== Sys2Proof/Machine/Boot.lean ====
section
/-! DEFINITION. Power-up, warm and cold starts (19 R435 to R449, 17 R388, R391, 18 R416, R417, R427). -/

namespace Sys2Proof.Machine

/-! ## Assertion and release of POR_n, removal of power -/

/-- What an assertion of POR_n leaves: pins, flash, the ledger's words, the moraine log, the thermal latch with the sensors'
readings, the hosts and the TAP; HBM was written under keys that are lost (Table 19.6, 03 R81). -/
def State.stopped (s : State) : State :=
  { State.reset with
    orderCode := s.orderCode, porN := false, floorSel := s.floorSel, bootSrc := s.bootSrc, pwrbrkN := s.pwrbrkN
    vrhotN := s.vrhotN, ppsIn := s.ppsIn, thermtripN := s.thermtripN, flash := s.flash, ledger := s.ledger
    ledgerChanges := s.ledgerChanges, moraine := s.moraine, moraineSeq := s.moraineSeq, starts := s.starts
    boot := { Boot.reset with cold := s.boot.cold }
    power := { Power.reset with temps := s.power.temps, tripped := s.power.tripped }
    parts := s.parts.map fun (x : Partition) => { Partition.reset with keyGen := x.keyGen + 1 }
    host := s.host, tap := s.tap, rdata := s.rdata, msgs := s.msgs, pending := s.pending, free := s.free }

/-- POR_ASSERT (R448, R449): the device stops at once. -/
def execPorAssert (s : State) : Host.Outcome State Fault Refusal := .next s.stopped

/-- REMOVAL_OF_POWER (R427, R448): keys, moraine log and ledger history are lost too. -/
def State.unpowered (s : State) : State :=
  { s.stopped with
    ledger := Vector.replicate 219 .reset, ledgerChanges := 0, moraine := [], moraineSeq := 0, starts := 0
    thermtripN := true, boot := Boot.reset, power := Power.reset, tap := Tap.reset }

def execRemovalOfPower (s : State) : Host.Outcome State Fault Refusal := .next s.unpowered

/-- Pending banks become active (R416, Table 19.6). -/
def Flash.activate (x : Flash) : Flash :=
  { x with
    fwActive := x.fwPending.getD x.fwActive, fwPending := none
    floorActive := x.floorPending.getD x.floorActive, floorPending := none }

/-- Limits of PWRBRK_n and VRHOT_n as they stand at the release (Table 19.7). -/
def State.limitsAtRelease (s : State) : Power :=
  let x : Power := { Power.reset with
    temps := s.power.temps, brake := !s.pwrbrkN
    pwrbrkLimit := if s.pwrbrkN then none else some (Power.reset.cap / 2)
    vrhotLimit := if s.vrhotN then none else some Power.reset.cap }
  { x with effCap := x.effective }

/-- POR_RELEASE (R65, R377, R394, R405, R443 step 1): straps are sampled, the time base is cleared, cap and THROT take their
defaults, the thermal latch is released, the TAP is in Test-Logic-Reset (25 R553); a warm start counts. -/
def State.released (s : State) (floorSel : BitVec 3) (bootSrc : Bool) : State :=
  if s.porN then s
  else
    { s with
      porN := true, floorSel := floorSel, bootSrc := bootSrc, time := .reset, thermtripN := true
      flash := s.flash.activate, power := s.limitsAtRelease
      starts := if s.boot.cold then s.starts else s.starts + 1
      tap := { s.tap with ir := 1, dr := .idcode, drive := .functional } }

def execPorRelease (floorSel : BitVec 3) (bootSrc : Bool) (s : State) : Host.Outcome State Fault Refusal :=
  .next (s.released floorSel bootSrc)

/-! ## The timeline -/

/-- POR_n is high and no trip stopped the device. -/
def State.starting (s : State) : Bool := s.porN && !s.power.tripped

/-- AON_CLOCK_START (Table 19.4 step 2). -/
def execAonClockStart (s : State) : Host.Outcome State Fault Refusal :=
  .next (if s.starting then { s with boot := { s.boot with aonClock := true } } else s)

/-- A word at a start (R427): after removal of power the cold values; else the admin state, or the one it drained toward, and
the fault summary stay under a new generation. -/
def LedgerWord.atStart (w : LedgerWord) (cold : Bool) : LedgerWord :=
  if cold then LedgerWord.reset
  else
    { LedgerWord.reset with
      gen := nextGen w.gen, admin := if w.admin == .draining then w.drainTo else w.admin, fault := w.fault
      drainTo := w.drainTo }

/-- LEDGER_INIT (R427, step 3). -/
def State.ledgerInit (s : State) : State :=
  if s.starting && s.boot.aonClock && !s.boot.ledgerInit then
    { s with
      ledger := s.ledger.map fun (w : LedgerWord) => w.atStart s.boot.cold
      ledgerChanges := 0, boot := { s.boot with ledgerInit := true, cold := false } }
  else s

def execLedgerInit (s : State) : Host.Outcome State Fault Refusal := .next s.ledgerInit

/-- A bank of ORLYS_FW authenticates (R416). -/
def FwBank.boots (b : FwBank) : Bool :=
  b.valid && b.info.any fun m => m.authentic && Config.fusedMinSecurity ≤ m.securityVersion

/-- BOOT entry (Table 20.10). -/
def State.logBoot (s : State) (recovery : Bool) : State :=
  let v : BitVec 64 := if recovery then 0 else s.boot.running.elim 0 (·.version)
  s.logMoraine 2 0xFF
    (BitVec.ofNat 64 (s.boot.bank % 2 + 2 * s.boot.fallback.toNat + 4 * recovery.toNat + 8 * s.boot.floorFallback.toNat)) v

/-- The bank tried first (Table 19.3). -/
def State.firstBank (s : State) : Fin 2 := if s.bootSrc then s.flash.fwActive + 1 else s.flash.fwActive

/-- BOOT_AUTHENTICATE (R417, R440, R441): the first bank that authenticates is booted, a fallback is logged; with neither the
boot ROM enters recovery. -/
def State.authenticate (s : State) : State :=
  let first := s.firstBank
  let other : Fin 2 := first + 1
  if !(s.starting && s.boot.ledgerInit) || s.boot.fwRunning || s.boot.recovery then s
  else if s.flash.fw[first].boots then
    { s with boot := { s.boot with
        fwRunning := true, bank := first.val, fallback := false, running := s.flash.fw[first].info } }
  else if s.flash.fw[other].boots then
    ({ s with boot := { s.boot with
        fwRunning := true, bank := other.val, fallback := true, running := s.flash.fw[other].info } }).logBoot false
  else ({ s with boot := { s.boot with recovery := true } }).logBoot true

def execBootAuthenticate (s : State) : Host.Outcome State Fault Refusal := .next s.authenticate

/-- A DEFAULT_FLOOR bank verifies (R416, R442). -/
def State.floorBankOk (s : State) (b : Fin 2) : Bool :=
  s.flash.floorValid[b] && (s.verifyFloorBank s.flash.floor[b]).isNone

/-- The floor that the shadow configuration is built from, none when neither bank verifies. -/
def State.takeFloor (s : State) (f : Option FloorImage) (fell : Bool) : State :=
  let shape (p : Port) : Shape := shapeOf (f.bind fun x => x.places[p])
  { s with
    boot := { s.boot with floorChecked := true, defaultFloor := f, floorFallback := fell }
    ports := Vector.ofFn fun (p : Port) => { s.ports[p] with shape := shape p } }

/-- DEFAULT_FLOOR_VERIFY (R442, step 6). -/
def State.floorVerify (s : State) : State :=
  let first := s.flash.floorActive
  let other : Fin 2 := first + 1
  let image (b : Fin 2) : FloorImage := parseFloor (s.flash.floor[b].take (imgTotal s.flash.floor[b]))
  if !s.starting || !s.boot.fwRunning || s.boot.floorChecked then s
  else if s.floorBankOk first then s.takeFloor (some (image first)) false
  else if s.floorBankOk other then (s.takeFloor (some (image other)) true).logBoot false
  else s.takeFloor none false

def execDefaultFloorVerify (s : State) : Host.Outcome State Fault Refusal := .next s.floorVerify

/-- RUNTIME_MODULES_START (R440, step 10): every module matches its manifest digest. -/
def State.modulesStart (s : State) : State :=
  if s.starting && s.boot.fwRunning && s.boot.floorChecked && s.boot.running.any (·.modulesOk) then
    { s with boot := { s.boot with modules := true } }
  else s

def execRuntimeModulesStart (s : State) : Host.Outcome State Fault Refusal := .next s.modulesStart

/-- PHY_BRINGUP (R443, step 6): once the PHY rails are on and the shadow configuration stands. -/
def State.phyBringup (s : State) (p : Port) : State :=
  if s.starting && s.boot.floorChecked && 2 ≤ s.boot.railsOn then s.updPort p ({ · with phyUp := true }) else s

def execPhyBringup (p : Port) (s : State) : Host.Outcome State Fault Refusal := .next (s.phyBringup p)

/-- Units that run, or idle, once the rail after which n rails are on is within tolerance (18 R426, Table 16.3). -/
def railsRun (n : Nat) : List (UnitId × Oper) :=
  if n = 2 then
    ((List.range 6).map fun i => (⟨.port, i⟩, Oper.run)) ++ [(⟨.fabric, 0⟩, Oper.run)] ++
      (List.range 8).map fun i => (⟨.gather, i⟩, Oper.idle)
  else if n = 5 then (List.range 8).map fun i => (⟨.hbm, i⟩, Oper.run)
  else []

/-- The step of the timeline at which the next rail is switched on has come (Table 17.3, Table 19.4). -/
def State.railDue (s : State) : Bool :=
  let n := s.boot.railsOn
  if n < 2 then true else if n < 5 then s.boot.floorChecked else n == 5 && s.boot.hbmPairs == 4

/-- The regulator is there and regulates: it reports VOUT_MODE in linear16 format, mode 0 of PMBus 1.3 (17 R390, R391; log
15). -/
def railRegulates : RailAnswer → Bool
  | .regulates m => bitsOf m.toNat 5 3 == 0
  | _ => false

/-- RAIL_SWITCH_ON (R388, R391): the next rail in the order of Table 17.3 (its VOUT_MODE, OPERATION, then READ_VOUT until it is
within tolerance), or a missing regulator, which is logged. -/
def State.railOn (s : State) (x : RailAnswer) : State :=
  let n := s.boot.railsOn
  if !s.starting || !s.boot.fwRunning || s.boot.railMissing.isSome || !s.railDue then s
  else
    let s1 := [PmbusCommand.voutMode, .operation true, .readVout].foldl (fun a c => a.send (.pmbus (0x40 + n) c)) s
    if railRegulates x then
      (railsRun (n + 1)).foldl (fun a u => a.setOper u.2 u.1) { s1 with boot := { s1.boot with railsOn := n + 1 } }
    else
      ({ s1 with boot := { s1.boot with railMissing := some (0x40 + n) } }).logMoraine 4 0xFF
        (BitVec.ofNat 64 (1 + (0x40 + n) * 2 ^ 8)) 0

def execRailSwitchOn (x : RailAnswer) (s : State) : Host.Outcome State Fault Refusal := .next (s.railOn x)

/-- A stack that fails initialisation is FAULTED (Table 19.7, Table 20.3 bit 3). -/
def State.stackFails (s : State) (k : Nat) : State :=
  (({ s with boot := { s.boot with hbmFailed := s.boot.hbmFailed ||| BitVec.ofNat 8 (2 ^ k) } }).setFault ⟨.hbm, k⟩ 3).contained
    ⟨.hbm, k⟩ 3 0 []

/-- HBM_INIT (R443, step 9): the pairs in their order; every location is written with valid check bits (03 R557). -/
def State.hbmInit (s : State) (pair : Fin 4) (okLo okHi : Bool) : State :=
  if s.starting && 5 ≤ s.boot.railsOn && s.boot.hbmPairs == pair.val then
    let s1 := { s with boot := { s.boot with hbmPairs := pair.val + 1 } }
    let s2 := if okLo then s1 else s1.stackFails (2 * pair.val)
    if okHi then s2 else s2.stackFails (2 * pair.val + 1)
  else s

def execHbmInit (pair : Fin 4) (okLo okHi : Bool) (s : State) : Host.Outcome State Fault Refusal :=
  .next (s.hbmInit pair okLo okHi)

/-! ## Applying a floor's records -/

/-- The partition that a unit belongs to under a floor: a cluster's by CLUSTERS, a port's while its record is present; none for
a shared unit (Table 3.1, R71). -/
def ownerIn (places : Vector (Option Place) 6) (u : UnitId) : BitVec 8 :=
  let of (c : Nat) : BitVec 8 :=
    ((List.finRange 6).find? fun p => places[p].any (·.clusters.getLsbD c)).elim 0xFF fun p => BitVec.ofNat 8 p.val
  match u.ty with
  | .tile => of (u.idx / 8)
  | .cluster | .select | .warp => of u.idx
  | .port => if places[pix u.idx].isSome then BitVec.ofNat 8 u.idx else 0xFF
  | _ => 0xFF

/-- A cluster that nobody owns is held at OFF (R71). -/
def State.parkUnowned (s : State) : State :=
  (List.finRange 16).foldl (fun a c =>
    if (a.ledgerWord ⟨.cluster, c.val⟩).owner == 0xFF && a.clusterOper c.val != .off then
      ((a.updCluster c fun _ => ClusterState.reset).setClusterOper c.val .off).zeroCluster c
    else a) s

/-- Step 3 of Table 3.7: records, keys of new partitions and owner fields are written. -/
def State.writePlaces (s : State) (f : FloorImage) : State :=
  let fresh := (List.finRange 6).filter fun p => s.parts[p].place.isNone && f.places[p].isSome
  let s1 := fresh.foldl (fun a p => a.newKey p) s
  let s2 := { s1 with
    floorVersion := f.version, floorDigest := f.digest
    parts := Vector.ofFn fun (p : Port) =>
      { s1.parts[p] with
        place := f.places[p]
        pstate :=
          match f.places[p], s1.parts[p].place with
          | none, _ => .notReady
          | some _, none => .empty
          | some _, some _ => s1.parts[p].pstate } }
  let s3 := (List.range 219).foldl (fun a i =>
    let u := unitOfSlot i
    a.ledgerMod u fun w => { w with owner := ownerIn f.places u }) s2
  s3.parkUnowned

/-- IMAGE_STATE to each PF and one to the management queue (R443). -/
def State.postFloorEvents (s : State) : State :=
  ((List.finRange 6).foldl (fun a p => a.postImageState p 0) s).postEvent .imageState ⟨.fabric, 0⟩ 0 [] none

/-- A floor with every record absent (Table 19.7). -/
def FloorImage.absent : FloorImage := { version := 0, digest := zeroDigest, places := Vector.replicate 6 none }

/-- DEFAULT_FLOOR_APPLY (R443, step 12). -/
def State.defaultFloorApply (s : State) : State :=
  if s.starting && s.boot.modules && s.boot.railsOn == 6 && !s.boot.ready && !s.boot.fatal then
    let s1 := s.writePlaces (s.boot.defaultFloor.getD .absent)
    ({ s1 with boot := { s1.boot with ready := true } }).postFloorEvents
  else s

def execDefaultFloorApply (s : State) : Host.Outcome State Fault Refusal := .next s.defaultFloorApply

end Sys2Proof.Machine
end

