-- ==== Sys2Proof/Machine/Inflate.lean ====
section
/-! DEFINITION. Decoding raw DEFLATE, zlib and gzip (07 R172, R173; RFC 1951, RFC 1950, RFC 1952), as far as the bits given
go. -/

namespace Sys2Proof.Machine

/-! ## Bits and checks -/

/-- The bits of bytes, least significant first. -/
def bitsOfBytes (bs : List Byte) : List Bool := bs.flatMap fun b => (List.range 8).map fun n => b.getLsbD n

/-- An integer of bits, least significant first. -/
def natOfBits : List Bool → Nat
  | [] => 0
  | b :: bs => b.toNat + 2 * natOfBits bs

/-- Whole bytes of some bits. -/
def bytesOfBits : Nat → List Bool → List Byte
  | 0, _ => []
  | n + 1, bs => BitVec.ofNat 8 (natOfBits (bs.take 8)) :: bytesOfBits n (bs.drop 8)

/-- The next n bits as an integer, and the rest. -/
def takeBits (n : Nat) (bs : List Bool) : Option (Nat × List Bool) :=
  let t := bs.take n
  if t.length < n then none else some (natOfBits t, bs.drop n)

/-- CRC-32 of RFC 1952. -/
def crc32Bit (c : BitVec 32) : BitVec 32 := if c.getLsbD 0 then (c >>> 1) ^^^ 0xEDB88320 else c >>> 1

def crc32Byte (c : BitVec 32) (b : Byte) : BitVec 32 :=
  (List.range 8).foldl (fun a _ => crc32Bit a) (c ^^^ b.setWidth 32)

def crc32 (bs : List Byte) : Nat := ((bs.foldl crc32Byte 0xFFFFFFFF) ^^^ 0xFFFFFFFF).toNat

/-- Adler-32 of RFC 1950. -/
def adler32 (bs : List Byte) : Nat :=
  let (a, b) := bs.foldl (fun (x : Nat × Nat) c => ((x.1 + c.toNat) % 65521, (x.2 + x.1 + c.toNat) % 65521)) (1, 0)
  b * 65536 + a

/-! ## Prefix codes -/

/-- Symbols of a canonical code by length, from 1 bit on (RFC 1951 3.2.2). -/
abbrev Code := List (List Nat)

/-- The canonical code of code lengths up to n bits. -/
def codeOf (n : Nat) (lens : List Nat) : Code :=
  (List.range n).map fun l => (lens.zipIdx.filter (·.1 == l + 1)).map (·.2)

/-- More symbols than a code of these lengths can hold. -/
def Code.over : Code → Nat → Bool
  | [], _ => false
  | ss :: r, left => 2 * left < ss.length || Code.over r (2 * left - ss.length)

/-- What a symbol's bits give. -/
inductive Sym where
  | sym (n : Nat) (rest : List Bool)
  | more
  | bad

/-- Read one symbol. -/
def readSym : Code → Nat → Nat → List Bool → Sym
  | [], _, _, _ => .bad
  | _ :: _, _, _, [] => .more
  | ss :: r, code, first, b :: bs =>
    let c := code + b.toNat
    if c < first + ss.length then .sym ((ss[c - first]?).getD 0) bs else readSym r (2 * c) (2 * (first + ss.length)) bs

/-! ## DEFLATE -/

/-- How decoding stopped: at the end of what it reads, for want of input, at a fault, at a reference to a dictionary that it
was not given. -/
inductive DeflStop where
  | done | more | bad | noDict
  deriving DecidableEq, Repr

/-- Output newest first with its length, the bits from the element at which decoding stands, and how it stopped. -/
structure Step where
  out : List Byte
  len : Nat
  rest : List Bool
  stop : DeflStop
  deriving DecidableEq, Repr

/-- Copy n bytes from a distance back. -/
def copyBack : Nat → Nat → List Byte → List Byte
  | 0, _, out => out
  | n + 1, d, out => copyBack n d ((out[d - 1]?).getD 0 :: out)

/-- Base and extra bits of length symbols 257 to 285 and of distance symbols (RFC 1951 3.2.5). -/
def lengthBase : List (Nat × Nat) :=
  [(3, 0), (4, 0), (5, 0), (6, 0), (7, 0), (8, 0), (9, 0), (10, 0), (11, 1), (13, 1), (15, 1), (17, 1), (19, 2), (23, 2),
   (27, 2), (31, 2), (35, 3), (43, 3), (51, 3), (59, 3), (67, 4), (83, 4), (99, 4), (115, 4), (131, 5), (163, 5), (195, 5),
   (227, 5), (258, 0)]

def distBase (s : Nat) : Nat × Nat :=
  if s < 4 then (s + 1, 0) else ((2 + s % 2) * 2 ^ (s / 2 - 1) + 1, s / 2 - 1)

/-- A length and distance pair after the length symbol: length, distance, rest. -/
def readPair (dist : Code) (s : Nat) (bs : List Bool) : Except DeflStop (Nat × Nat × List Bool) :=
  match lengthBase[s - 257]? with
  | none => .error .bad
  | some (lb, le) =>
    match takeBits le bs with
    | none => .error .more
    | some (lx, bs1) =>
      match readSym dist 0 0 bs1 with
      | .more => .error .more
      | .bad => .error .bad
      | .sym d bs2 =>
        if 30 ≤ d then .error .bad
        else
          match takeBits (distBase d).2 bs2 with
          | none => .error .more
          | some (dx, bs3) => .ok (lb + lx, (distBase d).1 + dx, bs3)

/-- Symbols of a block up to its end; `beyond` is what a reference before the history means. -/
def inflateCodes (lit dist : Code) (beyond : DeflStop) : Nat → Step → Step
  | 0, x => { x with stop := .more }
  | fuel + 1, x =>
    match readSym lit 0 0 x.rest with
    | .more => { x with stop := .more }
    | .bad => { x with stop := .bad }
    | .sym s bs =>
      if s < 256 then
        inflateCodes lit dist beyond fuel { x with out := BitVec.ofNat 8 s :: x.out, len := x.len + 1, rest := bs }
      else if s = 256 then { x with rest := bs, stop := .done }
      else
        match readPair dist s bs with
        | .error e => { x with stop := e }
        | .ok (n, d, bs1) =>
          if x.len < d then { x with stop := beyond }
          else
            inflateCodes lit dist beyond fuel
              { x with out := copyBack n d x.out, len := x.len + n, rest := bs1 }

/-- The fixed codes (RFC 1951 3.2.6). -/
def fixedLit : Code :=
  codeOf 9 (List.replicate 144 8 ++ List.replicate 112 9 ++ List.replicate 24 7 ++ List.replicate 8 8)
def fixedDist : Code := codeOf 5 (List.replicate 32 5)

/-- Order of the code-length code's lengths (RFC 1951 3.2.7). -/
def clenOrder : List Nat := [16, 17, 18, 0, 8, 7, 9, 6, 10, 5, 11, 4, 12, 3, 13, 2, 14, 1, 15]

/-- Read n values of 3 bits. -/
def readThrees : Nat → List Bool → Option (List Nat × List Bool)
  | 0, bs => some ([], bs)
  | n + 1, bs =>
    match takeBits 3 bs with
    | none => none
    | some (v, r) => (readThrees n r).map fun t => (v :: t.1, t.2)

/-- Read code lengths until there are n, newest first. -/
def readLens (clen : Code) (n : Nat) : Nat → List Nat → List Bool → Except DeflStop (List Nat × List Bool)
  | 0, _, _ => .error .more
  | fuel + 1, acc, bs =>
    if acc.length = n then .ok (acc.reverse, bs)
    else
      match readSym clen 0 0 bs with
      | .more => .error .more
      | .bad => .error .bad
      | .sym s r =>
        if s < 16 then readLens clen n fuel (s :: acc) r
        else
          let (k, base) := if s = 16 then (2, 3) else if s = 17 then (3, 3) else (7, 11)
          match takeBits k r with
          | none => .error .more
          | some (x, r1) =>
            if (s = 16 && acc.isEmpty) || n < acc.length + base + x then .error .bad
            else readLens clen n fuel (List.replicate (base + x) (if s = 16 then acc.headD 0 else 0) ++ acc) r1

/-- The codes of a dynamic block (RFC 1951 3.2.7). -/
def readCodes (bs : List Bool) : Except DeflStop (Code × Code × List Bool) :=
  match takeBits 14 bs with
  | none => .error .more
  | some (v, r) =>
    let hlit := 257 + v % 32
    let hdist := 1 + v / 32 % 32
    if 286 < hlit then .error .bad
    else
      match readThrees (4 + v / 1024) r with
      | none => .error .more
      | some (cl, r1) =>
        let clen := codeOf 7 ((List.range 19).map fun s => (cl[clenOrder.idxOf s]?).getD 0)
        if clen.over 1 then .error .bad
        else
          match readLens clen (hlit + hdist) (r1.length + 2) [] r1 with
          | .error e => .error e
          | .ok (ls, r2) =>
            let lit := codeOf 15 (ls.take hlit)
            let dist := codeOf 15 (ls.drop hlit)
            if lit.over 1 || dist.over 1 || (ls[256]?).getD 0 = 0 then .error .bad else .ok (lit, dist, r2)

/-- Copy up to n bytes of a stored block. -/
def storedBytes : Nat → Step → Step
  | 0, x => { x with stop := .done }
  | n + 1, x =>
    match takeBits 8 x.rest with
    | none => { x with stop := .more }
    | some (v, r) => storedBytes n { x with out := BitVec.ofNat 8 v :: x.out, len := x.len + 1, rest := r }

/-- Bits to the next byte boundary of a stream of `total` bits. -/
def toByte (total : Nat) (bs : List Bool) : List Bool := bs.drop ((8 - (total - bs.length) % 8) % 8)

/-- A stored block after its type. -/
def inflateStored (total : Nat) (x : Step) : Step :=
  let bs := toByte total x.rest
  match takeBits 32 bs with
  | none => { x with stop := .more }
  | some (v, r) =>
    if v % 65536 + v / 65536 != 65535 then { x with rest := bs, stop := .bad }
    else storedBytes (v % 65536) { x with rest := r }

/-- A DEFLATE stream so far: where its blocks stand. `blockRest` are the bits after the last whole block, `blocks` their
count, `final` says that the last one had BFINAL. -/
structure Inflated where
  step : Step
  blocks : Nat
  blockRest : List Bool
  final : Bool
  deriving DecidableEq, Repr

/-- Decode blocks. -/
def inflateBlocks (total : Nat) (beyond : DeflStop) : Nat → Inflated → Inflated
  | 0, x => x
  | fuel + 1, x =>
    match takeBits 3 x.step.rest with
    | none => { x with step := { x.step with stop := .more } }
    | some (v, r) =>
      let body : Step :=
        match v / 2 with
        | 0 => inflateStored total { x.step with rest := r }
        | 1 => inflateCodes fixedLit fixedDist beyond (r.length + 1) { x.step with rest := r }
        | 2 =>
          match readCodes r with
          | .error e => { x.step with stop := e }
          | .ok (lit, dist, r1) => inflateCodes lit dist beyond (r1.length + 1) { x.step with rest := r1 }
        | _ => { x.step with rest := x.step.rest.drop 1, stop := .bad }
      if body.stop = .done then
        let y : Inflated := { step := body, blocks := x.blocks + 1, blockRest := body.rest, final := v % 2 = 1 }
        if v % 2 = 1 then y else inflateBlocks total beyond fuel y
      else { x with step := body }

/-- Decode raw DEFLATE from bits that stand in a stream of `total` bits, after a history given newest first. -/
def inflate (total : Nat) (hist : List Byte) (beyond : DeflStop) (bs : List Bool) : Inflated :=
  inflateBlocks total beyond (bs.length + 1)
    { step := { out := hist, len := hist.length, rest := bs, stop := .more }, blocks := 0, blockRest := bs, final := false }

/-! ## Streams -/

/-- How the decoding of a stream stands. -/
inductive Verdict where
  | more | ended | malformed | unsupported
  deriving DecidableEq, Repr

/-- A decoded stream: its output, its whole blocks, the bit after the last of them, whether the last block is among them, how
it stands, and the byte offset of a fault. -/
structure Decoded where
  out : List Byte
  blocks : Nat
  blockEnd : Nat
  final : Bool
  verdict : Verdict
  off : Nat
  deriving DecidableEq, Repr

/-- A stream with no output at a byte offset. -/
def Decoded.at (v : Verdict) (off : Nat) : Decoded :=
  { out := [], blocks := 0, blockEnd := 8 * off, final := false, verdict := v, off := off }

/-- The verdict of a stop. -/
def DeflStop.verdict : DeflStop → Verdict
  | .done => .ended
  | .more => .more
  | .bad => .malformed
  | .noDict => .unsupported

/-- What raw DEFLATE that starts at byte `at'` of `bs` decodes to. -/
def deflateAt (bs : List Byte) (at' : Nat) (hist : List Byte) (beyond : DeflStop) : Decoded :=
  let total := 8 * bs.length
  let x := inflate total hist beyond (bitsOfBytes (bs.drop at'))
  { out := (x.step.out.take (x.step.len - hist.length)).reverse, blocks := x.blocks, blockEnd := total - x.blockRest.length
    final := x.final, verdict := x.step.stop.verdict, off := (total - x.step.rest.length) / 8 }

/-- The last 32,768 bytes of a dictionary, newest first. -/
def deflateHistory (dict : List Byte) : List Byte := dict.reverse.take 32768

/-- What follows a stream that has ended: nothing may (R173). -/
def Decoded.nothingAfter (x : Decoded) (len fin : Nat) : Decoded :=
  if x.verdict = .ended && fin < len then { x with verdict := .malformed, off := fin } else x

/-- Raw DEFLATE with a preset dictionary; without one, a reference before the start needs one (R173). -/
def decodeRaw (dict bs : List Byte) : Decoded :=
  let x := deflateAt bs 0 (deflateHistory dict) (if dict.isEmpty then .noDict else .bad)
  x.nothingAfter bs.length ((x.blockEnd + 7) / 8)

/-- Check a trailer field of n bytes at an offset once a stream's blocks have ended. -/
def Decoded.check (x : Decoded) (bs : List Byte) (off n : Nat) (ok : Nat → Bool) (value : List Byte → Nat) : Decoded :=
  if x.verdict != .ended then x
  else if bs.length < off + n then { x with verdict := .more }
  else if ok (value (slice bs off n)) then x
  else { x with verdict := .malformed, off := off }

/-- zlib (Table 7.4). -/
def decodeZlib (dict bs : List Byte) : Decoded :=
  if bs.length < 2 then .at .more bs.length
  else
    let cmf := field bs 0 1
    let flg := field bs 1 1
    let fdict := flg.testBit 5
    let body := if fdict then 6 else 2
    if cmf % 16 != 8 || 7 < cmf / 16 then .at .malformed 0
    else if (cmf * 256 + flg) % 31 != 0 then .at .malformed 1
    else if fdict && dict.isEmpty then .at .unsupported 1
    else if bs.length < body then .at .more bs.length
    else if fdict && beNat (slice bs 2 4) != adler32 dict then .at .malformed 2
    else
      let x := deflateAt bs body (if fdict then deflateHistory dict else []) .bad
      let fin := (x.blockEnd + 7) / 8
      (x.check bs fin 4 (· == adler32 x.out) beNat).nothingAfter bs.length (fin + 4)

/-- The end of a zero-terminated field at an offset, none where it is not there yet. -/
def zeroEnd (bs : List Byte) (off : Nat) : Option Nat :=
  ((bs.drop off).findIdx? (· == 0)).map fun n => off + n + 1

/-- The end of a gzip header that starts at `at'`; an error is a verdict and an offset. -/
def gzipHeader (bs : List Byte) (at' : Nat) : Except (Verdict × Nat) Nat :=
  let len := bs.length
  let bad (off : Nat) : Except (Verdict × Nat) Nat := .error (.malformed, off)
  let more : Except (Verdict × Nat) Nat := .error (.more, len)
  if len ≤ at' then more
  else if field bs at' 1 != 0x1F then bad at'
  else if len ≤ at' + 1 then more
  else if field bs (at' + 1) 1 != 0x8B then bad (at' + 1)
  else if len ≤ at' + 2 then more
  else if field bs (at' + 2) 1 != 8 then bad (at' + 2)
  else if len ≤ at' + 3 then more
  else
    let flg := field bs (at' + 3) 1
    if 32 ≤ flg then bad (at' + 3)
    else if len < at' + 10 then more
    else
      let x0 := at' + 10
      let x1 : Option Nat :=
        if flg.testBit 2 then
          (if len < x0 + 2 || len < x0 + 2 + field bs x0 2 then none else some (x0 + 2 + field bs x0 2))
        else some x0
      let x2 := x1.bind fun o => if flg.testBit 3 then zeroEnd bs o else some o
      let x3 := x2.bind fun o => if flg.testBit 4 then zeroEnd bs o else some o
      match x3 with
      | none => more
      | some o =>
        if flg.testBit 1 then
          if len < o + 2 then more
          else if field bs o 2 != crc32 (slice bs at' (o - at')) % 65536 then bad o
          else .ok (o + 2)
        else .ok o

/-- gzip members one after another from a byte offset, after the output of the members before (Table 7.4). -/
def gzipMembers (bs : List Byte) : Nat → Nat → Decoded → Decoded
  | 0, _, x => x
  | fuel + 1, at', x =>
    match gzipHeader bs at' with
    | .error (v, off) => { x with verdict := v, off := off, final := false }
    | .ok body =>
      let y := deflateAt bs body [] .bad
      let fin := (y.blockEnd + 7) / 8
      let z := (y.check bs fin 4 (· == crc32 y.out) leNat).check bs (fin + 4) 4 (· == y.out.length % 2 ^ 32) leNat
      let w : Decoded := { z with out := x.out ++ z.out, blocks := x.blocks + z.blocks }
      if w.verdict = .ended && fin + 8 < bs.length then gzipMembers bs fuel (fin + 8) w else w

def decodeGzip (bs : List Byte) : Decoded := gzipMembers bs (bs.length + 1) 0 (.at .more 0)

end Sys2Proof.Machine
end

