-- ==== Sys2Proof/Machine/Zstd.lean ====
section
/-! DEFINITION. Decoding Zstandard frames (07 R172, R173; RFC 8878): Window_Size up to 8 MiB, dictionaries, concatenated and
skippable frames, the content checksum. -/

namespace Sys2Proof.Machine

/-! ## XXH64 -/

def xxP1 : BitVec 64 := 0x9E3779B185EBCA87
def xxP2 : BitVec 64 := 0xC2B2AE3D27D4EB4F
def xxP3 : BitVec 64 := 0x165667B19E3779F9
def xxP4 : BitVec 64 := 0x85EBCA77C2B2AE63
def xxP5 : BitVec 64 := 0x27D4EB2F165667C5

def xxRound (a l : BitVec 64) : BitVec 64 := (a + l * xxP2).rotateLeft 31 * xxP1
def xxMerge (a v : BitVec 64) : BitVec 64 := (a ^^^ xxRound 0 v) * xxP1 + xxP4

/-- Word n of some bytes. -/
def xxWord (bs : List Byte) (n : Nat) : BitVec 64 := BitVec.ofNat 64 (field bs (8 * n) 8)

/-- The four lanes over whole stripes of 32 bytes. -/
def xxStripes : Nat → List Byte → BitVec 64 × BitVec 64 × BitVec 64 × BitVec 64 →
    BitVec 64 × BitVec 64 × BitVec 64 × BitVec 64
  | 0, _, v => v
  | n + 1, bs, (a, b, c, d) =>
    xxStripes n (bs.drop 32)
      (xxRound a (xxWord bs 0), xxRound b (xxWord bs 1), xxRound c (xxWord bs 2), xxRound d (xxWord bs 3))

/-- The bytes after the last stripe. -/
def xxTail : Nat → List Byte → BitVec 64 → BitVec 64
  | 0, _, h => h
  | fuel + 1, bs, h =>
    if 8 ≤ bs.length then xxTail fuel (bs.drop 8) ((h ^^^ xxRound 0 (xxWord bs 0)).rotateLeft 27 * xxP1 + xxP4)
    else if 4 ≤ bs.length then
      xxTail fuel (bs.drop 4) ((h ^^^ (BitVec.ofNat 64 (field bs 0 4) * xxP1)).rotateLeft 23 * xxP2 + xxP3)
    else
      match bs with
      | [] => h
      | b :: r => xxTail fuel r ((h ^^^ (b.setWidth 64 * xxP5)).rotateLeft 11 * xxP1)

/-- XXH64 with seed 0, its low 32 bits: the content checksum. -/
def xxh32of64 (bs : List Byte) : Nat :=
  let n := bs.length / 32
  let h0 : BitVec 64 :=
    if n = 0 then xxP5
    else
      let (a, b, c, d) := xxStripes n bs (xxP1 + xxP2, xxP2, 0, 0 - xxP1)
      let h := a.rotateLeft 1 + b.rotateLeft 7 + c.rotateLeft 12 + d.rotateLeft 18
      xxMerge (xxMerge (xxMerge (xxMerge h a) b) c) d
  let h1 := xxTail 40 (bs.drop (32 * n)) (h0 + BitVec.ofNat 64 bs.length)
  let h2 := (h1 ^^^ (h1 >>> 33)) * xxP2
  let h3 := (h2 ^^^ (h2 >>> 29)) * xxP3
  (h3 ^^^ (h3 >>> 32)).toNat % 2 ^ 32

/-! ## Bit streams read backward -/

/-- The bits of a backward stream in reading order, none where its last byte holds no mark. -/
def backward (bs : List Byte) : Option (List Bool) :=
  match (bitsOfBytes bs).reverse.dropWhile (!·) with
  | [] => none
  | _ :: r => if (bs.getLast?).any (· != 0) then some r else none

/-- An integer of bits, most significant first. -/
def natOfMsb (bs : List Bool) : Nat := bs.foldl (fun a b => 2 * a + b.toNat) 0

/-- Read n bits of a backward stream. -/
def takeMsb (n : Nat) (bs : List Bool) : Option (Nat × List Bool) :=
  let t := bs.take n
  if t.length < n then none else some (natOfMsb t, bs.drop n)

/-! ## FSE (RFC 8878 4.1) -/

/-- A cell of an FSE decoding table: symbol, bits to read, baseline. -/
structure FseCell where
  sym : Nat
  bits : Nat
  base : Nat
  deriving DecidableEq, Repr

/-- An FSE decoding table with its accuracy log. -/
structure Fse where
  log : Nat
  cells : List FseCell
  deriving DecidableEq, Repr

/-- The symbols of the cells of a distribution, probability −1 being "less than one". -/
def fseSpread (log : Nat) (probs : List Int) : List Nat :=
  let size := 2 ^ log
  let low := (probs.zipIdx.filter (·.1 == -1)).map (·.2)
  let high := size - low.length
  let step := size / 2 + size / 8 + 3
  let pos := ((List.range size).map fun i => i * step % size).filter (· < high)
  let syms := probs.zipIdx.flatMap fun t => List.replicate t.1.toNat t.2
  let placed := pos.zip syms
  (List.range size).map fun i =>
    if i < high then ((placed.find? (·.1 == i)).map (·.2)).getD 0 else (low[size - 1 - i]?).getD 0

/-- The cells, each with the count of earlier cells of its symbol. -/
def fseCells (log : Nat) (probs : List Int) : List (Nat × Nat) → List Nat → List FseCell
  | _, [] => []
  | seen, s :: r =>
    let k := ((seen.find? (·.1 == s)).map (·.2)).getD 0
    let p := match probs[s]? with
      | some v => if v = -1 then 1 else v.toNat
      | none => 1
    let next := p + k
    let nb := log - Nat.log2 next
    { sym := s, bits := nb, base := next * 2 ^ nb - 2 ^ log } ::
      fseCells log probs ((s, k + 1) :: seen.filter (·.1 != s)) r

def fseTable (log : Nat) (probs : List Int) : Fse := { log := log, cells := fseCells log probs [] (fseSpread log probs) }

/-- A table of one symbol (RLE mode). -/
def fseRle (s : Nat) : Fse := { log := 0, cells := [{ sym := s, bits := 0, base := 0 }] }

def Fse.cell (t : Fse) (st : Nat) : FseCell := (t.cells[st]?).getD { sym := 0, bits := 0, base := 0 }

/-- Runs of zero probabilities after a zero; an error is the bits left where it stands. -/
def zeroRuns : Nat → List Bool → Except Nat (Nat × List Bool)
  | 0, bs => .error bs.length
  | fuel + 1, bs =>
    match takeBits 2 bs with
    | none => .error bs.length
    | some (v, r) => if v = 3 then (zeroRuns fuel r).map fun t => (3 + t.1, t.2) else .ok (v, r)

/-- The probabilities of a distribution, newest first, while some of it remains; an error is the bits left at the value that
is not one. -/
def fseProbs : Nat → Nat → List Int → List Bool → Except Nat (List Int × List Bool)
  | 0, _, _, bs => .error bs.length
  | fuel + 1, left, acc, bs =>
    if left = 0 then .ok (acc.reverse, bs)
    else
      let nb := Nat.log2 (left + 1) + 1
      let thr := 2 ^ nb - 1 - (left + 1)
      match takeBits (nb - 1) bs with
      | none => .error bs.length
      | some (v, r) =>
        let got : Option (Nat × List Bool) :=
          if v < thr then some (v, r)
          else
            (takeBits 1 r).map fun t => (if t.1 = 1 then v + 2 ^ (nb - 1) - thr else v, t.2)
        match got with
        | none => .error bs.length
        | some (w, r1) =>
          let p : Int := (w : Int) - 1
          if left < p.natAbs then .error bs.length
          else if w = 1 then
            match zeroRuns 200 r1 with
            | .error n => .error n
            | .ok (z, r2) => fseProbs fuel left (List.replicate z 0 ++ (0 :: acc)) r2
          else fseProbs fuel (left - p.natAbs) (p :: acc) r1

/-- An FSE table description at an offset: the table and the offset after it; an error is the offset of the faulty byte. -/
def readFse (bs : List Byte) (off maxLog maxSym : Nat) : Except Nat (Fse × Nat) :=
  let bits := bitsOfBytes (bs.drop off)
  let byteAt (left : Nat) : Nat := off + (bits.length - left) / 8
  match takeBits 4 bits with
  | none => .error off
  | some (v, r) =>
    let log := v + 5
    if maxLog < log then .error off
    else
      match fseProbs 600 (2 ^ log) [] r with
      | .error left => .error (byteAt left)
      | .ok (ps, r1) =>
        if maxSym + 1 < ps.length then .error (byteAt (r1.length + 1))
        else .ok (fseTable log ps, off + ceilDiv (bits.length - r1.length) 8)

/-- Symbols of a stream with two interleaved states, until its bits run out. -/
def fseTwo (t : Fse) : Nat → Nat → Nat → List Bool → Option (List Nat)
  | 0, _, _, _ => none
  | fuel + 1, a, b, bs =>
    let c := t.cell a
    match takeMsb c.bits bs with
    | none => some [c.sym, (t.cell b).sym]
    | some (v, r) => (fseTwo t fuel b (c.base + v) r).map (c.sym :: ·)

/-! ## Huffman (RFC 8878 4.2) -/

/-- A Huffman table: the longest code's bits, and each symbol with its bits for every value of so many bits. -/
structure Huff where
  bits : Nat
  cells : List (Nat × Nat)
  deriving DecidableEq, Repr

/-- The table of weights, the last of which follows from the others. -/
def huffOf (ws : List Nat) : Option Huff :=
  let sum := (ws.map fun w => if w = 0 then 0 else 2 ^ (w - 1)).sum
  if sum = 0 then none
  else
    let mb := Nat.log2 sum + 1
    let left := 2 ^ mb - sum
    if 11 < mb || ws.any (mb < ·) || 2 ^ Nat.log2 left != left then none
    else
      let all := ws ++ [Nat.log2 left + 1]
      some { bits := mb
             cells := (List.range mb).flatMap fun k =>
               (all.zipIdx.filter (·.1 == k + 1)).flatMap fun t => List.replicate (2 ^ k) (t.2, mb - k) }

/-- Where something is missing, the offset of the byte at fault. -/
def orAt {α : Type} (off : Nat) : Option α → Except Nat α
  | none => .error off
  | some x => .ok x

/-- A Huffman tree description at an offset: the table and the offset after it; an error is the offset of the faulty byte. -/
def readHuff (bs : List Byte) (off : Nat) : Except Nat (Huff × Nat) :=
  if bs.length ≤ off then .error off
  else
    let h := field bs off 1
    if 128 ≤ h then
      let n := h - 127
      if bs.length < off + 1 + ceilDiv n 2 then .error off
      else
        let ws := (List.range n).map fun k => bitsOf (field bs (off + 1 + k / 2) 1) (if k % 2 = 0 then 4 else 0) 4
        orAt off ((huffOf ws).map fun t => (t, off + 1 + ceilDiv n 2))
    else if bs.length < off + 1 + h then .error off
    else do
      let body := slice bs (off + 1) h
      let (t, at') ← (readFse body 0 6 255).mapError (off + 1 + ·)
      let (a, b, r) ← orAt (off + h) ((backward (body.drop at')).bind fun r => (takeMsb t.log r).bind fun a =>
        (takeMsb t.log a.2).map fun b => (a.1, b.1, b.2))
      let ws ← orAt (off + 1 + at') (fseTwo t 256 a b r)
      if 255 < ws.length then .error (off + 1 + at') else orAt off ((huffOf ws).map fun t => (t, off + 1 + h))

/-- The byte, from where a backward stream starts, of its next bit where so many are left. -/
def backwardAt (off left : Nat) : Nat := off + (left - 1) / 8

/-- n symbols of a Huffman stream, which must end with them; an error is the bits left. -/
def huffSyms (t : Huff) : Nat → List Bool → Except Nat (List Byte)
  | 0, bs => if bs.isEmpty then .ok [] else .error bs.length
  | n + 1, bs =>
    let v := natOfMsb ((bs ++ List.replicate t.bits false).take t.bits)
    match t.cells[v]? with
    | none => .error bs.length
    | some (s, k) => if bs.length < k then .error bs.length else (huffSyms t n (bs.drop k)).map (BitVec.ofNat 8 s :: ·)

/-- A Huffman stream of n symbols that starts at an offset; an error is the offset of the faulty byte. -/
def huffStream (t : Huff) (n off : Nat) (bs : List Byte) : Except Nat (List Byte) :=
  match backward bs with
  | none => .error (off + (bs.length - 1))
  | some r => (huffSyms t n r).mapError (backwardAt off)

/-! ## Blocks (RFC 8878 3.1.1.3) -/

/-- What a frame carries from block to block: its Window_Size and the length of the dictionary's content, output newest first
after that content, the tables, the repeat offsets. -/
structure ZFrame where
  window : Nat
  dict : Nat
  out : List Byte
  len : Nat
  huff : Option Huff
  ll : Option Fse
  ofs : Option Fse
  ml : Option Fse
  reps : Nat × Nat × Nat
  deriving DecidableEq, Repr

/-- A match may start at a position of the output and reach back so far: within the window, or, while the frame has put out no
more than a window, into the dictionary too (RFC 8878 3.1.1.1.2 and 5; log 99). -/
def ZFrame.reaches (z : ZFrame) (at' dist : Nat) : Bool :=
  dist != 0 && (if at' - z.dict ≤ z.window then dist ≤ at' else dist ≤ z.window)

/-- The literals of a block, the tables after them, and the offset after the section; an error is the offset of the faulty
byte. -/
def readLiterals (z : ZFrame) (b : List Byte) (max : Nat) : Except Nat (List Byte × ZFrame × Nat) :=
  let h := field b 0 1
  let ty := h % 4
  let sf := h / 4 % 4
  if ty ≤ 1 then
    let (n, hl) :=
      if sf % 2 = 0 then (h / 8, 1) else if sf = 1 then (field b 0 2 / 16, 2) else (field b 0 3 / 16, 3)
    if max < n then .error 0
    else if ty = 0 then (if b.length < hl + n then .error 0 else .ok (slice b hl n, z, hl + n))
    else if b.length < hl + 1 then .error 0
    else .ok (List.replicate n ((b[hl]?).getD 0), z, hl + 1)
  else
    let (w, hl) := if sf ≤ 1 then (10, 3) else if sf = 2 then (14, 4) else (18, 5)
    let n := bitsOf (field b 0 hl) 4 w
    let c := bitsOf (field b 0 hl) (4 + w) w
    if max < n || b.length < hl + c then .error 0
    else do
      let (t, at') ← if ty = 2 then readHuff (b.take (hl + c)) hl else orAt 0 (z.huff.map fun t => (t, hl))
      let body := slice b at' (hl + c - at')
      let lits ←
        if sf = 0 then huffStream t n at' body
        else if body.length < 6 then .error at'
        else
          let s1 := field body 0 2
          let s2 := field body 2 2
          let s3 := field body 4 2
          let q := (n + 3) / 4
          if body.length < 6 + s1 + s2 + s3 || n < 3 * q then .error at'
          else do
            let w ← huffStream t q (at' + 6) (slice body 6 s1)
            let x ← huffStream t q (at' + 6 + s1) (slice body (6 + s1) s2)
            let y ← huffStream t q (at' + 6 + s1 + s2) (slice body (6 + s1 + s2) s3)
            let v ← huffStream t (n - 3 * q) (at' + 6 + s1 + s2 + s3) (body.drop (6 + s1 + s2 + s3))
            .ok (w ++ x ++ y ++ v)
      .ok (lits, { z with huff := some t }, hl + c)

/-- Baselines and extra bits of literal-length and match-length codes. -/
def llCode (s : Nat) : Nat × Nat :=
  if s < 16 then (s, 0)
  else
    (([(16, 1), (18, 1), (20, 1), (22, 1), (24, 2), (28, 2), (32, 3), (40, 3), (48, 4), (64, 6), (128, 7), (256, 8),
       (512, 9), (1024, 10), (2048, 11), (4096, 12), (8192, 13), (16384, 14), (32768, 15), (65536, 16)] :
        List (Nat × Nat))[s - 16]?).getD (0, 0)

def mlCode (s : Nat) : Nat × Nat :=
  if s < 32 then (s + 3, 0)
  else
    (([(35, 1), (37, 1), (39, 1), (41, 1), (43, 2), (47, 2), (51, 3), (59, 3), (67, 4), (83, 4), (99, 5), (131, 7),
       (259, 8), (515, 9), (1027, 10), (2051, 11), (4099, 12), (8195, 13), (16387, 14), (32771, 15), (65539, 16)] :
        List (Nat × Nat))[s - 32]?).getD (0, 0)

/-- The predefined distributions. -/
def llDefault : Fse :=
  fseTable 6 [4, 3, 2, 2, 2, 2, 2, 2, 2, 2, 2, 2, 2, 1, 1, 1, 2, 2, 2, 2, 2, 2, 2, 2, 2, 3, 2, 1, 1, 1, 1, 1, -1, -1, -1,
    -1]
def mlDefault : Fse :=
  fseTable 6 [1, 4, 3, 2, 2, 2, 2, 2, 2, 1, 1, 1, 1, 1, 1, 1, 1, 1, 1, 1, 1, 1, 1, 1, 1, 1, 1, 1, 1, 1, 1, 1, 1, 1, 1, 1,
    1, 1, 1, 1, 1, 1, 1, 1, 1, 1, -1, -1, -1, -1, -1, -1, -1]
def ofDefault : Fse :=
  fseTable 5 [1, 1, 1, 1, 1, 1, 2, 2, 2, 1, 1, 1, 1, 1, 1, 1, 1, 1, 1, 1, 1, 1, 1, 1, -1, -1, -1, -1, -1]

/-- One table of the sequences section by its mode: the table and the offset after it; a mode that repeats no table is the
fault of the modes byte at `modes`. -/
def seqTable (b : List Byte) (modes off mode maxLog maxSym : Nat) (dflt : Fse) (prev : Option Fse) :
    Except Nat (Fse × Nat) :=
  match mode with
  | 0 => .ok (dflt, off)
  | 1 =>
    match b[off]? with
    | some v => if maxSym < v.toNat then .error off else .ok (fseRle v.toNat, off + 1)
    | none => .error off
  | 2 => readFse b off maxLog maxSym
  | _ => orAt modes (prev.map fun t => (t, off))

/-- The offset that an offset value names, and the repeat offsets after it. -/
def nextOffset (reps : Nat × Nat × Nat) (v ll : Nat) : Nat × (Nat × Nat × Nat) :=
  let (a, b, c) := reps
  if 3 < v then (v - 3, (v - 3, a, b))
  else
    match v - 1 + (if ll = 0 then 1 else 0) with
    | 0 => (a, (a, b, c))
    | 1 => (b, (b, a, c))
    | 2 => (c, (c, a, b))
    | _ => (a - 1, (a - 1, a, b))

/-- Execute sequences: the literals left and the frame; an error is the bits left at the sequence at fault. -/
def sequences (ll ofs ml : Fse) : Nat → Nat → Nat → Nat → List Bool → List Byte → ZFrame →
    Except Nat (List Byte × ZFrame)
  | 0, _, _, _, bs, lits, z => if bs.isEmpty then .ok (lits, z) else .error bs.length
  | n + 1, a, o, m, bs, lits, z =>
    let ca := ll.cell a
    let co := ofs.cell o
    let cm := ml.cell m
    match takeMsb co.sym bs with
    | none => .error bs.length
    | some (ox, r1) =>
      match takeMsb (mlCode cm.sym).2 r1 with
      | none => .error bs.length
      | some (mx, r2) =>
        match takeMsb (llCode ca.sym).2 r2 with
        | none => .error bs.length
        | some (lx, r3) =>
          let lit := (llCode ca.sym).1 + lx
          let mat := (mlCode cm.sym).1 + mx
          let (d, reps) := nextOffset z.reps (2 ^ co.sym + ox) lit
          let len := z.len + lit
          if lits.length < lit || !z.reaches len d then .error bs.length
          else
            let out := copyBack mat d ((lits.take lit).reverse ++ z.out)
            let z1 := { z with out := out, len := len + mat, reps := reps }
            if n = 0 then (if r3.isEmpty then .ok (lits.drop lit, z1) else .error r3.length)
            else
              match takeMsb ca.bits r3 with
              | none => .error r3.length
              | some (va, r4) =>
                match takeMsb cm.bits r4 with
                | none => .error r4.length
                | some (vm, r5) =>
                  match takeMsb co.bits r5 with
                  | none => .error r5.length
                  | some (vo, r6) =>
                    sequences ll ofs ml n (ca.base + va) (co.base + vo) (cm.base + vm) r6 (lits.drop lit) z1

/-- Append the literals after the last sequence. -/
def ZFrame.append (z : ZFrame) (lits : List Byte) : ZFrame :=
  { z with out := lits.reverse ++ z.out, len := z.len + lits.length }

/-- The sequences section of a block; an error is the offset of the faulty byte. -/
def readSequences (z : ZFrame) (b : List Byte) (off : Nat) (lits : List Byte) : Except Nat ZFrame :=
  if b.length ≤ off then .error off
  else
    let b0 := field b off 1
    let (n, at') :=
      if b0 < 128 then (b0, off + 1)
      else if b0 < 255 then ((b0 - 128) * 256 + field b (off + 1) 1, off + 2)
      else (field b (off + 1) 2 + 0x7F00, off + 3)
    if b.length < at' then .error off
    else if n = 0 then (if at' = b.length then .ok (z.append lits) else .error at')
    else if b.length ≤ at' then .error at'
    else if field b at' 1 % 4 != 0 then .error at'
    else do
      let modes := field b at' 1
      let (tl, o1) ← seqTable b at' (at' + 1) (modes / 64) 9 35 llDefault z.ll
      let (dest, o2) ← seqTable b at' o1 (modes / 16 % 4) 8 31 ofDefault z.ofs
      let (tm, o3) ← seqTable b at' o2 (modes / 4 % 4) 9 52 mlDefault z.ml
      let (a, o, m, r) ← orAt (b.length - 1) ((backward (b.drop o3)).bind fun r => (takeMsb tl.log r).bind fun a =>
        (takeMsb dest.log a.2).bind fun o => (takeMsb tm.log o.2).map fun m => (a.1, o.1, m.1, m.2))
      let (rest, z1) ← (sequences tl dest tm n a o m r lits { z with ll := some tl, ofs := some dest, ml := some tm }).mapError
        (backwardAt o3)
      .ok (z1.append rest)

/-- A compressed block; an error is the offset of the faulty byte. -/
def zBlock (z : ZFrame) (b : List Byte) (max : Nat) : Except Nat ZFrame := do
  let (lits, z1, off) ← readLiterals z b max
  let z2 ← readSequences z1 b off lits
  if max < z2.len - z.len then .error 0 else .ok z2

/-! ## Dictionaries (RFC 8878 5) -/

/-- What a dictionary gives a frame: its ID, 0 for a raw-content one, and the frame's start. -/
structure ZDict where
  id : Nat
  start : ZFrame
  deriving DecidableEq, Repr

/-- A frame with nothing before it. -/
def ZFrame.fresh (content : List Byte) : ZFrame :=
  { window := 0, dict := content.length, out := content.reverse, len := content.length, huff := none, ll := none, ofs := none, ml := none, reps := (1, 4, 8) }

/-- A formatted dictionary starts with its magic (Table 7.4). -/
def formattedDict (d : List Byte) : Bool := 8 ≤ d.length && field d 0 4 == 0xEC30A437

/-- The entropy tables of a formatted dictionary, and the offset after them. -/
def readTables (d : List Byte) : Except Nat (Huff × Fse × Fse × Fse × Nat) := do
  let (h, o1) ← readHuff d 8
  let (dest, o2) ← readFse d o1 8 31
  let (tm, o3) ← readFse d o2 9 52
  let (tl, o4) ← readFse d o3 9 35
  .ok (h, dest, tm, tl, o4)

/-- Read a dictionary; none where a formatted one is broken. -/
def readDict (d : List Byte) : Option ZDict :=
  if !formattedDict d then some { id := 0, start := .fresh d }
  else
    match readTables d with
    | .error _ => none
    | .ok (h, dest, tm, tl, o4) =>
      let content := d.drop (o4 + 12)
      let r (n : Nat) : Nat := field d (o4 + 4 * n) 4
      if d.length < o4 + 12 || [r 0, r 1, r 2].any fun x => x = 0 || content.length < x then none
      else
        some { id := field d 4 4
               start := { ZFrame.fresh content with
                 huff := some h, ll := some tl, ofs := some dest, ml := some tm, reps := (r 0, r 1, r 2) } }

/-! ## Frames -/

/-- A frame header: window size, content size if stated, checksum flag, offset after it. -/
structure ZHeader where
  window : Nat
  content : Option Nat
  checksum : Bool
  body : Nat
  deriving DecidableEq, Repr

/-- Read the header of a frame whose magic stands at `at'` (R173). -/
def zHeader (bs : List Byte) (at' dictId : Nat) : Except (Verdict × Nat) ZHeader :=
  let more : Except (Verdict × Nat) ZHeader := .error (.more, bs.length)
  if bs.length < at' + 5 then more
  else
    let d := field bs (at' + 4) 1
    let single := d.testBit 5
    let idLen := match d % 4 with | 0 => 0 | 1 => 1 | 2 => 2 | _ => 4
    let fcsLen := match d / 64 with | 0 => (if single then 1 else 0) | 1 => 2 | 2 => 4 | _ => 8
    let wOff := at' + 5
    let idOff := if single then wOff else wOff + 1
    let fcsOff := idOff + idLen
    if d.testBit 3 then .error (.malformed, at' + 4)
    else if bs.length < fcsOff + fcsLen then more
    else
      let w := field bs wOff 1
      let base := 2 ^ (10 + w / 8)
      let fcs := field bs fcsOff fcsLen + if fcsLen = 2 then 256 else 0
      let window := if single then fcs else base + base / 8 * (w % 8)
      let id := field bs idOff idLen
      if 8388608 < window then .error (.unsupported, if single then fcsOff else wOff)
      else if id != 0 && id != dictId then .error (.malformed, idOff)
      else
        .ok { window := window, content := if fcsLen = 0 then none else some fcs, checksum := d.testBit 2
              body := fcsOff + fcsLen }

/-- Blocks of a frame from an offset: `x` is what was decoded before the frame and `h` its header. A fault stands at its first
byte (R173, log 99). -/
def zBlocks (bs : List Byte) (h : ZHeader) (before : List Byte) :
    Nat → Nat → ZFrame → Decoded → Decoded × Nat
  | 0, off, _, x => (x, off)
  | fuel + 1, off, z, x =>
    let now : List Byte := before ++ (z.out.take (z.len - z.dict)).reverse
    let max := min h.window 131072
    if bs.length < off + 3 then ({ x with out := now, verdict := .more, off := bs.length }, off)
    else
      let v := field bs off 3
      let ty := v / 2 % 4
      let n := v / 8
      let size := if ty = 1 then 1 else n
      let bad (o : Nat) : Decoded × Nat := ({ x with out := now, verdict := .malformed, off := o }, off)
      if ty = 3 || max < n then bad off
      else if bs.length < off + 3 + size then ({ x with out := now, verdict := .more, off := bs.length }, off)
      else
        let b := slice bs (off + 3) size
        let z1 : Except Nat ZFrame :=
          match ty with
          | 0 => .ok (z.append b)
          | 1 => .ok (z.append (List.replicate n (b.headD 0)))
          | _ => zBlock z b max
        match z1 with
        | .error o => bad (off + 3 + o)
        | .ok z1 =>
          let out := before ++ (z1.out.take (z1.len - z1.dict)).reverse
          let last : Bool := v % 2 = 1
          let fin := off + 3 + size
          let y : Decoded :=
            { out := out, blocks := x.blocks + 1, blockEnd := 8 * fin, final := last, verdict := .ended, off := fin }
          if !last then zBlocks bs h before fuel fin z1 y
          else if h.content.any (· != z1.len - z1.dict) then ({ y with verdict := .malformed }, fin)
          else if !h.checksum then (y, fin)
          else
            (y.check bs fin 4 (· == xxh32of64 (out.drop before.length)) leNat, fin + 4)

/-- Frames one after another from an offset (Table 7.4). -/
def zFrames (bs : List Byte) (dict : ZDict) : Nat → Nat → Decoded → Decoded
  | 0, _, x => x
  | fuel + 1, off, x =>
    if bs.length < off + 4 then { x with verdict := .more, off := bs.length, final := false }
    else
      let magic := field bs off 4
      if 0x184D2A50 ≤ magic && magic ≤ 0x184D2A5F then
        let fin := off + 8 + field bs (off + 4) 4
        if bs.length < off + 8 || bs.length < fin then { x with verdict := .more, off := bs.length, final := false }
        else
          let y : Decoded := { x with blockEnd := 8 * fin, verdict := .ended, off := fin }
          if fin = bs.length then y else zFrames bs dict fuel fin y
      else if magic != 0xFD2FB528 then { x with verdict := .malformed, off := off, final := false }
      else
        match zHeader bs off dict.id with
        | .error (v, o) => { x with verdict := v, off := o, final := false }
        | .ok h =>
          let (y, fin) := zBlocks bs h x.out (bs.length + 1) h.body { dict.start with window := h.window }
            { x with blockEnd := 8 * h.body, final := false }
          if y.verdict = .ended && fin < bs.length then zFrames bs dict fuel fin y else y

/-- What Zstandard bytes decode to. -/
def decodeZstd (dict bs : List Byte) : Decoded :=
  match readDict dict with
  | none => .at .malformed 0
  | some d => zFrames bs d (bs.length + 1) 0 (.at .more 0)

/-- What the bytes of a stream of a FORMAT decode to (Table 7.2). -/
def decodeFormat (format : Nat) (dict bs : List Byte) : Decoded :=
  match format with
  | 0 => decodeRaw dict bs
  | 1 => decodeZlib dict bs
  | 2 => decodeGzip bs
  | _ => decodeZstd dict bs

end Sys2Proof.Machine
end

