-- ==== Sys2Proof/Machine/Compress.lean ====
section
/-! DEFINITION. COMPRESS, DECOMPRESS and FLUSH (07 R169 to R183). -/

namespace Sys2Proof.Machine

/-! ## The encoder (R172, R175, R178, R180) -/

/-- A compressed stream being written: the input in finished blocks and the bits emitted. -/
structure Encoder where
  format : Nat
  level : Nat
  checksum : Bool
  dict : List Byte
  marks : List Nat
  done : List Byte
  bits : List Bool
  deriving DecidableEq, Repr

/-- S of Table 7.5. -/
def blockBytes (format : Nat) : Nat := if format = 3 then 131072 else 65535

/-- H of Table 7.5: bytes before the first block. -/
def headBytes (format : Nat) (dict : List Byte) : Nat :=
  match format with
  | 0 => 0
  | 1 => if dict.isEmpty then 2 else 6
  | 2 => 10
  | _ => if formattedDict dict then 10 else 6

/-- FLEVEL of a LEVEL (Table 7.4). -/
def flevel (level : Nat) : Nat := if level = 1 then 0 else if level ≤ 5 then 1 else if level = 6 then 2 else 3

/-- The zlib header: FLG carries FLEVEL, FDICT and the check of RFC 1950. -/
def zlibHead (level : Nat) (dict : List Byte) : List Byte :=
  let flg := flevel level * 64 + if dict.isEmpty then 0 else 32
  [0x78, BitVec.ofNat 8 (flg + (31 - (0x7800 + flg) % 31) % 31)] ++
  if dict.isEmpty then [] else beBytes 4 (adler32 dict)

/-- Window_Descriptor of a LEVEL: 1, 2 or 8 MiB (Table 7.4). -/
def windowByte (level : Nat) : Byte := if level ≤ 3 then 0x50 else if level ≤ 6 then 0x58 else 0x68

/-- The bytes before the first block (Table 7.4). -/
def headOf (format level : Nat) (checksum : Bool) (dict : List Byte) : List Byte :=
  match format with
  | 0 => []
  | 1 => zlibHead level dict
  | 2 => [0x1F, 0x8B, 8, 0, 0, 0, 0, 0, 0, 255]
  | _ =>
    let id := formattedDict dict
    [0x28, 0xB5, 0x2F, 0xFD, BitVec.ofNat 8 (4 * checksum.toNat + if id then 3 else 0), windowByte level] ++
    if id then slice dict 4 4 else []

/-- The bytes after the last block (Table 7.4). -/
def tailOf (format : Nat) (checksum : Bool) (input : List Byte) : List Byte :=
  match format with
  | 0 => []
  | 1 => beBytes 4 (adler32 input)
  | 2 => leBytes 4 (crc32 input) ++ leBytes 4 (input.length % 2 ^ 32)
  | _ => if checksum then leBytes 4 (xxh32of64 input) else []

/-- Zeros up to a byte boundary. -/
def padBits (bits : List Bool) : List Bool := bits ++ List.replicate ((8 - bits.length % 8) % 8) false

/-- A stored block of DEFLATE that starts at a bit position. -/
def storedBlock (at' : Nat) (final : Bool) (b : List Byte) : List Bool :=
  [final, false, false] ++ List.replicate ((8 - (at' + 3) % 8) % 8) false ++
  bitsOfBytes (leBytes 2 b.length ++ leBytes 2 (65535 - b.length) ++ b)

/-- The stored or raw block of an input at a bit position (R178). -/
def plainBlock (format at' : Nat) (final : Bool) (b : List Byte) : List Bool :=
  if format = 3 then bitsOfBytes (leBytes 3 (final.toNat + 8 * b.length) ++ b) else storedBlock at' final b

/-- Whole blocks of what has been emitted, their end in bits, whether the last has its final mark, and their output. -/
def Encoder.decoded (e : Encoder) (bits : List Bool) : Nat × Nat × Bool × List Byte :=
  if e.format = 3 then
    let x := decodeZstd e.dict (bytesOfBits (bits.length / 8) bits)
    (x.blocks, x.blockEnd, x.final, x.out)
  else
    let body := bits.drop (8 * headBytes e.format e.dict)
    let hist := deflateHistory e.dict
    let x := inflate body.length hist .bad body
    (x.blocks, bits.length - x.blockRest.length, x.final, (x.step.out.take (x.step.len - hist.length)).reverse)

/-- Some bits are one more block with this input (R175, R178). -/
def Encoder.isBlock (e : Encoder) (final : Bool) (b : List Byte) (block : List Bool) : Bool :=
  let all := e.bits ++ block
  let (n, fin, last, out) := e.decoded all
  n == (e.decoded e.bits).1 + 1 && fin == all.length && last == final && out == e.done ++ b

/-- Emit a block: the encoder's choice where it is one and is no longer than the plain block, else the plain block. -/
def Encoder.block (e : Encoder) (final : Bool) (b : List Byte) : Encoder :=
  let plain := plainBlock e.format e.bits.length final b
  let free := Config.encodeBlock e.format e.level e.marks e.dict e.done b final
  let use := if free.length ≤ plain.length && e.isBlock final b free then free else plain
  { e with done := e.done ++ b, bits := e.bits ++ use }

/-- Finish every full block of some input; what is left is held. -/
def Encoder.fullBlocks : Nat → Encoder → List Byte → Encoder × List Byte
  | 0, e, h => (e, h)
  | n + 1, e, h =>
    let z := blockBytes e.format
    if h.length < z then (e, h) else Encoder.fullBlocks n (e.block false (h.take z)) (h.drop z)

/-- The empty final block: fixed-Huffman with BFINAL, or raw with Last_Block. -/
def emptyFinal (format : Nat) : List Bool :=
  if format = 3 then bitsOfBytes [1, 0, 0]
  else [true, true, false, false, false, false, false, false, false, false]

/-- Finish a stream with its held input (R178). -/
def Encoder.close (e : Encoder) (held : List Byte) : Encoder :=
  let e1 := if held.isEmpty then { e with bits := e.bits ++ emptyFinal e.format } else e.block true held
  { e1 with bits := padBits e1.bits ++ bitsOfBytes (tailOf e.format e.checksum (e.done ++ held)) }

/-- Finish the held input early (R180). -/
def Encoder.flush (e : Encoder) (held : List Byte) : Encoder :=
  let e1 := if held.isEmpty then e else e.block false held
  if e.format = 3 then e1 else { e1 with bits := e1.bits ++ storedBlock e1.bits.length false [] }

/-- A stream that an item opens, its header emitted. -/
def openStream (compress : Bool) (format level flow : Nat) (checksum : Bool) (dict : List Byte) : Stream :=
  { compress := compress, format := format, level := level, flow := flow, checksum := checksum, dict := dict, input := []
    marks := [], held := 0, emitted := if compress then bitsOfBytes (headOf format level checksum dict) else [], written := 0 }

/-- The encoder of a stream: its input but for what is held. -/
def Stream.encoder (x : Stream) : Encoder :=
  { format := x.format, level := x.level, checksum := x.checksum, dict := x.dict, marks := x.marks
    done := x.input.take (x.input.length - x.held), bits := x.emitted }

/-- The held input of a stream. -/
def Stream.heldInput (x : Stream) : List Byte := x.input.drop (x.input.length - x.held)

/-- A stream after an encoder has run: the whole bytes it has emitted since, and the stream as it stands. -/
def Stream.after (x : Stream) (e : Encoder) (held : List Byte) : List Byte × Stream :=
  let n := e.bits.length / 8
  ((bytesOfBits n e.bits).drop x.written,
    { x with input := e.done ++ held, marks := e.marks, held := held.length, emitted := e.bits, written := n })

/-- A compressor takes an item's input (R178). -/
def Stream.compressItem (x : Stream) (src : List Byte) (last : Bool) : List Byte × Stream :=
  let e0 := x.encoder
  let total := x.heldInput ++ src
  let (e1, held) :=
    Encoder.fullBlocks (total.length / blockBytes x.format) { e0 with marks := e0.marks ++ [x.input.length + src.length] } total
  if last then x.after { e1.close held with done := e1.done ++ held } [] else x.after e1 held

/-- A FLUSH (R180). -/
def Stream.flushItem (x : Stream) : List Byte × Stream :=
  let e := { x.encoder with marks := x.marks ++ [x.input.length] }
  x.after { e.flush x.heldInput with done := x.input } []

/-! ## BOUND (R181, Table 7.5) -/

/-- BOUND of a COMPRESS item with m bytes of held and new input. -/
def boundOf (x : Stream) (m : Nat) (first last : Bool) : Nat :=
  let zstd : Bool := x.format = 3
  let tail :=
    match x.format with
    | 0 => 3
    | 1 => 7
    | 2 => 11
    | _ => if x.checksum then 7 else 3
  m + (if zstd then 3 else 5) * ceilDiv m (blockBytes x.format) + (if zstd then 0 else 1) +
  (if first then headBytes x.format x.dict else 0) + if last then tail else 0

/-- BOUND of a FLUSH. -/
def flushBound (x : Stream) : Nat := x.held + if x.format = 3 then 3 else 12

/-! ## What the three commands share -/

/-- The open stream of an item's context. -/
def State.streamAt (s : State) (p : Port) (i : Item) : Option Stream := (s.parts[p].streams.find? (·.1 == i.fld 48 8)).map (·.2)

/-- The context's bytes in HBM are the unit's: nothing is known of them afterwards (log 13). -/
def State.forgetContext (s : State) (p : Port) (i : Item) : State :=
  let a := hbmKey p (i.fld 48 8 / 2 ^ 37) (i.fld 48 8 % 2 ^ 37)
  { s with hbm := s.hbm.clear a (a + ctxBytes) }

/-- Write a stream back into its context, or close it (R176). -/
def State.keepStream (s : State) (p : Port) (i : Item) (x : Stream) (closed : Bool) : State :=
  if i.stream?.isNone then s
  else
    let s1 := s.failStream p i
    if closed then s1 else (s1.updPart p fun y => { y with streams := (i.fld 48 8, x) :: y.streams }).forgetContext p i

/-- A non-FIRST item reads its context; an uncorrectable error met there ends it. -/
def State.contextBad (s : State) (p : Port) (i : Item) : Bool :=
  s.hbmBad p (i.fld 48 8 / 2 ^ 37) (i.fld 48 8 % 2 ^ 37) ctxBytes

/-- End an item on an uncorrectable error at a place; its stream has failed (Table 7.7). -/
def State.codecUe (s : State) (p : Port) (i : Item) (x : Place3) : State :=
  ((s.reportUe p x).failStream p i).finishService p i.key .uncorrectable 0 0

/-- Dictionary of a FIRST item. -/
def State.readDictionary (s : State) (p : Port) (i : Item) : Fetched :=
  if i.fld 44 4 = 0 then .bytes [] else s.readPlace p i (place3 (bitsOf (i.fld 42 1) 4 2) (i.fld 56 8)) (i.fld 44 4)

/-- Source and destination of an item. -/
def Item.codecSrc (i : Item) : Place3 := place3 (bitsOf (i.fld 42 1) 0 2) (i.fld 16 8)
def Item.codecDst (i : Item) : Place3 := place3 (bitsOf (i.fld 42 1) 2 2) (i.fld 24 8)

/-- Find the stream of an item that does not set FIRST (R171, R177): the stream, or the completion that ends the item. -/
def State.laterStream (s : State) (p : Port) (i : Item) (compress : Bool) : Except State Stream :=
  let flush : Bool := i.opcode = opFlush
  match s.streamAt p i with
  | none => .error (s.finishService p i.key .stateStale 0 0xFFFFFFFF)
  | some x =>
    if x.compress != compress then .error (s.finishService p i.key .stateStale 0 0xFFFFFFFF)
    else if x.flow != i.flow then .error (s.finishService p i.key .badDescriptor 8 0)
    else if !flush && x.format != i.fld 40 1 then .error (s.finishService p i.key .badDescriptor 40 0)
    else if !flush && compress && x.level != i.fld 41 1 then .error (s.finishService p i.key .badDescriptor 41 0)
    else if s.contextBad p i then .error (s.codecUe p i (place3 2 (i.fld 48 8)))
    else .ok x

/-- The stream that an item works on: a new one for FIRST, else the one its context holds. -/
def State.streamFor (s : State) (p : Port) (i : Item) (compress : Bool) : Except State Stream :=
  if i.opcode = opFlush || i.fld 43 1 % 2 = 0 then s.laterStream p i compress
  else
    match s.readDictionary p i with
    | .ue => .error (s.codecUe p i (place3 (bitsOf (i.fld 42 1) 4 2) (i.fld 56 8)))
    | .bytes d => .ok (openStream compress (i.fld 40 1) (i.fld 41 1) i.flow (i.flag 5) d)

/-- The values of a continuation pass (Table 4.10). -/
def Item.codecArgs (i : Item) (written : Nat) : PassArgs := { b := ceilDiv written 1024, d := i.dstOff, s0 := 0, e0 := 0 }

/-! ## COMPRESS and FLUSH -/

/-- COMPRESS completes NO_GAIN (R182): the destination's bytes have no meaning. -/
def State.noGain (s : State) (p : Port) (i : Item) : State :=
  let (n, s1) := s.takeFree
  let junk := (List.range (i.fld 36 4)).map (Config.noGainByte n)
  (((s1.writePlace p i.codecDst junk).countP p .noGain 1).countP p .compressIn (i.fld 32 4)).finishService p i.key
    .noGain 0 (i.fld 32 4)

/-- What a compressor's item leaves: the output written, the stream kept or closed, the bytes counted. -/
def State.putCompressed (s : State) (p : Port) (i : Item) (taken : Nat) (out : List Byte) (x : Stream) (closed : Bool) : State :=
  (((s.writePlace p i.codecDst out).keepStream p i x closed).countP p .compressIn taken).countP p .compressOut out.length

/-- COMPRESS with its stream (R178, R181, R182). -/
def State.compressWith (s : State) (p : Port) (i : Item) (x : Stream) : State :=
  let first : Bool := i.fld 43 1 % 2 = 1
  let last : Bool := bitsOf (i.fld 43 1) 1 1 = 1
  let n := i.fld 32 4
  let cap := i.fld 36 4
  let bound := boundOf x (x.held + n) first last
  if !i.flag 4 && cap < bound then s.finishService p i.key .limit 0 (min bound 0xFFFFFFFF)
  else
    match s.readPlace p i i.codecSrc n with
    | .ue => s.codecUe p i i.codecSrc
    | .bytes src =>
      let (out, y) := x.compressItem src last
      if i.flag 4 && min cap (n - 1) < out.length then s.noGain p i
      else (s.putCompressed p i n out y last).finishEngine p i .ok out.length y.held (i.codecArgs out.length)

/-- COMPRESS (R169 to R183). -/
def State.compress (s : State) (p : Port) (k : Nat) : State :=
  match s.servingNow p k opCompress with
  | none => s
  | some i =>
    if !s.rangesOk p i.codecRanges then s.finishService p k .bounds 0 0
    else
      s.reach (i.codecRanges.map (·.2.1)) fun _ =>
        match s.streamFor p i true with
        | .error s1 => s1
        | .ok x => s.compressWith p i x

def execCompress (p : Port) (k : Nat) (s : State) : Host.Outcome State Fault Refusal := .next (s.compress p k)

/-- FLUSH (R180, R181). -/
def State.flush (s : State) (p : Port) (k : Nat) : State :=
  match s.servingNow p k opFlush with
  | none => s
  | some i =>
    if !s.rangesOk p i.codecRanges then s.finishService p k .bounds 0 0
    else
      s.reach (i.codecRanges.map (·.2.1)) fun _ =>
        match s.streamFor p i true with
        | .error s1 => s1
        | .ok x =>
          if i.fld 36 4 < flushBound x then s.finishService p k .limit 0 (min (flushBound x) 0xFFFFFFFF)
          else
            let (out, y) := x.flushItem
            (s.putCompressed p i 0 out y false).finishService p k .ok out.length 0

def execFlush (p : Port) (k : Nat) (s : State) : Host.Outcome State Fault Refusal := .next (s.flush p k)

/-! ## DECOMPRESS -/

/-- Output that the first n bytes of an item's input bring the stream to. -/
def Stream.outputAfter (x : Stream) (src : List Byte) (n : Nat) : Nat :=
  (decodeFormat x.format x.dict (x.input ++ src.take n)).out.length

/-- Input consumed by an item whose destination fills: the least that yields the output (R179). -/
def Stream.consumed (x : Stream) (src : List Byte) (cap : Nat) : Nat :=
  ((List.range src.length).find? fun n => x.written + cap ≤ x.outputAfter src n).getD src.length

/-- Write decoded output, count it, keep or close the stream. -/
def State.putDecoded (s : State) (p : Port) (i : Item) (out : List Byte) (x : Stream) (closed : Bool) : State :=
  ((s.writePlace p i.codecDst out).keepStream p i x closed).countP p .decompressOut out.length

/-- DECOMPRESS with its stream and input (R173, R179, Table 7.6). -/
def State.decompressWith (s : State) (p : Port) (i : Item) (x : Stream) (src : List Byte) : State :=
  let last : Bool := bitsOf (i.fld 43 1) 1 1 = 1
  let n := i.fld 32 4
  let cap := i.fld 36 4
  let d := decodeFormat x.format x.dict (x.input ++ src)
  let out := d.out.drop x.written
  if cap < out.length then
    let used := x.consumed src cap
    (s.putDecoded p i (out.take cap) { x with input := x.input ++ src.take used, written := x.written + cap } false).finishService
      p i.key .limit cap used
  else
    let y : Stream := { x with input := x.input ++ src, written := x.written + out.length }
    let fault (st : Status) (at' : Nat) : State :=
      (s.putDecoded p i out y true).finishService p i.key st out.length at'
    match d.verdict with
    | .malformed => fault .malformed (d.off - x.input.length)
    | .unsupported => fault .unsupported (d.off - x.input.length)
    | .more =>
      if last then fault .malformed n
      else (s.putDecoded p i out y false).finishEngine p i .ok out.length n (i.codecArgs out.length)
    | .ended => (s.putDecoded p i out y last).finishEngine p i .ok out.length n (i.codecArgs out.length)

/-- DECOMPRESS (R169 to R183). -/
def State.decompress (s : State) (p : Port) (k : Nat) : State :=
  match s.servingNow p k opDecompress with
  | none => s
  | some i =>
    if !s.rangesOk p i.codecRanges then s.finishService p k .bounds 0 0
    else
      s.reach (i.codecRanges.map (·.2.1)) fun _ =>
        match s.streamFor p i false with
        | .error s1 => s1
        | .ok x =>
          match s.readPlace p i i.codecSrc (i.fld 32 4) with
          | .ue => s.codecUe p i i.codecSrc
          | .bytes src => s.decompressWith p i x src

def execDecompress (p : Port) (k : Nat) (s : State) : Host.Outcome State Fault Refusal := .next (s.decompress p k)

end Sys2Proof.Machine
end

