-- ==== Sys2Proof/Machine/Floor.lean ====
section
/-! DEFINITION. Changing the floor while partitions run (03 R87 to R91). -/

namespace Sys2Proof.Machine

/-- Class of a port's change (R87, Table 3.6): the most severe of its changed fields. -/
def floorClassOf (old new : Option Place) : FloorClass :=
  match old, new with
  | none, none => .none
  | some _, none | none, some _ => .scrub
  | some a, some b =>
    if scrubsPlace (some a) (some b) then .scrub
    else if a.admission != b.admission || a.flows != b.flows || a.firnRows != b.firnRows then .budget
    else if shapeOf (some a) != shapeOf (some b) then .shape
    else if a != b then .live
    else .none

/-- Some partition is APPLYING (02 R63). -/
def State.applying (s : State) : Bool :=
  s.parts.toList.any fun x => x.pstate == .applying || x.op.any (·.kind == .apply)

/-- Steps 1 and 2 of Table 3.7 for one port: a partition that is to be scrubbed or rechecked drains; a drain under way goes
on. A record that first appears is of class Scrub like one that goes (Table 3.6). -/
def State.floorDrain (s : State) (p : Port) (c : FloorClass) (abort : Bool) : State :=
  let op (k : OpKind) : PartOp :=
    { kind := k, phase := .draining, abortInFlight := abort, image := none, asker := .nobody, acks := [], bumped := false }
  match c with
  | .scrub =>
    if s.parts[p].op.isSome then s.startScrub p false .nobody
    else s.startOp p (op .scrub)
  | .budget => if s.parts[p].op.isSome then s else s.startOp p (op .budget)
  | _ => s

/-- FLOOR_APPLY (R63, R87, R88): once no partition is APPLYING. -/
def State.floorApply (s : State) : State :=
  match s.floorChange with
  | none => s
  | some f =>
    if f.started || s.applying then s
    else
      let cs := Vector.ofFn fun (p : Port) => floorClassOf s.parts[p].place f.image.places[p]
      (List.finRange 6).foldl (fun a p => a.floorDrain p cs[p] f.commit.abortInFlight)
        { s with floorChange := some { f with classes := cs, started := true } }

def execFloorApply (s : State) : Host.Outcome State Fault Refusal := .next s.floorApply

/-- The drains and scrubs of a floor change have ended: nothing is under way on its ports but finished Budget drains. -/
def State.floorDrained (s : State) (f : FloorChange) : Bool :=
  f.started && (List.finRange 6).all fun p =>
    match f.classes[p] with
    | .scrub => s.parts[p].op.isNone
    | .budget => s.parts[p].op.all fun o => o.kind == .budget && o.phase == .done
    | _ => true

/-- The recheck of a Budget change (Table 3.6): the image goes on, or is unloaded with sub-code 0x10, which IMG_ERROR shows
(Table 24.2); IMAGE_STATE says which (Table 3.7 step 4). -/
def State.budgetRecheck (s : State) (p : Port) : State :=
  let s1 := s.updPart p ({ · with op := none })
  match s.parts[p].place, s.parts[p].image with
  | some r, some im =>
    match reported 0x10 (budgetViols r (sections im.raw)) with
    | some f => (s1.setImgError (.port p) f).unloadNow p 0x10
    | none => s1.postImageState p 0
  | _, _ => s1.postImageState p 0

/-- IMAGE_STATE of the partitions whose state the new records changed: those present or absent for the first time (R77,
R87). -/
def State.postPresence (s t : State) : State :=
  ((List.finRange 6).filter fun p => s.parts[p].pstate != t.parts[p].pstate).foldl (fun a p => a.postImageState p 0) t

/-- FLOOR_WRITE_DONE (R88 steps 3 and 4): records, keys and owners are written, firn halves of a changed grant become invalid,
Budget partitions are rechecked, the events are posted and the floor owner's completion last. -/
def State.floorWriteDone (s : State) : State :=
  match s.floorChange with
  | none => s
  | some f =>
    if !s.floorDrained f then s
    else
      let rows (x : Option Place) : Nat := x.elim 0 (·.firnRows)
      let changed := (List.finRange 6).filter fun p => rows s.parts[p].place != rows f.image.places[p]
      let budget := (List.finRange 6).filter fun p => f.classes[p] == .budget
      let s1 := changed.foldl (fun a p => a.invalidateFirn p) (s.postPresence (s.writePlaces f.image))
      let s2 := budget.foldl (fun a p => a.budgetRecheck p) s1
      let s3 := s2.postEvent .imageState ⟨.fabric, 0⟩ 0 [] none
      ({ s3 with floorChange := none }).answerVersion f.commit.asker f.image.version

def execFloorWriteDone (s : State) : Host.Outcome State Fault Refusal := .next s.floorWriteDone

end Sys2Proof.Machine
end

