-- ==== Sys2Proof/Machine/Frame.lean ====
section
/-! DEFINITION. INGEST_FRAME: the frame header, the warp, the seeded augmentation (11 R252 to R265). -/

namespace Sys2Proof.Machine

/-! ## The frame header (R254) -/

/-- A plane of a frame: number, width, height and bytes per pixel. -/
structure Plane where
  no : Nat
  w : Nat
  h : Nat
  bpp : Nat
  deriving DecidableEq, Repr

/-- The planes of a pixel format for a size (Table 11.4). -/
def planesOf (fmt w h : Nat) : List Plane :=
  match fmt with
  | 1 => [⟨0, w, h, 1⟩]
  | 2 => [⟨0, w, h, 3⟩]
  | _ => [⟨0, w, h, 1⟩, ⟨1, w / 2, h / 2, 1⟩, ⟨2, w / 2, h / 2, 1⟩]

def planeOff (b : List Byte) (n : Nat) : Nat := field b (24 + 8 * n) 4
def planeStride (b : List Byte) (n : Nat) : Nat := field b (28 + 8 * n) 4

/-- Bytes from a plane's first to its last pixel. -/
def Plane.extent (x : Plane) (stride : Nat) : Nat := (x.h - 1) * stride + x.w * x.bpp

/-- The header fields that break Tables 11.3 and 11.4, by offset; an odd output size stands at PIXFMT. -/
def headerFaults (b : List Byte) (m : WarpMesh) : List Nat :=
  let fmt := field b 6 1
  let w := field b 8 2
  let h := field b 10 2
  let odd := fmt = 3
  at? 0 (field b 0 4 != 0x4B46524D) ++ at? 4 (field b 4 2 != 1) ++
  at? 6 (fmt = 0 || 3 < fmt || (odd && (m.outW % 2 = 1 || m.outH % 2 = 1))) ++ at? 7 (field b 7 1 != 0) ++
  at? 8 (w = 0 || 8192 < w || (odd && w % 2 = 1)) ++ at? 10 (h = 0 || 8192 < h || (odd && h % 2 = 1)) ++
  at? 12 (field b 12 4 != 0) ++
  (List.range 3).flatMap fun n =>
    match (planesOf fmt w h).find? (·.no == n) with
    | some x =>
      at? (24 + 8 * n) (planeOff b n < 64 || planeOff b n % 64 != 0) ++
      at? (28 + 8 * n) (planeStride b n % 64 != 0 || planeStride b n < x.w * x.bpp)
    | none => at? (24 + 8 * n) (planeOff b n != 0) ++ at? (28 + 8 * n) (planeStride b n != 0)

/-- Where a frame breaks R254: a header field, or the offset of a plane that passes SRC_LENGTH. -/
def frameFault (b : List Byte) (m : WarpMesh) (len : Nat) : Option Nat :=
  match (headerFaults b m).min? with
  | some o => some o
  | none =>
    (((planesOf (field b 6 1) (field b 8 2) (field b 10 2)).filter fun x =>
      len < planeOff b x.no + x.extent (planeStride b x.no)).map fun x => planeOff b x.no).min?

/-! ## FP64 (R264) -/

def dadd (a b : Nat) : Nat := fp64.out rne (Fl.add 0 (fp64.decode a) (fp64.decode b))
def dsub (a b : Nat) : Nat := fp64.out rne (Fl.add 0 (fp64.decode a) (fp64.decode b).neg)
def dmul (a b : Nat) : Nat := fp64.out rne (Fl.mul (fp64.decode a) (fp64.decode b))
def ddiv (a b : Nat) : Nat := fp64.div rne (fp64.decode a) (fp64.decode b)
def dnat (n : Nat) : Nat := fp64.out rne (.fin false n 0)

/-- A value below zero. -/
def Fl.below : Fl → Bool
  | .inf neg => neg
  | .fin neg m _ => neg && m != 0
  | .nan => false

/-- clamp(a, 0, hi). -/
def dclamp (a hi : Nat) : Nat :=
  if (fp64.decode a).below then 0 else if (fp64.decode (dsub hi a)).below then hi else a

/-- floor of a value at least 0. -/
def Fl.floorNat : Fl → Nat
  | .fin _ m e => (ratio m e).1 / (ratio m e).2
  | _ => 0

/-! ## Augmentation (R263, R264) -/

/-- A point: x and y. -/
abbrev Pt := Nat × Nat

/-- The eight coefficients of the perspective map. -/
structure Homography where
  a : Nat
  b : Nat
  c : Nat
  d : Nat
  e : Nat
  f : Nat
  g : Nat
  h : Nat
  deriving DecidableEq, Repr

/-- The map of the unit square onto four target corners (R264). -/
def homography (t0 t1 t2 t3 : Pt) : Homography :=
  let sx := dsub (dadd (dsub t0.1 t1.1) t2.1) t3.1
  let sy := dsub (dadd (dsub t0.2 t1.2) t2.2) t3.2
  let dx1 := dsub t1.1 t2.1
  let dx2 := dsub t3.1 t2.1
  let dy1 := dsub t1.2 t2.2
  let dy2 := dsub t3.2 t2.2
  let den := dsub (dmul dx1 dy2) (dmul dx2 dy1)
  let g := ddiv (dsub (dmul sx dy2) (dmul dx2 sy)) den
  let h := ddiv (dsub (dmul dx1 sy) (dmul sx dy1)) den
  { a := dadd (dsub t1.1 t0.1) (dmul g t1.1), b := dadd (dsub t3.1 t0.1) (dmul h t3.1), c := t0.1
    d := dadd (dsub t1.2 t0.2) (dmul g t1.2), e := dadd (dsub t3.2 t0.2) (dmul h t3.2), f := t0.2, g := g, h := h }

/-- A stored control point. -/
def WarpMesh.at (m : WarpMesh) (i j : Nat) : BitVec 32 × BitVec 32 := (m.points[j * m.cols + i]?).getD (0, 0)

/-- Draw d of the augmentation as word0 >> 8 (R238, R263). -/
def augDraw (ctx : RimeCtx) (sample d : Nat) : Nat := (ctx.rime 0x0002 sample 0 d).w0.toNat / 256

/-- The displacement of a jitter draw: JITTER × (2u − 1), exact in FP64. -/
def displacement (jitter v : Nat) : Nat :=
  let u : Int := 2 * v - 2 ^ 24
  fp64.out rne (Fl.mul (fp32.decode jitter) (.fin (u < 0) u.natAbs (-24)))

/-- The sample flips (R263). -/
def Item.flips (i : Item) (ctx : RimeCtx) : Bool :=
  bitsOf (i.fld 60 1) 1 1 = 1 && 2 ^ 23 ≤ augDraw ctx (i.fld 48 6) 8

/-- Target corner k (R264). -/
def Item.corner (i : Item) (ctx : RimeCtx) (m : WarpMesh) (k : Nat) : Pt :=
  let n := if i.flips ctx then (match k with | 0 => 1 | 1 => 0 | 2 => 3 | _ => 2) else k
  let x := if n = 1 || n = 2 then dnat (m.outW - 1) else 0
  let y := if n = 2 || n = 3 then dnat (m.outH - 1) else 0
  if i.fld 60 1 % 2 = 1 then
    (dadd x (displacement (i.fld 44 4) (augDraw ctx (i.fld 48 6) (2 * k))),
     dadd y (displacement (i.fld 44 4) (augDraw ctx (i.fld 48 6) (2 * k + 1))))
  else (x, y)

/-- A grid coordinate in units of the output: U or V of control point i of n. -/
def gridUnit (i n out : Nat) : Nat := if out = 1 then 0 else ddiv (ddiv (dnat (i * (out - 1))) (dnat (n - 1))) (dnat (out - 1))

/-- Cell and fraction of a mapped coordinate. -/
def gridCell (q n out : Nat) : Nat × Nat :=
  let mx := if out = 1 then 0 else ddiv (dmul q (dnat (n - 1))) (dnat (out - 1))
  let c := min (fp64.decode mx).floorNat (n - 2)
  (c, dsub mx (dnat c))

/-- FP32 widened to FP64. -/
def toDouble (v : Nat) : Nat := fp64.out rne (fp32.decode v)

/-- Bilinear blend in FP64, along x first (R259, R264). -/
def dblend (p00 p10 p01 p11 fx fy : Nat) : Nat :=
  let top := dadd p00 (dmul fx (dsub p10 p00))
  let bot := dadd p01 (dmul fx (dsub p11 p01))
  dadd top (dmul fy (dsub bot top))

/-- One point of the augmented mesh (R264). -/
def WarpMesh.augmented (m : WarpMesh) (z : Homography) (i j : Nat) : BitVec 32 × BitVec 32 :=
  let u := gridUnit i m.cols m.outW
  let v := gridUnit j m.rows m.outH
  let w := dadd (dadd (dmul z.g u) (dmul z.h v)) (dnat 1)
  let qx := dclamp (ddiv (dadd (dadd (dmul z.a u) (dmul z.b v)) z.c) w) (dnat (m.outW - 1))
  let qy := dclamp (ddiv (dadd (dadd (dmul z.d u) (dmul z.e v)) z.f) w) (dnat (m.outH - 1))
  let (ci, fx) := gridCell qx m.cols m.outW
  let (cj, fy) := gridCell qy m.rows m.outH
  let blend (f : BitVec 32 × BitVec 32 → BitVec 32) : BitVec 32 :=
    let p (a b : Nat) : Nat := toDouble (f (m.at a b)).toNat
    BitVec.ofNat 32 (fp32.out rne (fp64.decode
      (dblend (p ci cj) (p (ci + 1) cj) (p ci (cj + 1)) (p (ci + 1) (cj + 1)) fx fy)))
  (blend (·.1), blend (·.2))

/-- The mesh an item warps through: the stored one, or the augmented one when JITTER_EN or HFLIP_EN is set (R259, R264). -/
def Item.meshOf (i : Item) (ctx : RimeCtx) (m : WarpMesh) : WarpMesh :=
  if i.fld 60 1 % 4 = 0 then m
  else
    let z := homography (i.corner ctx m 0) (i.corner ctx m 1) (i.corner ctx m 2) (i.corner ctx m 3)
    { m with points := (List.range m.rows).flatMap fun j => (List.range m.cols).map fun a => m.augmented z a j }

/-! ## Source coordinates (R259) -/

/-- cell(x, out, n): the cell and the FP32 fraction. -/
def meshCell (x out n : Nat) : Nat × Nat :=
  if out = 1 then (0, 0)
  else
    let a := x * (n - 1)
    let c := a / (out - 1)
    if c = n - 1 then (n - 2, fOne) else (c, fp32.round 0 false 0 false (a % (out - 1)) (out - 1))

/-- Bilinear blend in FP32, along x first. -/
def fblend (p00 p10 p01 p11 fx fy : Nat) : Nat :=
  let top := fadd p00 (fmul fx (fsub p10 p00))
  let bot := fadd p01 (fmul fx (fsub p11 p01))
  fadd top (fmul fy (fsub bot top))

/-- The source coordinate of output pixel (x, y) of plane 0 (R259). -/
def WarpMesh.source (m : WarpMesh) (x y : Nat) : Pt :=
  let (ci, fx) := meshCell x m.outW m.cols
  let (cj, fy) := meshCell y m.outH m.rows
  let q (f : BitVec 32 × BitVec 32 → BitVec 32) : Nat :=
    let p (a b : Nat) : Nat := (f (m.at a b)).toNat
    fblend (p ci cj) (p (ci + 1) cj) (p ci (cj + 1)) (p (ci + 1) (cj + 1)) fx fy
  (q (·.1), q (·.2))

/-! ## Sampling (R260, R261) -/

/-- A plane of the source as bytes, with its stride. -/
structure SrcPlane where
  plane : Plane
  stride : Nat
  bytes : List Byte
  deriving DecidableEq, Repr

/-- Channel c of a tap, FILL outside the plane. -/
def SrcPlane.tap (s : SrcPlane) (fill : Nat) (c : Nat) (x y : Int) : Nat :=
  if 0 ≤ x && x < s.plane.w && 0 ≤ y && y < s.plane.h then
    ((s.bytes[y.toNat * s.stride + x.toNat * s.plane.bpp + c]?).getD 0).toNat
  else fill

/-- The integer below or at a finite value. -/
def Fl.floorInt : Fl → Int
  | .fin neg m e =>
    let (n, d) := ratio m e
    if neg then -((n + d - 1) / d : Nat) else (n / d : Nat)
  | _ => 0

/-- The integer nearest to a value, ties to even. -/
def Fl.rint : Fl → Int
  | .fin neg m e => roundInt rne neg m e
  | _ => 0

/-- A coordinate is finite. -/
def finite32 (v : Nat) : Bool := v % 2 ^ 31 < 0x7F800000

/-- A value as an output byte: rint, ties to even, clamped (R260). -/
def outByte (v : Nat) : Nat := (clampInt (fp32.decode v).rint 0 255).toNat

/-- FP32 of an integer. -/
def fint (v : Int) : Nat := fp32.out rne (.fin (v < 0) v.natAbs 0)

/-- Channel c of a plane at a source coordinate (R260); where a coordinate is not finite, every tap is FILL. -/
def SrcPlane.sample (s : SrcPlane) (filter fill c : Nat) (at' : Pt) : Nat :=
  let sx := at'.1
  let sy := at'.2
  if !(finite32 sx && finite32 sy) then fill
  else if filter = 0 then outByte (fint (s.tap fill c (fp32.decode sx).rint (fp32.decode sy).rint))
  else
    let x0 := (fp32.decode sx).floorInt
    let y0 := (fp32.decode sy).floorInt
    let ax := fsub sx (fint x0)
    let ay := fsub sy (fint y0)
    let v (dx dy : Int) : Nat := fint (s.tap fill c (x0 + dx) (y0 + dy))
    outByte (fblend (v 0 0) (v 1 0) (v 0 1) (v 1 1) ax ay)

/-- FILL byte of channel c of a plane: 0 for Y or R, 1 for G or U, 2 for B or V. -/
def fillByte (m : WarpMesh) (plane c : Nat) : Nat := bitsOf m.fill.toNat (8 * (plane + c)) 8

/-- OS_p (R262). -/
def Plane.outStride (x : Plane) : Nat := roundUp (x.w * x.bpp) 64

/-- Z_p (R262). -/
def Plane.outSize (x : Plane) : Nat := roundUp (x.outStride * x.h) 1024

/-- The source coordinate of a pixel of an output plane: chroma stands at the top-left luma pixel of its pair (R261). -/
def WarpMesh.planeSource (m : WarpMesh) (out : Plane) (x y : Nat) : Pt :=
  if out.no = 0 then m.source x y
  else
    let q := m.source (2 * x) (2 * y)
    (fmul q.1 0x3F000000, fmul q.2 0x3F000000)

/-- The bytes of an output plane (R261, R262). -/
def WarpMesh.outPlane (m : WarpMesh) (out : Plane) (src : SrcPlane) : List Byte :=
  let row (y : Nat) : List Byte :=
    padTo out.outStride ((List.range out.w).flatMap fun x => (List.range out.bpp).map fun c =>
      BitVec.ofNat 8 (src.sample m.filter (fillByte m out.no c) c (m.planeSource out x y)))
  padTo out.outSize ((List.range out.h).flatMap row)

/-! ## What is fetched (R266) -/

/-- The pixels from the least to the greatest of some coordinates, with a margin of one, as far as an axis of n pixels goes:
the first and how many. -/
def fetchSpan (n : Nat) (cs : List Int) : Nat × Nat :=
  match cs.min?, cs.max? with
  | some a, some b =>
    let lo := (max 0 (a - 1)).toNat
    let hi := min n (b + 2).toNat
    (lo, hi - lo)
  | _, _ => (0, 0)

/-- The byte ranges of a source plane that an output tile of 64 by 64 pixels fetches: a row of its rectangle each. A coordinate
covers the pixels at and above it. -/
def WarpMesh.fetchTile (m : WarpMesh) (out ins : Plane) (stride tx ty : Nat) : List (Nat × Nat) :=
  let pts := (List.range (min 64 (out.h - 64 * ty))).flatMap fun y => (List.range (min 64 (out.w - 64 * tx))).filterMap fun x =>
    let q := m.planeSource out (64 * tx + x) (64 * ty + y)
    if finite32 q.1 && finite32 q.2 then some ((fp32.decode q.1).floorInt, (fp32.decode q.2).floorInt) else none
  let (x0, w) := fetchSpan ins.w (pts.flatMap fun q => [q.1, q.1 + 1])
  let (y0, h) := fetchSpan ins.h (pts.flatMap fun q => [q.2, q.2 + 1])
  if w = 0 then [] else (List.range h).map fun k => ((y0 + k) * stride + x0 * ins.bpp, w * ins.bpp)

/-- The byte ranges of a source plane that a warp fetches, tile after tile. -/
def WarpMesh.fetches (m : WarpMesh) (out ins : Plane) (stride : Nat) : List (Nat × Nat) :=
  (List.range (ceilDiv out.h 64)).flatMap fun ty => (List.range (ceilDiv out.w 64)).flatMap fun tx =>
    m.fetchTile out ins stride tx ty

/-! ## The command -/

/-- Write planes one after another. -/
def State.writePlanes (p : Port) : Place3 → List (List Byte) → State → State
  | _, [], s => s
  | x, bs :: r, s => State.writePlanes p (x.plus bs.length) r (s.writePlace p x bs)

/-- The end of the engine step: the entry pass follows on the destination tile of a slab destination (R262, R265). -/
def State.frameDone (s : State) (p : Port) (i : Item) (flipped : Bool) (o : Nat) : State :=
  let r1 := flipped.toNat + 2 * (i.frame.any (·.untimed)).toNat
  let t := tix i.dstTile
  let s1 := s.finishService p i.key .ok i.r0.toNat r1
  if i.dstSpace = 1 && (s.entryPass p t.val i.pipeline).isSome then
    (s1.updItem p i.key ({ · with stepsLeft := 1 })).queuePass t
      { port := p, key := i.key, pipeline := i.pipeline
        args := { b := o / 1024, d := i.dstOff, s0 := i.fld 48 6, e0 := 0 }, window := none, frame := i.frame }
  else s1

/-- Warp a frame whose header holds (R259 to R264). -/
def State.warpFrame (s : State) (p : Port) (i : Item) (m : WarpMesh) (hd : List Byte) : State :=
  let fmt := field hd 6 1
  let src := place3 (bitsOf (i.fld 55 1) 0 2) (i.fld 16 8)
  let ins := planesOf fmt (field hd 8 2) (field hd 10 2)
  let outs := planesOf fmt m.outW m.outH
  let o := (outs.map Plane.outSize).sum
  let where' (x : Plane) : Place3 := src.plus (planeOff hd x.no)
  let ctx := i.ctx.getD (s.ctxOf p i.pipeline)
  let mesh := i.meshOf ctx m
  let fetched := (outs.zip ins).flatMap fun t =>
    (mesh.fetches t.1 t.2 (planeStride hd t.2.no)).map fun r => ((where' t.2).plus r.1, r.2)
  if !s.inBounds p i.dstPlace o then s.finishService p i.key .bounds 0 0
  else
    match fetched.find? fun r => s.placeBad p r.1 r.2 with
    | some r => (s.reportUe p r.1).finishService p i.key .uncorrectable 0 0
    | none =>
      let planes := (outs.zip ins).map fun t =>
        mesh.outPlane t.1 { plane := t.2, stride := planeStride hd t.2.no
                            bytes := s.placeBytes p i (where' t.2) (t.2.extent (planeStride hd t.2.no)) }
      let s1 := State.writePlanes p i.dstPlace planes s
      let samples := (outs.map fun x => x.w * x.h).sum
      (s1.countP p .warpSamples samples).frameDone p i (i.flips ctx) o

/-- INGEST_FRAME (R252 to R265). It waits while the destination tile's dispatch queue is full (15 R357). -/
def State.ingestFrame (s : State) (p : Port) (k : Nat) : State :=
  match s.servingNow p k opIngestFrame with
  | none => s
  | some i =>
    match s.warpOf p (i.fld 54 1) with
    | none => s
    | some m =>
      let src := place3 (bitsOf (i.fld 55 1) 0 2) (i.fld 16 8)
      let len := i.fld 56 4
      if !s.inBounds p src len || !s.inBounds p i.dstPlace 1 then s.finishService p k .bounds 0 0
      else if i.dstSpace = 1 && !s.tileRoom (tix i.dstTile) then s
      else
        s.reach [src, i.dstPlace] fun _ =>
          match s.readPlace p i src 64 with
          | .ue => (s.reportUe p src).finishService p k .uncorrectable 0 0
          | .bytes hd =>
            match frameFault hd m len with
            | some off => s.finishService p k .malformed off 0
            | none => s.warpFrame p i m hd

def execIngestFrame (p : Port) (k : Nat) (s : State) : Host.Outcome State Fault Refusal := .next (s.ingestFrame p k)

end Sys2Proof.Machine
end

