-- ==== Sys2Proof/Machine/Values.lean ====
section
/-! DEFINITION. What record ingest decodes: the tree of a plan's instructions, values and their conversion to columns (06 R152,
R153, Tables 6.5 and 6.6). -/

namespace Sys2Proof.Machine

/-! ## The plan as a tree -/

/-- A plan instruction after the COLDEFs with its index; LIST, UNION and NEST hold what stands between them and their end. A
union's body holds its BRANCH instructions as leaves. -/
inductive Node where
  | leaf (k : Nat) (i : PInstr)
  | group (k : Nat) (i : PInstr) (body : List Node)

/-- Read nodes up to the end of the construct they stand in. -/
def parseNodes : Nat → List (Nat × PInstr) → List Node × List (Nat × PInstr)
  | 0, is => ([], is)
  | _, [] => ([], [])
  | fuel + 1, (k, i) :: r =>
    if i.op = 4 || i.op = 7 || i.op = 9 then ([], (k, i) :: r)
    else if i.op = 3 || i.op = 5 || i.op = 8 then
      let (body, r1) := parseNodes fuel r
      let (ns, r2) := parseNodes fuel (r1.drop 1)
      (.group k i body :: ns, r2)
    else
      let (ns, r1) := parseNodes fuel r
      (.leaf k i :: ns, r1)

/-- The nodes of a plan. -/
def Plan.nodes (p : Plan) : List Node :=
  let is := p.steps.zipIdx.map fun t => (t.2, t.1)
  (parseNodes (is.length + 1) (is.filter fun t => t.2.op != 1)).1

/-- A leaf is a BRANCH. -/
def Node.isBranch : Node → Bool
  | .leaf _ i => i.op == 6
  | _ => false

/-- Branch n of a union's body. -/
def branchOf (n : Nat) (body : List Node) : List Node :=
  let starts : Node → Bool
    | .leaf _ i => i.op == 6 && i.arg == n
    | _ => false
  ((body.dropWhile fun x => !starts x).drop 1).takeWhile fun x => !x.isBranch

/-! ## Values -/

/-- A value read from the input: an integer, a floating value, a decimal (sign, digits, power of ten), bytes. -/
inductive Val where
  | int (v : Int)
  | flt (x : Fl)
  | dec (neg : Bool) (m : Nat) (e : Int)
  | bytes (bs : List Byte)
  deriving DecidableEq, Repr

/-- SHASH (R153). -/
def shash (bs : List Byte) (seed : BitVec 64) : BitVec 64 :=
  let h := (List.range (ceilDiv bs.length 8)).foldl (fun h i => khash (BitVec.ofNat 64 (field bs (8 * i) 8) ^^^ h) seed) seed
  khash (h ^^^ BitVec.ofNat 64 bs.length) seed

/-- Reject reasons (Table 6.7). -/
def rejRange : Nat := 1
def rejEnum : Nat := 2
def rejBranch : Nat := 3
def rejVarint : Nat := 4
def rejTruncated : Nat := 5
def rejWire : Nat := 6
def rejGroup : Nat := 7
def rejQuote : Nat := 8
def rejCount : Nat := 9
def rejText : Nat := 10
def rejLong : Nat := 11
def rejRest : Nat := 12
def rejOpen : Nat := 13

/-- A rejected record: the reason and the instruction at fault, 0xFFFF for none. -/
structure Rej where
  reason : Nat
  ix : Nat
  deriving DecidableEq, Repr

/-- m × 10^e as a fraction. -/
def tenRatio (m : Nat) (e : Int) : Nat × Nat := if 0 ≤ e then (m * 10 ^ e.toNat, 1) else (m, 10 ^ (-e).toNat)

/-- An integer into a column: exact in an integer format, two's complement in K64, RNE in a floating format. -/
def intColumn (f : Nat) (v : Int) : Except Nat Nat :=
  if f = 11 then .ok (ofSigned 64 v)
  else if isFloatFmt f then .ok ((ffmt f).ofInt rne v)
  else if intMin f ≤ v && v ≤ intMax f then .ok (ofSigned (fmtBits f) v) else .error rejRange

/-- A floating value into a column: RNE in a floating format; RTZ and clamping in an integer format (04 R114). -/
def floatColumn (f : Nat) (x : Fl) : Nat :=
  if isFloatFmt f then (ffmt f).out rne x
  else ofSigned (fmtBits f) (floatToInt { rnd := 1, sat := false, draw := 0 } (intMin f) (intMax f) x)

/-- A decimal into a column, rounded once. -/
def decColumn (f : Nat) (neg : Bool) (m : Nat) (e : Int) : Nat :=
  let q := tenRatio m e
  if isFloatFmt f then (ffmt f).round 0 false 0 neg q.1 q.2
  else
    let t : Int := (q.1 / q.2 : Nat)
    ofSigned (fmtBits f) (clampInt (if neg then -t else t) (intMin f) (intMax f))

/-- Bytes into a column under a transform. -/
def bytesColumn (t : Nat) (seed : BitVec 64) (bs : List Byte) : Nat :=
  match t with
  | 0 => (shash bs seed).toNat
  | 1 => field bs 0 8
  | _ => bs.length % 2 ^ 32

/-- Range of a source type of integers. -/
def typeRange (ty : Nat) : Int × Int :=
  match ty with
  | 0x01 => (0, 1)
  | 0x02 | 0x06 | 0x0A | 0x12 => (-(2 ^ 31), 2 ^ 31 - 1)
  | 0x04 | 0x08 => (0, 2 ^ 32 - 1)
  | 0x05 | 0x09 => (0, 2 ^ 64 - 1)
  | _ => (-(2 ^ 63), 2 ^ 63 - 1)

/-- An integer of a source type into a column of a format. -/
def typedInt (ty f : Nat) (symbols : Nat) (v : Int) : Except Nat Nat :=
  if ty = 0x10 then (if v < 0 || (symbols : Int) ≤ v then .error rejEnum else intColumn f v)
  else if !((typeRange ty).1 ≤ v && v ≤ (typeRange ty).2) then .error rejRange
  else if ty = 0x13 then
    (if -(2 ^ 63) ≤ v * 1000 && v * 1000 < 2 ^ 63 then intColumn f (v * 1000) else .error rejRange)
  else intColumn f v

/-- A decimal's unscaled value into a column: the value itself in K64, else scaled by 10^−ARG. -/
def decimalColumn (f scale : Nat) (v : Int) : Except Nat Nat :=
  if f = 11 then (if -(2 ^ 63) ≤ v && v < 2 ^ 63 then .ok (ofSigned 64 v) else .error rejRange)
  else .ok (decColumn f (v < 0) v.natAbs (-(scale : Int)))

/-- Big-endian two's complement. -/
def beSigned (bs : List Byte) : Int := if bs.isEmpty then 0 else toSigned (8 * bs.length) (beNat bs)

/-- What a FIELD puts into a column of a format (Table 6.6). -/
def PInstr.column (i : PInstr) (f : Nat) (seed : BitVec 64) (symbols : Nat) (v : Val) : Except Nat Nat :=
  match v with
  | .int n => if i.ty = 0x15 then decimalColumn f i.arg n else typedInt i.ty f symbols n
  | .flt x => .ok (floatColumn f x)
  | .dec neg m e => .ok (decColumn f neg m e)
  | .bytes bs =>
    if i.ty = 0x15 then (if 16 < bs.length then .error rejRange else decimalColumn f i.arg (beSigned bs))
    else .ok (bytesColumn i.transform seed bs)

/-- The lane of a record so far: column and pattern, newest first. -/
abbrev Lane := List (Nat × Nat)

/-- Where the values of a list's element go: everywhere but in a list, to the columns of element j of a FIRST, nowhere. -/
inductive Slot where
  | plain
  | elem (j : Nat)
  | nowhere
  deriving DecidableEq, Repr

/-- The slot of element j of a list that stands in a slot: what stands in a list that is skipped or counted goes nowhere. -/
def PInstr.elemSlot (i : PInstr) (e : Slot) (j : Nat) : Slot :=
  if i.arg = 2 && j < i.arg2 && e != .nowhere then .elem j else .nowhere

/-- The column that an instruction writes in a slot. -/
def PInstr.colIn (i : PInstr) (e : Slot) : Option Nat :=
  if i.col = noColumn then none
  else
    match e with
    | .plain => some i.col
    | .elem j => some (i.col + j)
    | .nowhere => none

/-- Varint: the value mod 2^64 and the rest; a reason where it is longer than the limit or does not end. -/
def varintFrom : Nat → Nat → Nat → List Byte → Except Nat (Nat × List Byte)
  | 0, _, _, _ => .error rejVarint
  | _, _, _, [] => .error rejTruncated
  | fuel + 1, shift, acc, b :: r =>
    let v := acc + b.toNat % 128 * 2 ^ shift
    if b.toNat < 128 then .ok (v % 2 ^ 64, r) else varintFrom fuel (shift + 7) v r

def varint (bs : List Byte) : Except Nat (Nat × List Byte) := varintFrom 10 0 0 bs

/-- The integer of a zigzag code. -/
def unzigzag (n : Nat) : Int := if n % 2 = 0 then (n / 2 : Nat) else -((n / 2 + 1 : Nat) : Int)

/-- Take n bytes. -/
def takeBytes (n : Nat) (bs : List Byte) : Except Nat (List Byte × List Byte) :=
  let t := bs.take n
  if t.length < n then .error rejTruncated else .ok (t, bs.drop n)

/-- What a decode of one record needs beside the plan: the seed and the symbol counts of ENUM instructions by index. -/
structure DecodeEnv where
  plan : Plan
  nodes : List Node
  symbols : List (Nat × Nat)

/-- The symbol count of the ENUM at an index. -/
def DecodeEnv.count (c : DecodeEnv) (k : Nat) : Nat := ((c.symbols.find? (·.1 == k)).map (·.2)).getD 0

/-- The value of the FIELD at an index put into the lane. -/
def DecodeEnv.put (c : DecodeEnv) (k : Nat) (i : PInstr) (e : Slot) (v : Val) (out : Lane) : Except Rej Lane :=
  match i.colIn e with
  | none => .ok out
  | some col =>
    match i.column (c.plan.colFmt col) c.plan.hashSeed (c.count k) v with
    | .ok pat => .ok ((col, pat) :: out)
    | .error r => .error { reason := r, ix := k }

/-- A count or branch index put into the lane. -/
def putNat (i : PInstr) (e : Slot) (v : Nat) (out : Lane) : Lane :=
  match i.colIn e with
  | none => out
  | some col => (col, v) :: out

/-- Instruction index of a fault that no instruction has. -/
def noInstr : Nat := 0xFFFF

end Sys2Proof.Machine
end

