-- ==== Sys2Proof/Machine/Avro.lean ====
section
/-! DEFINITION. Avro object container files (06 R154, R162; Apache Avro 1.11): the file's schema and its fingerprint, the header,
the records of a block. -/

namespace Sys2Proof.Machine

/-- The bytes of an ASCII text. -/
def ascii (s : String) : List Byte := s.toList.map fun c => BitVec.ofNat 8 c.toNat

/-! ## JSON -/

/-- A JSON text; numbers as they are written. -/
inductive Json where
  | lit (bs : List Byte)
  | str (bs : List Byte)
  | arr (js : List Json)
  | obj (kvs : List (List Byte × Json))

/-- White space. -/
def isSpace (b : Byte) : Bool := b == 0x20 || b == 0x09 || b == 0x0A || b == 0x0D

/-- A hexadecimal digit. -/
def hexVal (b : Byte) : Option Nat :=
  let v := b.toNat
  if 48 ≤ v && v ≤ 57 then some (v - 48) else if 65 ≤ v && v ≤ 70 then some (v - 55)
  else if 97 ≤ v && v ≤ 102 then some (v - 87) else none

/-- Four hexadecimal digits. -/
def hexQuad : List Byte → Option (Nat × List Byte)
  | a :: b :: c :: d :: r => do
    let a ← hexVal a
    let b ← hexVal b
    let c ← hexVal c
    let d ← hexVal d
    some (a * 4096 + b * 256 + c * 16 + d, r)
  | _ => none

/-- UTF-8 of a code point. -/
def utf8 (v : Nat) : List Byte :=
  let t (n : Nat) : Byte := BitVec.ofNat 8 (128 + v / 64 ^ n % 64)
  if v < 128 then [BitVec.ofNat 8 v]
  else if v < 2048 then [BitVec.ofNat 8 (192 + v / 64), t 0]
  else if v < 65536 then [BitVec.ofNat 8 (224 + v / 4096), t 1, t 0]
  else [BitVec.ofNat 8 (240 + v / 262144), t 2, t 1, t 0]

/-- The character of a one-letter escape. -/
def escapeOf (b : Byte) : Option Byte :=
  match b.toNat with
  | 0x22 | 0x5C | 0x2F => some b
  | 0x62 => some 8
  | 0x66 => some 12
  | 0x6E => some 10
  | 0x72 => some 13
  | 0x74 => some 9
  | _ => none

/-- The rest of a string, newest byte first so far. -/
def jsonString : Nat → List Byte → List Byte → Option (List Byte × List Byte)
  | 0, _, _ => none
  | _, _, [] => none
  | fuel + 1, acc, b :: r =>
    if b = 0x22 then some (acc.reverse, r)
    else if b != 0x5C then jsonString fuel (b :: acc) r
    else
      match r with
      | [] => none
      | e :: r1 =>
        if e != 0x75 then (escapeOf e).bind fun c => jsonString fuel (c :: acc) r1
        else
          (hexQuad r1).bind fun (u, r2) =>
            let pair : Option (Nat × List Byte) :=
              if 0xD800 ≤ u && u < 0xDC00 && r2.take 2 == [0x5C, 0x75] then
                (hexQuad (r2.drop 2)).bind fun (l, r3) =>
                  if 0xDC00 ≤ l && l < 0xE000 then some (0x10000 + (u - 0xD800) * 1024 + (l - 0xDC00), r3) else none
              else none
            let (v, r4) := pair.getD (u, r2)
            jsonString fuel ((utf8 v).reverse ++ acc) r4

def skipSpace (bs : List Byte) : List Byte := bs.dropWhile isSpace

/-- A byte that a bare literal may hold. -/
def isLiteral (b : Byte) : Bool :=
  let v := b.toNat
  (48 ≤ v && v ≤ 57) || (97 ≤ v && v ≤ 122) || v == 43 || v == 45 || v == 46 || v == 69

mutual
/-- A value. -/
def jsonValue : Nat → List Byte → Option (Json × List Byte)
  | 0, _ => none
  | fuel + 1, bs =>
    match skipSpace bs with
    | [] => none
    | b :: r =>
      if b = 0x22 then (jsonString (r.length + 1) [] r).map fun t => (.str t.1, t.2)
      else if b = 0x5B then jsonItems fuel [] (skipSpace r)
      else if b = 0x7B then jsonMembers fuel [] (skipSpace r)
      else
        let t := (b :: r).takeWhile isLiteral
        if t.isEmpty then none else some (.lit t, (b :: r).drop t.length)

/-- The rest of an array. -/
def jsonItems : Nat → List Json → List Byte → Option (Json × List Byte)
  | 0, _, _ => none
  | fuel + 1, acc, bs =>
    match bs with
    | [] => none
    | b :: r =>
      if b = 0x5D then (if acc.isEmpty then some (.arr [], r) else none)
      else
        match jsonValue fuel (b :: r) with
        | none => none
        | some (j, r1) =>
          match skipSpace r1 with
          | [] => none
          | c :: r2 =>
            if c = 0x5D then some (.arr (j :: acc).reverse, r2)
            else if c = 0x2C then jsonItems fuel (j :: acc) (skipSpace r2)
            else none

/-- The rest of an object. -/
def jsonMembers : Nat → List (List Byte × Json) → List Byte → Option (Json × List Byte)
  | 0, _, _ => none
  | fuel + 1, acc, bs =>
    match bs with
    | [] => none
    | b :: r =>
      if b = 0x7D then (if acc.isEmpty then some (.obj [], r) else none)
      else if b != 0x22 then none
      else
        match jsonString (r.length + 1) [] r with
        | none => none
        | some (k, r1) =>
          match skipSpace r1 with
          | [] => none
          | c :: r2 =>
            if c != 0x3A then none
            else
              match jsonValue fuel r2 with
              | none => none
              | some (j, r3) =>
                match skipSpace r3 with
                | [] => none
                | e :: r4 =>
                  if e = 0x7D then some (.obj ((k, j) :: acc).reverse, r4)
                  else if e = 0x2C then jsonMembers fuel ((k, j) :: acc) (skipSpace r4)
                  else none
end

/-- A whole text. -/
def parseJson (bs : List Byte) : Option Json :=
  (jsonValue (bs.length + 1) bs).bind fun t => if (skipSpace t.2).isEmpty then some t.1 else none

/-- An attribute of an object. -/
def Json.attr (j : Json) (k : String) : Option Json :=
  match j with
  | .obj kvs => (kvs.find? fun t => t.1 == ascii k).map (·.2)
  | _ => none

def Json.text : Json → Option (List Byte)
  | .str s => some s
  | _ => none

/-! ## Parsing Canonical Form -/

/-- The primitive types. -/
def primitives : List (List Byte) :=
  ["null", "boolean", "int", "long", "float", "double", "bytes", "string"].map ascii

/-- A canonical text with its leaves in order, a symbol count for each enum and none for the others, null left out; and the
named types met so far with their leaves. -/
structure Canon where
  text : List Byte
  leaves : List (Option Nat)
  known : List (List Byte × List (Option Nat))

/-- A quoted string. -/
def quoted (s : List Byte) : List Byte := [0x22] ++ s ++ [0x22]

/-- Texts joined by commas. -/
def commas : List (List Byte) → List Byte
  | [] => []
  | [t] => t
  | t :: ts => t ++ [0x2C] ++ commas ts

/-- A member of a canonical object. -/
def member (k : String) (v : List Byte) : List Byte := quoted (ascii k) ++ [0x3A] ++ v

/-- A canonical object. -/
def object (ms : List (List Byte)) : List Byte := [0x7B] ++ commas ms ++ [0x7D]

/-- A canonical array. -/
def array (ts : List (List Byte)) : List Byte := [0x5B] ++ commas ts ++ [0x5D]

/-- The namespace of a full name. -/
def spaceOf (full : List Byte) : List Byte := ((full.reverse.dropWhile (· != 0x2E)).drop 1).reverse

/-- A name in a namespace. -/
def qualify (ns name : List Byte) : List Byte :=
  if name.contains 0x2E || ns.isEmpty then name else ns ++ [0x2E] ++ name

/-- Digits of an integer. -/
def decimalText (n : Nat) : List Byte := (Nat.toDigits 10 n).map fun c => BitVec.ofNat 8 c.toNat

/-- An integer attribute, quoted or not. -/
def intText (j : Json) : Option (List Byte) :=
  let bs := match j with
    | .str s => s
    | .lit s => s
    | _ => []
  if bs.isEmpty || bs.any (fun b => b.toNat < 48 || 57 < b.toNat) then none
  else some (decimalText (bs.foldl (fun a b => a * 10 + (b.toNat - 48)) 0))

/-- The canonical form of a schema in a namespace; none for a schema that is not one, or that is recursive (R154): `above` are
the named types that it stands in. -/
def canonOf : Nat → List Byte → List (List Byte) → List (List Byte × List (Option Nat)) → Json → Option Canon
  | 0, _, _, _, _ => none
  | fuel + 1, ns, above, known, j =>
    let go := canonOf fuel
    match j with
    | .lit _ => none
    | .str s =>
      if primitives.contains s then
        some { text := quoted s, leaves := if s == ascii "null" then [] else [none], known := known }
      else
        let full := qualify ns s
        if above.contains full then none
        else (known.find? fun t => t.1 == full).map fun t => { text := quoted full, leaves := t.2, known := known }
    | .arr js => do
      let start : List (List Byte) × List (Option Nat) × List (List Byte × List (Option Nat)) := ([], [], known)
      let (ts, ls, kn) ← js.foldlM (fun (ts, ls, kn) b => (go ns above kn b).map fun c => (ts ++ [c.text], ls ++ c.leaves, c.known)) start
      some { text := array ts, leaves := ls, known := kn }
    | .obj _ => do
      let ty ← j.attr "type"
      match ty with
      | .str t =>
        if t == ascii "array" then
          let c ← go ns above known (← j.attr "items")
          some { c with text := object [member "type" (quoted t), member "items" c.text] }
        else if t == ascii "map" then
          let c ← go ns above known (← j.attr "values")
          some { c with text := object [member "type" (quoted t), member "values" c.text], leaves := none :: c.leaves }
        else if t == ascii "record" || t == ascii "enum" || t == ascii "fixed" then
          let name ← (← j.attr "name").text
          let space := ((j.attr "namespace").bind Json.text).getD ns
          let full := qualify space name
          let head := [member "name" (quoted full), member "type" (quoted t)]
          if t == ascii "enum" then
            match ← j.attr "symbols" with
            | .arr ss =>
              let names ← ss.mapM Json.text
              some { text := object (head ++ [member "symbols" (array (names.map quoted))]), leaves := [some names.length]
                     known := (full, [some names.length]) :: known }
            | _ => none
          else if t == ascii "fixed" then
            let size ← intText (← j.attr "size")
            some { text := object (head ++ [member "size" size]), leaves := [none], known := (full, [none]) :: known }
          else
            match ← j.attr "fields" with
            | .arr fs =>
              let start : List (List Byte) × List (Option Nat) × List (List Byte × List (Option Nat)) := ([], [], known)
              let (ts, ls, kn) ← fs.foldlM (fun (ts, ls, kn) f => do
                let fname ← (← f.attr "name").text
                let c ← go (spaceOf full) (full :: above) kn (← f.attr "type")
                some (ts ++ [object [member "name" (quoted fname), member "type" c.text]], ls ++ c.leaves, c.known)) start
              some { text := object (head ++ [member "fields" (array ts)]), leaves := ls, known := (full, ls) :: kn }
            | _ => none
        else go ns above known ty
      | _ => go ns above known ty

/-- The canonical form of a schema's text. -/
def canonical (schema : List Byte) : Option Canon := (parseJson schema).bind (canonOf (schema.length + 1) [] [] [])

/-- CRC-64-AVRO. -/
def crc64Empty : BitVec 64 := 0xC15D213AA4D7A795
def crc64Bit (c : BitVec 64) : BitVec 64 := if c.getLsbD 0 then (c >>> 1) ^^^ crc64Empty else c >>> 1
def crc64Byte (c : BitVec 64) (b : Byte) : BitVec 64 := (List.range 8).foldl (fun x _ => crc64Bit x) (c ^^^ b.setWidth 64)
def crc64 (bs : List Byte) : Nat := (bs.foldl crc64Byte crc64Empty).toNat

/-! ## The header -/

/-- A long: zigzag varint. -/
def avroLong (bs : List Byte) : Except Nat (Int × List Byte) := (varint bs).map fun t => (unzigzag t.1, t.2)

/-- A string or bytes of a record: a length, then bytes; a negative length does not fit. -/
def avroBytes (bs : List Byte) : Except Nat (List Byte × List Byte) := do
  let (n, r) ← avroLong bs
  if n < 0 then .error rejTruncated else takeBytes n.toNat r

/-- Metadata entries: key, value, bytes left after the value. -/
abbrev Meta := List (List Byte × List Byte × Nat)

/-- A long of the header; a fault is the bytes left where it lies: at a code longer than the limit, at the end of the input
(R166). -/
def metaLong (bs : List Byte) : Except Nat (Int × List Byte) :=
  match avroLong bs with
  | .ok t => .ok t
  | .error r => .error (if r = rejTruncated then 0 else bs.length)

/-- A string or bytes of the header; a negative length is a fault where it stands, one that passes the input at the end. -/
def metaText (bs : List Byte) : Except Nat (List Byte × List Byte) := do
  let (n, r) ← metaLong bs
  if n < 0 then .error bs.length else if r.length < n.toNat then .error 0 else .ok (r.take n.toNat, r.drop n.toNat)

/-- n entries of a metadata block. -/
def metaEntries : Nat → Meta → List Byte → Except Nat (Meta × List Byte)
  | 0, m, bs => .ok (m, bs)
  | n + 1, m, bs => do
    let (k, r) ← metaText bs
    let (v, r1) ← metaText r
    metaEntries n ((k, v, r1.length) :: m) r1

/-- Metadata blocks up to the empty one. A block cannot hold more entries than bytes. -/
def metaBlocks : Nat → Meta → List Byte → Except Nat (Meta × List Byte)
  | 0, _, _ => .error 0
  | fuel + 1, m, bs => do
    let (n, r) ← metaLong bs
    if n = 0 then .ok (m, r)
    else
      let (_, r1) ← if n < 0 then metaLong r else .ok (0, r)
      if r1.length < n.natAbs then .error 0
      else
        let (m1, r2) ← metaEntries n.natAbs m r1
        metaBlocks fuel m1 r2

/-- How a header reads: the codec, the sync marker, the leaves of the schema and the bytes after it; a fault at an offset; an
unsupported codec. -/
inductive AvroHead where
  | ok (codec : Nat) (sync : List Byte) (leaves : List (Option Nat)) (rest : List Byte)
  | fault (off : Nat)
  | unsupported

/-- Codec numbers: 0 null, 1 deflate, 2 zstandard. -/
def codecOf (name : Option (List Byte)) : Option Nat :=
  match name with
  | none => some 0
  | some n => ["null", "deflate", "zstandard"].findIdx? fun s => ascii s == n

/-- Read the header of a file and check its schema (R154, R162): a fault is reported at the magic, at the length or count of the
metadata that is at fault, at the end of the input where the header does not end, or at the schema. -/
def avroHead (fingerprint : Nat) (bs : List Byte) : AvroHead :=
  if bs.take 4 != [0x4F, 0x62, 0x6A, 1] then .fault (if bs.length < 4 then bs.length else 0)
  else
    match metaBlocks (bs.length + 1) [] (bs.drop 4) with
    | .error left => .fault (bs.length - left)
    | .ok (m, r) =>
      if r.length < 16 then .fault bs.length
      else
        let find (k : String) : Option (List Byte × Nat) := (m.find? fun t => t.1 == ascii k).map (·.2)
        match codecOf ((find "avro.codec").map (·.1)) with
        | none => .unsupported
        | some codec =>
          match find "avro.schema" with
          | none => .fault 4
          | some (schema, left) =>
            match canonical schema with
            | none => .fault (bs.length - left - schema.length)
            | some c =>
              if crc64 c.text != fingerprint then .fault (bs.length - left - schema.length)
              else .ok codec (r.take 16) c.leaves (r.drop 16)

/-- The symbol counts of a plan's ENUM instructions: the FIELDs but NULL stand in the order of the schema's leaves. -/
def symbolsOf (leaves : List (Option Nat)) (fields : List (Nat × PInstr)) : List (Nat × Nat) :=
  ((fields.filter fun t => t.2.op == 2 && t.2.ty != 0x16).zip leaves).filterMap fun t => t.2.map fun n => (t.1.1, n)

/-! ## Records -/

/-- A record being decoded: the bytes left, its lane, the first fault that rejects it alone. -/
structure AvroSt where
  rest : List Byte
  out : Lane
  rej : Option Rej

/-- A value of a type. -/
def avroValue (i : PInstr) (bs : List Byte) : Except Nat (Val × List Byte) :=
  match i.ty with
  | 0x01 => (takeBytes 1 bs).map fun t => (.int (leNat t.1 : Nat), t.2)
  | 0x04 | 0x05 => (varint bs).map fun t => (.int (t.1 : Nat), t.2)
  | 0x08 => (takeBytes 4 bs).map fun t => (.int (leNat t.1 : Nat), t.2)
  | 0x09 => (takeBytes 8 bs).map fun t => (.int (leNat t.1 : Nat), t.2)
  | 0x0A => (takeBytes 4 bs).map fun t => (.int (toSigned 32 (leNat t.1)), t.2)
  | 0x0B => (takeBytes 8 bs).map fun t => (.int (toSigned 64 (leNat t.1)), t.2)
  | 0x0C => (takeBytes 4 bs).map fun t => (.flt (fp32.decode (leNat t.1)), t.2)
  | 0x0D => (takeBytes 8 bs).map fun t => (.flt (fp64.decode (leNat t.1)), t.2)
  | 0x0E | 0x0F => (avroBytes bs).map fun t => (.bytes t.1, t.2)
  | 0x11 => (takeBytes (i.arg + 256 * i.arg2) bs).map fun t => (.bytes t.1, t.2)
  | 0x15 => (if i.arg2 = 0 then avroBytes bs else takeBytes i.arg2 bs).map fun t => (.bytes t.1, t.2)
  | 0x16 => .ok (.int 0, bs)
  | _ => (avroLong bs).map fun t => (.int t.1, t.2)

/-- A reason at an instruction. -/
def at' (k : Nat) (x : Except Nat α) : Except Rej α :=
  match x with
  | .ok a => .ok a
  | .error r => .error { reason := r, ix := k }

/-- A FIELD: it is read whatever becomes of its value. -/
def avroField (c : DecodeEnv) (e : Slot) (k : Nat) (i : PInstr) (x : AvroSt) : Except Rej AvroSt := do
  let (v, r) ← at' k (avroValue i x.rest)
  match c.put k i e v x.out with
  | .ok out => .ok { x with rest := r, out := out }
  | .error j => .ok { x with rest := r, rej := x.rej.orElse fun _ => some j }

/-- n elements of a list from element j on. -/
def avroElems (elem : Nat → AvroSt → Except Rej AvroSt) : Nat → Nat → AvroSt → Except Rej AvroSt
  | 0, _, x => .ok x
  | n + 1, j, x => do avroElems elem n (j + 1) (← elem j x)

/-- The blocks of an array or map: how many elements, and what is left. -/
def avroList (elem : Nat → AvroSt → Except Rej AvroSt) (k : Nat) : Nat → Nat → AvroSt → Except Rej (Nat × AvroSt)
  | 0, _, _ => .error { reason := rejTruncated, ix := k }
  | fuel + 1, j, x => do
    let (n, r) ← at' k (avroLong x.rest)
    if n = 0 then .ok (j, { x with rest := r })
    else
      let (_, r1) ← if n < 0 then at' k (avroLong r) else .ok (0, r)
      let y ← avroElems elem n.natAbs j { x with rest := r1 }
      avroList elem k fuel (j + n.natAbs) y

/-- Run a plan's nodes over a record. -/
def avroNodes (c : DecodeEnv) : Nat → Slot → List Node → AvroSt → Except Rej AvroSt
  | 0, _, _, x => .ok x
  | depth + 1, e, ns, x =>
    ns.foldlM (fun x n =>
      match n with
      | .leaf k i => if i.op = 2 then avroField c e k i x else .ok x
      | .group k i body =>
        if i.op = 3 then do
          let (n, y) ← avroList (fun j z => avroNodes c depth (i.elemSlot e j) body z) k (x.rest.length + 1) 0 x
          .ok (if i.arg = 1 then { y with out := putNat i e n y.out } else y)
        else if i.op = 5 then do
          let (b, r) ← at' k (avroLong x.rest)
          if b < 0 || (i.arg : Int) ≤ b then .error { reason := rejBranch, ix := k }
          else avroNodes c depth e (branchOf b.toNat body) { x with rest := r, out := putNat i e b.toNat x.out }
        else avroNodes c depth e body x) x

/-- A record: its lane or why it is rejected; the bytes after it, none where the rest of its block cannot be read (R161). -/
def avroRecord (c : DecodeEnv) (bs : List Byte) : Except Rej Lane × Option (List Byte) :=
  match avroNodes c 20 .plain c.nodes { rest := bs, out := [], rej := none } with
  | .error j => (.error j, none)
  | .ok x =>
    match x.rej with
    | some j => (.error j, some x.rest)
    | none => (.ok x.out, some x.rest)

end Sys2Proof.Machine
end

