-- ==== Sys2Proof/Machine/Csv.lean ====
section
/-! DEFINITION. CSV (06 R156, RFC 4180): records, fields, the texts of numbers. -/

namespace Sys2Proof.Machine

/-- Where a scan stands in a field: at its start, in unquoted text, in quoted text, after a closing QUOTE. -/
inductive CsvMode where
  | start | plain | quoted | closed
  deriving DecidableEq, Repr

/-- SEP, QUOTE and LINE of a plan. -/
structure CsvStyle where
  sep : Byte
  quote : Byte
  lf : Bool

/-- A scan: where it stands, the field so far newest byte first, the fields newest first, BAD_QUOTE met, bytes taken. -/
structure CsvScan where
  mode : CsvMode
  cur : List Byte
  fields : List (List Byte)
  bad : Bool
  len : Nat

def CsvScan.fresh : CsvScan := { mode := .start, cur := [], fields := [], bad := false, len := 0 }

/-- A record: its fields, BAD_QUOTE met, a quoted field open at the end, a line break at its end, its bytes without the line
break, the bytes after it. -/
structure CsvRecord where
  fields : List (List Byte)
  bad : Bool
  opened : Bool
  ended : Bool
  len : Nat
  rest : List Byte

def CsvScan.close (x : CsvScan) (ended : Bool) (rest : List Byte) : CsvRecord :=
  { fields := (x.cur.reverse :: x.fields).reverse, bad := x.bad, opened := !ended && x.mode == .quoted, ended := ended
    len := x.len, rest := rest }

/-- One byte that ends no record. -/
def CsvScan.byte (x : CsvScan) (y : CsvStyle) (b : Byte) : CsvScan :=
  let n := x.len + 1
  let push (m : CsvMode) : CsvScan := { x with mode := m, cur := b :: x.cur, len := n }
  let next : CsvScan := { x with mode := .start, cur := [], fields := x.cur.reverse :: x.fields, len := n }
  match x.mode with
  | .start => if b = y.quote then { x with mode := .quoted, len := n } else if b = y.sep then next else push .plain
  | .plain => if b = y.sep then next else if b = y.quote then { push .plain with bad := true } else push .plain
  | .quoted => if b = y.quote then { x with mode := .closed, len := n } else push .quoted
  | .closed =>
    if b = y.quote then push .quoted else if b = y.sep then next else { push .plain with bad := true }

/-- Read one record (R156): in quoted text a line break is text; after a fault of quoting the text goes on unquoted. -/
def csvRecord (y : CsvStyle) (x : CsvScan) : List Byte → CsvRecord
  | [] => x.close false []
  | b :: r =>
    if x.mode = .quoted then csvRecord y (x.byte y b) r
    else if y.lf && b = 0x0A then x.close true r
    else if b = 0x0D && r.head? = some 0x0A then x.close true (r.drop 1)
    else csvRecord y (x.byte y b) r

/-! ## Numbers -/

def isDigit (b : Byte) : Bool := 48 ≤ b.toNat && b.toNat ≤ 57

/-- The value of digits. -/
def digitsVal (bs : List Byte) : Nat := bs.foldl (fun a b => a * 10 + (b.toNat - 48)) 0

/-- A sign and the rest. -/
def takeSign (bs : List Byte) : Bool × List Byte :=
  match bs with
  | b :: r => if b = 0x2D then (true, r) else if b = 0x2B then (false, r) else (false, bs)
  | [] => (false, [])

/-- [+|−]digits; an empty text is 0. -/
def csvInt (bs : List Byte) : Option Int :=
  if bs.isEmpty then some 0
  else
    let (neg, ds) := takeSign bs
    if ds.isEmpty || !ds.all isDigit then none else some (if neg then -(digitsVal ds : Int) else digitsVal ds)

def lower (b : Byte) : Byte := if 65 ≤ b.toNat && b.toNat ≤ 90 then b + 32 else b

/-- [+|−]digits[.digits][(e|E)[+|−]digits], or inf, infinity or nan, which take no sign; an empty text is 0 (R156). -/
def csvFloat (bs : List Byte) : Option Val :=
  if bs.isEmpty then some (.dec false 0 0)
  else
    let (neg, r) := takeSign bs
    let word := bs.map lower
    if word = [105, 110, 102] || word = [105, 110, 102, 105, 110, 105, 116, 121] then some (.flt (.inf false))
    else if word = [110, 97, 110] then some (.flt .nan)
    else
      let whole := r.takeWhile isDigit
      let r1 := r.drop whole.length
      let (frac, r2, point) : List Byte × List Byte × Bool :=
        match r1 with
        | b :: t => if b = 0x2E then (t.takeWhile isDigit, t.dropWhile isDigit, true) else ([], r1, false)
        | [] => ([], [], false)
      let m := digitsVal (whole ++ frac)
      if whole.isEmpty || (point && frac.isEmpty) then none
      else
        match r2 with
        | [] => some (.dec neg m (-(frac.length : Int)))
        | b :: t =>
          let (eneg, ds) := takeSign t
          if lower b != 0x65 || ds.isEmpty || !ds.all isDigit then none
          else some (.dec neg m ((if eneg then -(digitsVal ds : Int) else digitsVal ds) - frac.length))

/-- The value of a field's text for a type. -/
def csvVal (ty : Nat) (bs : List Byte) : Option Val :=
  if ty = 0x0E || ty = 0x0F then some (.bytes bs)
  else if ty = 0x0C || ty = 0x0D then csvFloat bs
  else (csvInt bs).map .int

/-- A symbol index beyond its column is VALUE_RANGE: ENUM_INDEX is no reason of CSV (Table 6.7). -/
def csvColumn (c : DecodeEnv) (col : Nat) (i : PInstr) (v : Val) : Except Nat Nat :=
  match v with
  | .int n => if i.ty = 0x10 then intColumn (c.plan.colFmt col) n else i.column (c.plan.colFmt col) c.plan.hashSeed 0 v
  | _ => i.column (c.plan.colFmt col) c.plan.hashSeed 0 v

/-- The lane of a record's fields; an empty field gives 0, or a length of 0 (R156). -/
def csvLane (c : DecodeEnv) (fields : List (List Byte)) : List Node → Lane → Except Rej Lane
  | [], out => .ok out
  | .group _ _ _ :: ns, out => csvLane c fields ns out
  | .leaf k i :: ns, out =>
    if i.op != 2 || i.col = noColumn || i.ty = 0x16 then csvLane c fields ns out
    else if ((fields[i.fld]?).getD []).isEmpty then csvLane c fields ns ((i.col, 0) :: out)
    else
      match csvVal i.ty ((fields[i.fld]?).getD []) with
      | none => .error { reason := rejText, ix := k }
      | some v =>
        match csvColumn c i.col i v with
        | .ok pat => csvLane c fields ns ((i.col, pat) :: out)
        | .error r => .error { reason := r, ix := k }

/-- FIELDS of a plan. -/
def Plan.fields (p : Plan) : Nat := field p.params 11 1
def Plan.headerSkip (p : Plan) : Nat := field p.params 10 1
def Plan.csvStyle (p : Plan) : CsvStyle :=
  { sep := BitVec.ofNat 8 (field p.params 8 1), quote := BitVec.ofNat 8 (field p.params 9 1), lf := field p.params 12 1 = 1 }

/-- A record's lane, or why it is rejected: the faults of the record as a whole come before those of a field. -/
def csvDecode (c : DecodeEnv) (x : CsvRecord) : Except Rej Lane :=
  let whole (r : Nat) : Except Rej Lane := .error { reason := r, ix := noInstr }
  if x.opened then whole rejOpen
  else if c.plan.maxRecord < x.len then whole rejLong
  else if x.bad then whole rejQuote
  else if x.fields.length != c.plan.fields then whole rejCount
  else csvLane c x.fields c.nodes []

end Sys2Proof.Machine
end

