-- ==== Sys2Proof/Machine/Protobuf.lean ====
section
/-! DEFINITION. Protocol Buffers messages (06 R155, proto3 wire format). -/

namespace Sys2Proof.Machine

/-- The wire type of a value type; 6 for a type that no field of a message has. -/
def wireOf (ty : Nat) : Nat :=
  if ty = 0x08 || ty = 0x0A || ty = 0x0C then 5
  else if ty = 0x09 || ty = 0x0B || ty = 0x0D then 1
  else if ty = 0x0E || ty = 0x0F || ty = 0x15 then 2
  else if ty = 0x11 || ty = 0x16 then 6
  else 0

/-- What a field carries: an integer (wire types 0, 1, 5) or bytes (2). -/
inductive Wire where
  | num (v : Nat)
  | len (bs : List Byte)

/-- Read what follows a tag. -/
def wireValue (wire : Nat) (bs : List Byte) : Except Nat (Wire × List Byte) :=
  match wire with
  | 0 => (varint bs).map fun t => (.num t.1, t.2)
  | 1 => (takeBytes 8 bs).map fun t => (.num (leNat t.1), t.2)
  | 5 => (takeBytes 4 bs).map fun t => (.num (leNat t.1), t.2)
  | _ => do
    let (n, r) ← varint bs
    let (b, r1) ← takeBytes n r
    .ok (.len b, r1)

/-- The value of a type that a field carries. -/
def wireVal (ty : Nat) (w : Wire) : Val :=
  match w with
  | .len bs => .bytes bs
  | .num v =>
    match ty with
    | 0x01 => .int (if v = 0 then 0 else 1)
    | 0x02 | 0x0A | 0x10 | 0x12 => .int (toSigned 32 v)
    | 0x04 | 0x08 => .int (v % 2 ^ 32 : Nat)
    | 0x05 | 0x09 => .int (v : Nat)
    | 0x06 => .int (unzigzag (v % 2 ^ 32))
    | 0x07 => .int (unzigzag v)
    | 0x0C => .flt (fp32.decode v)
    | 0x0D => .flt (fp64.decode v)
    | _ => .int (toSigned 64 v)

/-- A message so far: its lane, newest value first, and the elements met of each repeated field. -/
structure PbSt where
  out : Lane
  counts : List (Nat × Nat)

def PbSt.count (x : PbSt) (k : Nat) : Nat := ((x.counts.find? (·.1 == k)).map (·.2)).getD 0

/-- The instructions of nodes. -/
def flatten : Nat → List Node → List (Nat × PInstr)
  | 0, _ => []
  | d + 1, ns => ns.flatMap fun n =>
    match n with
    | .leaf k i => [(k, i)]
    | .group k i body => (k, i) :: flatten d body

/-- The columns that nodes write in a slot. -/
def columnsOf : Nat → Slot → List Node → List Nat
  | 0, _, _ => []
  | d + 1, e, ns => ns.flatMap fun n =>
    match n with
    | .leaf _ i => (i.colIn e).toList
    | .group _ i body =>
      (i.colIn e).toList ++
        if i.op = 3 then (List.range 8).flatMap fun j => columnsOf d (i.elemSlot e j) body else columnsOf d e body

/-- The columns that nodes write in a slot, and the counts of their lists, back to nothing: a later occurrence of a sub-message
takes the place of an earlier one (R155). -/
def PbSt.clear (x : PbSt) (e : Slot) (body : List Node) : PbSt :=
  let is := flatten 20 body
  let all := columnsOf 20 e body
  { out := x.out.filter fun t => !all.contains t.1, counts := x.counts.filter fun t => !is.any (·.1 == t.1) }

/-- The node of a field number. -/
def nodeOf (n : Nat) (ns : List Node) : Option Node :=
  ns.find? fun x =>
    match x with
    | .leaf _ i => i.op == 2 && i.ty != 0x16 && i.fld == n
    | .group _ i _ => i.fld == n

/-- One element more of a repeated field: `COUNT` writes the count. -/
def PbSt.counted (x : PbSt) (e : Slot) (k : Nat) (i : PInstr) : PbSt :=
  let n := x.count k + 1
  { out := if i.arg = 1 then putNat i e n x.out else x.out, counts := (k, n) :: x.counts.filter (·.1 != k) }

/-- One element of a repeated field of values. -/
def pbElement (c : DecodeEnv) (e : Slot) (k : Nat) (i : PInstr) (j : Nat) (f : PInstr) (w : Wire) (x : PbSt) :
    Except Rej PbSt := do
  let out ← c.put j f (i.elemSlot e (x.count k)) (wireVal f.ty w) x.out
  .ok ({ x with out := out }.counted e k i)

/-- The elements of a packed field. -/
def pbPacked (c : DecodeEnv) (e : Slot) (k : Nat) (i : PInstr) (j : Nat) (f : PInstr) :
    Nat → List Byte → PbSt → Except Rej PbSt
  | 0, _, x => .ok x
  | _, [], x => .ok x
  | fuel + 1, b :: r, x =>
    match wireValue (wireOf f.ty) (b :: r) with
    | .error z => .error { reason := z, ix := j }
    | .ok (w, r1) => do pbPacked c e k i j f fuel r1 (← pbElement c e k i j f w x)

/-- Fields of a message one after another; `sub` decodes a sub-message. -/
def pbFields (c : DecodeEnv) (sub : Slot → List Node → List Byte → PbSt → Except Rej PbSt) (e : Slot) (ns : List Node) :
    Nat → List Byte → PbSt → Except Rej PbSt
  | 0, _, x => .ok x
  | _, [], x => .ok x
  | fuel + 1, b :: r, x => do
    let err (reason ix : Nat) : Except Rej PbSt := .error { reason := reason, ix := ix }
    match varint (b :: r) with
    | .error z => err z noInstr
    | .ok (tag, r1) =>
      let wire := tag % 8
      if wire = 3 || wire = 4 then err rejGroup noInstr
      else
        let node := nodeOf (tag / 8) ns
        let ix := match node with
          | some (.leaf k _) => k
          | some (.group k _ _) => k
          | none => noInstr
        if 6 ≤ wire then err rejWire ix
        else
          match wireValue wire r1 with
          | .error z => err z ix
          | .ok (w, r2) =>
            let next (y : PbSt) : Except Rej PbSt := pbFields c sub e ns fuel r2 y
            match node with
            | none => next x
            | some (.leaf k i) =>
              if wireOf i.ty != wire then err rejWire k
              else do next { x with out := ← c.put k i e (wireVal i.ty w) x.out }
            | some (.group k i body) =>
              match w with
              | .len bs =>
                if i.op = 3 then
                  match body with
                  | .leaf j f :: _ =>
                    if wireOf f.ty = 2 then do next (← pbElement c e k i j f w x)
                    else if wireOf f.ty = 6 then err rejWire k
                    else do next (← pbPacked c e k i j f (bs.length + 1) bs x)
                  | .group _ _ inner :: _ => do
                    let slot := i.elemSlot e (x.count k)
                    let y ← sub slot inner bs { x with counts := (x.clear slot inner).counts }
                    next (y.counted e k i)
                  | [] => next (x.counted e k i)
                else do next (← sub e body bs (x.clear e body))
              | .num _ =>
                if i.op = 3 then
                  match body with
                  | .leaf j f :: _ => if wireOf f.ty = wire then do next (← pbElement c e k i j f w x) else err rejWire k
                  | _ => err rejWire k
                else err rejWire k

/-- A message. -/
def pbMessage (c : DecodeEnv) : Nat → Slot → List Node → List Byte → PbSt → Except Rej PbSt
  | 0, _, _, _, x => .ok x
  | depth + 1, e, ns, bs, x => pbFields c (pbMessage c depth) e ns (bs.length + 1) bs x

/-- A record: its lane or why it is rejected. -/
def pbRecord (c : DecodeEnv) (bs : List Byte) : Except Rej Lane :=
  (pbMessage c 20 .plain c.nodes bs { out := [], counts := [] }).map (·.out)

end Sys2Proof.Machine
end

