-- ==== Sys2Proof/Machine/Ingest.lean ====
section
/-! DEFINITION. Record ingest: INGEST_RECORDS, INGEST_COLUMNS, the records, windows and rejects of an item (06 R147 to R166). -/

namespace Sys2Proof.Machine

/-! ## The input of each container -/

/-- Progress over an input that has not been looked at. -/
def IngestRun.over (data : List Byte) (whole : Bool) : IngestRun :=
  { data := data, whole := whole, pos := 0, codec := 0, sync := [], symbols := [], block := none, rows := 0, cols := [], place := 0
    kept := 0, rejected := 0, entries := 0, lanes := [], groups := 0, window := 0, ready := false, ended := none, busy := []
    expanded := 0 }

/-- The offset of the end of what was unwrapped. -/
def IngestRun.limit (g : IngestRun) : Nat := g.pos + g.data.length

/-- End with a fault: where the wrapper failed before the bytes that are missing, there (R149, R162). -/
def IngestRun.missing (g : IngestRun) (off : Nat) : IngestRun :=
  { g with ended := some (.malformed (if g.whole then off else g.limit)) }

/-- Move n bytes on. -/
def IngestRun.skip (g : IngestRun) (n : Nat) : IngestRun := { g with data := g.data.drop n, pos := g.pos + n }

/-- End where nothing is left of an input of records without blocks. -/
def IngestRun.atEnd (g : IngestRun) : IngestRun :=
  if g.data.isEmpty then (if g.whole then { g with ended := some .whole } else g.missing g.pos) else g

/-! ### Avro blocks -/

/-- The data of a block of a codec, with the offset of a fault in it: `size` bytes were to come. -/
def IngestRun.expand (g : IngestRun) (size : Nat) : List Byte × Option Nat :=
  let bs := g.data.take size
  let cut : Option Nat := if bs.length < size then some g.limit else none
  if g.codec = 0 then (bs, cut)
  else
    let x := decodeFormat (if g.codec = 1 then 0 else 3) [] bs
    match x.verdict with
    | .ended => (x.out, cut)
    | .more => (x.out, some (cut.getD (g.pos + x.off)))
    | _ => (x.out, some (g.pos + x.off))

/-- Read the count and size of the next block and take its data (R162). A count passes the input where it is above the bytes that
are left for records: of the input, or of the block once it is decompressed (log 98). -/
def IngestRun.openBlock (g : IngestRun) : IngestRun :=
  match avroLong g.data with
  | .error _ => g.missing g.pos
  | .ok (count, r) =>
    if count < 0 then { g with ended := some (.malformed g.pos) }
    else
      let g1 := g.skip (g.data.length - r.length)
      match avroLong r with
      | .error _ => g1.missing g1.pos
      | .ok (size, r1) =>
        if size < 0 then { g1 with ended := some (.malformed g1.pos) }
        else if g1.whole && r1.length < size.toNat then { g1 with ended := some (.malformed g1.pos) }
        else
          let g2 := g1.skip (r.length - r1.length)
          let (bs, fault) := g2.expand size.toNat
          if g2.whole && fault.isNone && (if g2.codec = 0 then r1.length else bs.length) < count.toNat then
            { g2 with ended := some (.malformed g.pos) }
          else
          { g2.skip (min size.toNat r1.length) with
            block := some { rest := bs, pos := if g2.codec = 0 then some g2.pos else none, fault := fault, left := count.toNat
                            broken := false }
            expanded := g2.expanded + if g2.codec = 0 then 0 else bs.length }

/-- Leave finished blocks and open the next, up to one that holds a record (R154, R161, R162). -/
def IngestRun.settleAvro : Nat → IngestRun → IngestRun
  | 0, g => g
  | fuel + 1, g =>
    if g.ended.isSome then g
    else
      match g.block with
      | some b =>
        if b.left != 0 then g
        else
          match b.fault with
          | some off => { g with ended := some (.malformed off) }
          | none =>
            if g.data.length < 16 then g.missing g.limit
            else if g.data.take 16 != g.sync then { g with ended := some (.malformed g.pos) }
            else IngestRun.settleAvro fuel { g.skip 16 with block := none }
      | none => if g.data.isEmpty then g.atEnd else IngestRun.settleAvro fuel g.openBlock

/-! ### Raw column blocks -/

/-- Faults of a raw column block, as offsets (R157). -/
def columnFaults (p : Plan) (bs : List Byte) : List Nat :=
  let len := bs.length
  let f := field bs
  let bad (off : Nat) (b : Bool) : List Nat := if b then [off] else []
  if len < 64 then [len]
  else
    let n := f 6 2
    let rows := f 8 8
    bad 0 (f 0 4 != 0x4B434F4C) ++ bad 4 (f 4 2 != 1) ++ bad 6 (n = 0 || 1024 < n) ++ bad 8 (rows = 0 || 2 ^ 40 ≤ rows) ++
    bad 16 (!zeros bs 16 48) ++ bad len (len < 64 + 16 * n) ++
    (List.range n).flatMap fun k =>
      let e := 64 + 16 * k
      let fmt := f e 1
      bad e (11 < fmt || p.steps.any fun i =>
        i.op == 2 && i.fld == f (e + 2) 2 && i.col != noColumn && p.colFmt i.col != fmt) ++
      bad (e + 1) (f (e + 1) 1 != 0) ++ bad (e + 4) (f (e + 4) 4 != 0) ++
      bad (e + 8) (f (e + 8) 8 % 64 != 0 || len < f (e + 8) 8 + ceilDiv (rows * fmtBits fmt) 8)

/-- Open a raw column block: its rows and the columns that FIELDs name. -/
def IngestRun.openColumns (g : IngestRun) (p : Plan) : IngestRun :=
  match (if g.whole then columnFaults p g.data else g.limit :: columnFaults p g.data).min? with
  | some off => { g with ended := some (.malformed off) }
  | none =>
    let f := field g.data
    let entry (n : Nat) : Option (Nat × Nat) :=
      ((List.range (f 6 2)).find? fun k => f (64 + 16 * k + 2) 2 == n).map fun k =>
        (fmtBits (f (64 + 16 * k) 1), f (64 + 16 * k + 8) 8)
    { g with
      rows := f 8 8
      cols := p.steps.filterMap fun i =>
        if i.op = 2 && i.col != noColumn then (entry i.fld).map fun (t : Nat × Nat) => (i.col, t.1, t.2) else none }

/-- Element n of a column of w-bit elements at an offset. -/
def elementAt (bs : List Byte) (off w n : Nat) : Nat :=
  if w = 4 then bitsOf (field bs (off + n / 2) 1) (4 * (n % 2)) 4 else field bs (off + n * (w / 8)) (w / 8)

/-! ### Opening an input -/

/-- Skip the header records of a CSV text. -/
def IngestRun.skipHeader (y : CsvStyle) : Nat → IngestRun → IngestRun
  | 0, g => g
  | n + 1, g =>
    if g.data.isEmpty then g
    else
      let x := csvRecord y .fresh g.data
      if !x.ended && !g.whole then g.missing g.pos
      else IngestRun.skipHeader y n (g.skip (g.data.length - x.rest.length))

/-- Open an input under a plan; none for an Avro codec that is not supported (R154). -/
def IngestRun.open (p : Plan) (g : IngestRun) : Option IngestRun :=
  match p.container with
  | 1 =>
    match avroHead (field p.params 8 8) g.data with
    | .unsupported => none
    | .fault off => some (if off = g.limit then g.missing off else { g with ended := some (.malformed off) })
    | .ok codec sync leaves rest =>
      let h := { g.skip (g.data.length - rest.length) with
        codec := codec, sync := sync, symbols := symbolsOf leaves (p.steps.zipIdx.map fun (t : PInstr × Nat) => (t.2, t.1)) }
      some (h.settleAvro (2 * h.data.length + 2))
  | 2 =>
    let syms := (p.instrs.zipIdx.filter fun t => (PInstr.of t.1).op == 2 && (PInstr.of t.1).ty == 0x10).map fun t =>
      (t.2, Config.symbolCount t.1)
    some { g.atEnd with symbols := syms }
  | 3 =>
    let h := IngestRun.skipHeader p.csvStyle p.headerSkip g
    some (if h.ended.isSome then h else h.atEnd)
  | _ => some (g.openColumns p)

/-! ## One record -/

/-- What decoding gives next: a kept record, a rejected one with the offset of its start if it has one, or nothing. -/
inductive Taken where
  | kept (lane : Lane)
  | rejected (why : Rej) (start : Option Nat)
  | nothing

/-- A record of an outcome. -/
def Taken.of (x : Except Rej Lane) (start : Option Nat) : Taken :=
  match x with
  | .ok l => .kept l
  | .error j => .rejected j start

/-- The next record of an Avro block (R161). -/
def IngestRun.takeAvro (g : IngestRun) (c : DecodeEnv) : Taken × IngestRun :=
  match g.block with
  | none => (.nothing, g)
  | some b =>
    let go (t : Taken) (b1 : AvroBlock) : Taken × IngestRun :=
      (t, { g with block := some { b1 with left := b.left - 1 } }.settleAvro (2 * g.data.length + 2))
    if b.broken then go (.rejected { reason := rejRest, ix := noInstr } none) b
    else
      match avroRecord c b.rest with
      | (.error j, none) =>
        if j.reason = rejTruncated && b.fault.isSome then (.nothing, { g with ended := b.fault.map .malformed })
        else go (.rejected j b.pos) { b with broken := true }
      | (x, r) =>
        let rest := r.getD []
        go (.of x b.pos) { b with rest := rest, pos := b.pos.map (· + (b.rest.length - rest.length)) }

/-- The next message (R155). -/
def IngestRun.takeMessage (g : IngestRun) (c : DecodeEnv) : Taken × IngestRun :=
  match varint g.data with
  | .error r => (.nothing, if r = rejTruncated then g.missing g.pos else { g with ended := some (.malformed g.pos) })
  | .ok (n, r) =>
    if r.length < n then (.nothing, g.missing g.pos)
    else
      let x : Except Rej Lane :=
        if c.plan.maxRecord < n then .error { reason := rejLong, ix := noInstr } else pbRecord c (r.take n)
      (.of x g.pos, (g.skip (g.data.length - r.length + n)).atEnd)

/-- The next CSV record (R156). -/
def IngestRun.takeText (g : IngestRun) (c : DecodeEnv) : Taken × IngestRun :=
  let x := csvRecord c.plan.csvStyle .fresh g.data
  if !x.ended && !g.whole then (.nothing, g.missing g.pos)
  else (.of (csvDecode c x) g.pos, (g.skip (g.data.length - x.rest.length)).atEnd)

/-- The next row of a raw column block (R157). -/
def IngestRun.takeRow (g : IngestRun) : Taken × IngestRun :=
  let lane := g.cols.map fun t => (t.1, elementAt g.data t.2.2 t.2.1 g.place)
  (.kept lane, if g.place + 1 = g.rows then { g with ended := some .whole } else g)

/-- The next record of an input. -/
def IngestRun.take (g : IngestRun) (c : DecodeEnv) : Taken × IngestRun :=
  match c.plan.container with
  | 1 => g.takeAvro c
  | 2 => g.takeMessage c
  | 3 => g.takeText c
  | _ => g.takeRow

/-! ## Lanes and windows (R158, R163, R164) -/

/-- VALID lanes of a kept record. -/
def Plan.validLane (p : Plan) : Lane := (p.steps.filter (·.op == 10)).map fun i => (i.col, 1)

/-- Place a record in its lane; a rejected record's lane is 0, and in STOP mode it ends the decode. -/
def IngestRun.placeRecord (g : IngestRun) (p : Plan) (stop : Bool) (t : Taken) : IngestRun :=
  match t with
  | .nothing => g
  | .kept l => { g with lanes := g.lanes ++ [p.validLane ++ l], place := g.place + 1, kept := g.kept + 1 }
  | .rejected j _ =>
    { g with
      lanes := g.lanes ++ [[]], place := g.place + 1, rejected := g.rejected + 1
      ended := if stop then some (.stopped g.place j.reason) else g.ended }

/-- The group is to be written: it is full, or no record follows. -/
def IngestRun.groupDue (g : IngestRun) (p : Plan) : Bool :=
  g.lanes.length == p.group || (g.ended.isSome && !g.lanes.isEmpty)

/-- D of a window (R158). -/
def Plan.windowAt (p : Plan) (w : Nat) : Nat := w % 2 * (p.windowGroups * 1024)

/-- Where the vector of the group goes for a column. -/
def IngestRun.vectorAt (g : IngestRun) (p : Plan) (c : PInstr) : Place3 :=
  .slab c.arg (c.base + p.windowAt g.window + 1024 * g.groups)

/-- The vector of the group for a column. -/
def IngestRun.vector (g : IngestRun) (c : PInstr) : List Byte :=
  vecToBytes (unlanes (fmtBits c.fmt) (g.lanes.map fun l => ((l.find? (·.1 == c.col)).map (·.2)).getD 0))

/-- Write the group's vectors. -/
def State.writeGroup (s : State) (p : Port) (plan : Plan) (g : IngestRun) : State :=
  plan.coldefs.foldl (fun a c => a.writePlace p (g.vectorAt plan c) (g.vector c)) s

/-- The window stands as it is to be dispatched. -/
def IngestRun.windowDue (g : IngestRun) (p : Plan) : Bool := g.groups == p.windowGroups || (g.ended.isSome && g.groups != 0)

/-- After a group was written. -/
def IngestRun.nextGroup (g : IngestRun) : IngestRun := { g with lanes := [], groups := g.groups + 1 }

/-- The input of an item as the host gives it. -/
def State.rawInput (s : State) (p : Port) (i : Item) : List Byte :=
  (List.range (i.fld 24 8)).map fun k => s.itemHostByte p i (i.fld 16 8 + k)

/-- Write a reject entry while the list has room, and count the record (R165, Table 6.10). -/
def State.reject (s : State) (p : Port) (i : Item) (g : IngestRun) (t : Taken) : State × Nat :=
  match t with
  | .rejected j start =>
    let s1 := s.countP p .decodeReject 1
    if g.entries < i.fld 36 4 then
      let off := start.getD (Config.rejectOffset (s.rawInput p i) g.place).toNat
      let ordinal := (i.fld 40 8 + g.place) % 2 ^ 40
      (s1.hostPut p (i.fld 56 8 + 16 * g.entries)
        (leBytes 5 ordinal ++ leBytes 1 j.reason ++ leBytes 2 j.ix ++ leBytes 8 off), 1)
    else (s1.countP p .decodeRejectLost 1, 0)
  | .kept _ => (s.countP p .decodeRecords 1, 0)
  | .nothing => (s, 0)

/-! ## Commands -/

/-- The plan of an item. -/
def State.planOf (s : State) (p : Port) (i : Item) : Option Plan :=
  s.parts[p].image.bind fun im => im.plans.find? (·.plan == i.fld 32 2)

/-- The item's decode is over and every window of it dispatched: its completion waits for the windows (Table 6.9). -/
def State.ingestOver (s : State) (p : Port) (i : Item) (g : IngestRun) (e : IngestEnd) : State :=
  let done (st : Status) (r0 r1 : Nat) : State := s.finishService p i.key st r0 r1
  let s1 :=
    match e with
    | .whole => if g.rejected = 0 then done .ok g.kept 0 else done .partialDone g.kept g.rejected
    | .stopped n reason => done .stopped n reason
    | .malformed off => done .malformed g.place (min off 0xFFFFFFFF)
  s1.updItem p i.key ({ · with stepsLeft := g.busy.length })

/-- Keep the progress of an item; it is over where decode has ended and no window waits. -/
def State.keepIngest (s : State) (p : Port) (i : Item) (g : IngestRun) : State :=
  let s1 := s.updItem p i.key ({ · with ingest := some g })
  match g.ended with
  | some e => if g.ready || !g.lanes.isEmpty then s1 else s1.ingestOver p i g e
  | none => s1

/-- The input of an item with its wrapper off (R149). -/
def State.unwrap (s : State) (p : Port) (i : Item) : IngestRun :=
  let raw := s.rawInput p i
  match i.fld 34 1 with
  | 0 => .over raw true
  | w =>
    let x := decodeFormat (if w = 1 then 2 else if w = 2 then 1 else 3) [] raw
    { IngestRun.over x.out (x.verdict == .ended) with expanded := x.out.length }

/-- Begin an ingest item. -/
def State.beginIngest (s : State) (p : Port) (k op : Nat) : State :=
  match s.serving p k op with
  | none => s
  | some i =>
    match i.ingest, s.planOf p i with
    | none, some plan =>
      s.atDecode p i fun _ =>
        let g := s.unwrap p i
        match g.open plan with
        | none => (s.countP p .decompressOut g.expanded).finishService p k .unsupported 0 0
        | some h => (s.countP p .decompressOut h.expanded).keepIngest p i h
    | _, _ => s

/-- INGEST_RECORDS (R147, R149, R154): the wrapper comes off and the container opens. -/
def execIngestRecords (p : Port) (k : Nat) (s : State) : Host.Outcome State Fault Refusal :=
  .next (s.beginIngest p k opIngestRecords)

/-- INGEST_COLUMNS (R157). -/
def execIngestColumns (p : Port) (k : Nat) (s : State) : Host.Outcome State Fault Refusal :=
  .next (s.beginIngest p k opIngestColumns)

/-- An ingest item in service. -/
def State.ingesting (s : State) (p : Port) (k : Nat) : Option (Item × Plan × IngestRun) :=
  match s.item? p k with
  | none => none
  | some i =>
    if i.st == .inService && i.isIngest then (s.planOf p i).bind fun pl => i.ingest.map fun g => (i, pl, g) else none

/-- DECODE_RECORD (R158 to R165): the next record takes its lane; a group that it fills or ends is written, once the window
before last has finished and every COLDEF tile's cluster runs (R159, Table 6.10). -/
def State.decodeRecord (s : State) (p : Port) (k : Nat) : State :=
  match s.ingesting p k with
  | none => s
  | some (i, plan, g) =>
    if g.ended.isSome || g.ready then s
    else
      s.atDecode p i fun _ =>
        let c : DecodeEnv := { plan := plan, nodes := plan.nodes, symbols := g.symbols }
        let (t, g1) := g.take c
        let g2 := g1.placeRecord plan (i.opcode == opIngestRecords && i.flag 1) t
        let (s1, n) := s.reject p i g t
        let s2 := s1.countP p .decompressOut (g1.expanded - g.expanded)
        let g3 : IngestRun := { g2 with entries := g2.entries + n }
        if !g3.groupDue plan then s2.keepIngest p i { g3 with ready := g3.windowDue plan }
        else if g3.busy.any (·.1 + 2 == g3.window) then s
        else
          s.reach (plan.coldefs.map (g3.vectorAt plan)) fun _ =>
            let g4 := g3.nextGroup
            (s2.writeGroup p plan g3).keepIngest p i { g4 with ready := g4.windowDue plan }

def execDecodeRecord (p : Port) (k : Nat) (s : State) : Host.Outcome State Fault Refusal := .next (s.decodeRecord p k)

/-- The COLDEF tiles of a plan that hold an entry pass of a pipeline. -/
def State.windowTiles (s : State) (p : Port) (plan : Plan) (pipeline : Nat) : List Nat :=
  (plan.coldefs.map (·.arg)).eraseDups.filter fun t => (s.entryPass p t pipeline).isSome

/-- The values of a window's passes (R159). -/
def windowArgs (i : Item) (plan : Plan) (g : IngestRun) : PassArgs :=
  { b := g.groups, d := plan.windowAt g.window, s0 := i.fld 48 6
    e0 := (i.fld 40 8 + g.window * (plan.group * plan.windowGroups)) % 2 ^ 40 }

/-- DECODE_WINDOW_COMPLETE (R159): the window's passes are dispatched, once every tile's queue has room. -/
def State.windowComplete (s : State) (p : Port) (k : Nat) : State :=
  match s.ingesting p k with
  | none => s
  | some (i, plan, g) =>
    let ts := s.windowTiles p plan i.pipeline
    if !g.ready || !(ts.all fun t => s.tileRoom (tix t)) then s
    else
      let args := windowArgs i plan g
      let g1 : IngestRun :=
        { g with ready := false, groups := 0, window := g.window + 1, busy := g.busy ++ [(g.window, ts)] }
      let send (a : State) (t : Nat) : State :=
        a.queuePass (tix t) { port := p, key := k, pipeline := i.pipeline, args := args, window := some g.window, frame := none }
      (ts.foldl send s).keepIngest p i g1

def execDecodeWindowComplete (p : Port) (k : Nat) (s : State) : Host.Outcome State Fault Refusal := .next (s.windowComplete p k)

/-- WINDOW_FINISHED (R159): the oldest window whose tiles have all finished leaves. -/
def State.windowFinished (s : State) (p : Port) (k : Nat) : State :=
  match s.item? p k with
  | none => s
  | some i =>
    match i.ingest with
    | none => s
    | some g =>
      match g.busy.find? fun b => b.2.isEmpty with
      | none => s
      | some (w, _) =>
        s.updItem p k fun j => { j with
          ingest := some { g with busy := g.busy.filter (·.1 != w) }
          stepsLeft := if j.st == .completing then j.stepsLeft - 1 else j.stepsLeft }

def execWindowFinished (p : Port) (k : Nat) (s : State) : Host.Outcome State Fault Refusal := .next (s.windowFinished p k)

end Sys2Proof.Machine
end

