-- ==== Sys2Proof/Machine/Jtag.lean ====
section
/-! DEFINITION. The test access port (25 R551 to R553, Tables 25.7 and 25.8). -/

namespace Sys2Proof.Machine

/-- What IDCODE reads (R551). -/
def idcodeValue : BitVec 32 := 0x1700774B

/-- Select an instruction: its code, the data register, and who drives the pins. -/
def State.selectTap (s : State) (code : BitVec 8) (dr : TapData) (drive : PinDrive) : State :=
  { s with tap := { s.tap with ir := code, dr := dr, drive := drive } }

/-- An instruction that controls the pins only while POR_n is low; otherwise it acts as BYPASS (R553). -/
def State.pinTest (s : State) (code : BitVec 8) (dr : TapData) (drive : PinDrive) : State :=
  if s.porN then s.selectTap code .bypass .functional else s.selectTap code dr drive

/-- TAP_RESET: Test-Logic-Reset selects IDCODE; the pins return to functional control (R551, Table 25.8). -/
def State.tapReset (s : State) : State := s.selectTap 0x01 .idcode .functional

def execTapReset (s : State) : Host.Outcome State Fault Refusal := .next s.tapReset

/-- IDCODE (R551): the identification register is read. -/
def execIdcode (s : State) : Host.Outcome State Fault Refusal :=
  .next { s.selectTap 0x01 .idcode .functional with rdata := .reg (idcodeValue.setWidth 64) }

/-- SAMPLE/PRELOAD (R551): the boundary register is loaded; the pins stay functional. -/
def execSamplePreload (cells : List Bool) (s : State) : Host.Outcome State Fault Refusal :=
  .next (let s1 := s.selectTap 0x02 .boundary .functional; { s1 with tap := { s1.tap with cells := cells } })

/-- EXTEST (R553). -/
def execExtest (s : State) : Host.Outcome State Fault Refusal := .next (s.pinTest 0x03 .boundary .cells)

/-- EXTEST_PULSE (R553). -/
def execExtestPulse (s : State) : Host.Outcome State Fault Refusal := .next (s.pinTest 0x04 .boundary .pulse)

/-- EXTEST_TRAIN (R553). -/
def execExtestTrain (s : State) : Host.Outcome State Fault Refusal := .next (s.pinTest 0x05 .boundary .train)

/-- HIGHZ (R553). -/
def execHighz (s : State) : Host.Outcome State Fault Refusal := .next (s.pinTest 0x06 .bypass .highz)

/-- CLAMP (R553). -/
def execJtagClamp (s : State) : Host.Outcome State Fault Refusal := .next (s.pinTest 0x07 .bypass .cells)

/-- BYPASS, and every code Table 25.7 does not list (R551). -/
def execBypass (code : Byte) (s : State) : Host.Outcome State Fault Refusal :=
  .next (if 1 ≤ code.toNat && code.toNat ≤ 7 then s else s.selectTap code .bypass .functional)

end Sys2Proof.Machine
end

