-- ==== Sys2Proof/Machine/Mesh.lean ====
section
/-! DEFINITION. Messages of the mesh as their receivers take them: grants, requests, packets, responses, credits, link errors
(14 R337 to R346, 05 R145, 03 R83, 20 R470). -/

namespace Sys2Proof.Machine

/-! ## Receivers -/

/-- The port that a message's PART names; 6 is device traffic, 7 reserved (Table 14.4). -/
def msgPort (m : MeshMsg) : Option Port := if h : m.part < 6 then some ⟨m.part, h⟩ else none

/-- What a request of partition p reaches: a range of n bytes in the slab or stack of its stop, from a stop of the partition
(R83, Table 3.4). -/
def State.meshTarget (s : State) (p : Port) (m : MeshMsg) (n : Nat) : Option Place3 :=
  let a := m.addr.toNat
  if !(s.partStops p).contains m.src.val || n < 64 || 1024 < n || n % 64 != 0 then none
  else
    match tileAtStop m.dst.val with
    | some t => if a / 2 ^ 25 == t && s.inBounds p (.slab t (a % 2 ^ 25)) n then some (.slab t (a % 2 ^ 25)) else none
    | none =>
      match hbmStops.findIdx? (· == m.dst.val) with
      | some k => if a / 2 ^ 37 == k && s.inBounds p (.hbm k (a % 2 ^ 37)) n then some (.hbm k (a % 2 ^ 37)) else none
      | none => none

/-- The cluster of the tile at a stop is below RUN: the arrival waits in its buffer, and the first one is a thaw trigger
(R345). -/
def State.stopAsleep (s : State) (stop : Nat) : Option Cluster :=
  match tileAtStop stop with
  | some t => if s.clusterOper (t / 8) == .run then none else some (Fin.ofNat 16 (t / 8))
  | none => none

/-! ## Messages under way -/

/-- Change the first message under way that fits. -/
def updFirst (which : Send → Bool) (g : Send → Send) : List Send → List Send
  | [] => []
  | z :: zs => if which z then g z :: zs else z :: updFirst which g zs

/-- The message is done with: its buffer's credit is back and its response has been taken. -/
def Send.over (z : Send) : Bool := z.credited && (!z.kind.responds || z.answered)

/-- Change the first message under way that fits; one that is done with leaves. -/
def Partition.updFlight (x : Partition) (which : Send → Bool) (g : Send → Send) : Partition :=
  { x with flight := (updFirst which g x.flight).filter fun z => !z.over }

/-- The pair and network of an arriving message. -/
def msgCarries (m : MeshMsg) (net : Nat) (z : Send) : Bool :=
  z.src == m.src.val && z.dst == m.dst.val && z.network == net && z.vc == m.vc.val && !z.arrived

/-- A response from a message's receiver: it echoes the TAG, where the message has one (Table 14.4). -/
def msgAnswers (m : MeshMsg) (z : Send) : Bool :=
  z.src == m.dst.val && z.dst == m.src.val && z.arrived && !z.answered && z.kind.responds && (z.network == 2 || z.tag == m.tag)

/-- The first message under way that fits and has not arrived, and the messages with it changed. Messages of one route entry
arrive in the order in which they were sent (R329): `late` holds the entries with an earlier message that has not. -/
def takeInOrder (which : Send → Bool) (g : Send → Send) : List (Nat × Nat × Nat) → List Send → Option (Send × List Send)
  | _, [] => none
  | late, z :: zs =>
    let line := (z.src, z.network, z.entry)
    if !z.arrived && !late.contains line && which z then some (z, g z :: zs)
    else (takeInOrder which g (if z.arrived then late else line :: late) zs).map fun r => (r.1, z :: r.2)

/-- The links over which the routers take a message. -/
def Partition.linksOf (x : Partition) (z : Send) : List (Nat × Nat) :=
  (x.routeAt z.src z.network z.entry).elim [] fun r => r.ride.1

/-- Location of a link in an event's detail above the sending stop: direction, then network (14, What you can see). -/
def linkLoc (l : Link) : Nat := l.dir.val + 4 * netCode l.net

/-- The replayed flit of a link passes its CRC: it counts, with ERROR_CORRECTED (R341). -/
def State.replayPassed (s : State) (l : Link) : State :=
  if s.replays.any (·.1 == l) then
    { s with replays := s.replays.filter (·.1 != l), cntMeshReplay := s.cntMeshReplay + 1 }.corrected ⟨.fabric, 0⟩ l.stop.val
      (linkLoc l) none []
  else s

/-- A message was delivered: no flit fails any longer on the links behind it, since a receiver discards what follows a failing
flit until its replay has passed (R341). -/
def State.passedLinks (s : State) (p : Port) (z : Send) : State :=
  let ls := s.parts[p].linksOf z
  (s.replays.filter fun r => netCode r.1.net == z.network && ls.contains (r.1.stop.val, r.1.dir.val)).foldl
    (fun a r => a.replayPassed r.1) s

/-- A message of a tile arrives with its TAG; none when no such message is under way. -/
def State.arrive (s : State) (p : Port) (tag : BitVec 16) (which : Send → Bool) : Option (Send × State) :=
  (takeInOrder which ({ · with arrived := true, tag := tag }) [] s.parts[p].flight).map fun r =>
    (r.1, (s.passedLinks p r.1).updPart p ({ · with flight := r.2.filter fun z => !z.over }))

/-! ## Messages of the other agents

An engine or a port hands its messages to its NI within its own step. The model grants such a message as it arrives
(log 107). -/

/-- The message of an agent along an entry of its stop's table, none without a quota (Table 14.10, steps 1 and 2). -/
def Partition.agentSend (x : Partition) (kind : SendKind) (m : MeshMsg) (data : List Byte) (r : Option Route) : Option Send :=
  (x.sendAlong kind 0 none none data false r).map ({ · with granted := true, arrived := true, tag := m.tag })

/-- The port between an agent and its NI is open: the agent's cluster is in RUN (R345). -/
def State.agentAwake (s : State) (stop : Nat) : Bool := (s.stopAsleep stop).isNone

/-- The messages of an agent take all their counters and arrive, or none does (Table 14.10, steps 3 to 6; Table 14.12). -/
def State.agentArrive (s : State) (p : Port) (zs : List (Option Send)) : Option State :=
  let sent := zs.filterMap id
  if sent.length != zs.length || !sent.all fun z => s.agentAwake z.src then none
  else
    (s.parts[p].takeAll sent).map fun y =>
      (sent.foldl (fun a z => a.passedLinks p z) s).updPart p fun _ => { y with flight := y.flight ++ sent }

/-- The READ of an agent. -/
def State.readArrives (s : State) (p : Port) (m : MeshMsg) : Option State :=
  let x := s.parts[p]
  s.agentArrive p [x.agentSend .read m [] (x.routeOn m.src.val 0 m.dst.val m.vc.val 0)]

/-- The DAT route that the data of a WRITE takes: the first of its stop's table to the destination (log 107). -/
def Partition.dataRoute (x : Partition) (m : MeshMsg) : Option Route := x.routeTo m.src.val 3 m.dst.val

/-- The WRITE of an agent with its data: it needs the counters of both routes. -/
def State.writeArrives (s : State) (p : Port) (m : MeshMsg) (data : List Byte) : Option State :=
  let x := s.parts[p]
  s.agentArrive p [x.agentSend .write m [] (x.routeOn m.src.val 0 m.dst.val m.vc.val 0),
    x.agentSend .writeData m data (x.dataRoute m)]

/-- A packet of an agent. -/
def State.packetArrives (s : State) (p : Port) (m : MeshMsg) (rxq : Nat) (data : List Byte) : Option State :=
  let x := s.parts[p]
  s.agentArrive p [x.agentSend .packet m data (x.routeOn m.src.val 3 m.dst.val m.vc.val rxq)]

/-! ## Grants -/

/-- The item of a message ends with a status, at the beat of its pass when one runs (R104, Table 14.12). -/
def State.sendFails (s : State) (p : Port) (z : Send) (st : Status) : State :=
  match z.key with
  | none => s
  | some k =>
    let mine (w : TileWork) : Bool := w.port == p && w.key == k
    match s.tiles[tix z.tile].run with
    | some r =>
      if mine r.work then s.leaveTile (tix z.tile) r.work (some (st, r.beat)) else s.updItem p k (·.passFails st 0)
    | none => s.updItem p k (·.passFails st 0)

/-- RESERVATION_GRANT (R337): the i-th waiting message of the partition takes its counters. A message of a beat then waits
for the beat's others (R104); any other leaves. A message whose quota is gone ends its item with BOUNDS (Table 14.12). -/
def State.reservationGrant (s : State) (p : Port) (i : Nat) : State :=
  let x := s.parts[p]
  match x.waiting[i]? with
  | none => s
  | some z =>
    if z.granted then s
    else if x.fenced.contains z.src || s.clusterOper (z.tile / 8) != .run then s
    else if (x.quotaFor z.src z.dst z.network z.vc).isNone then
      (s.updPart p fun y => { y with waiting := y.waiting.eraseIdx i }).sendFails p z .bounds
    else if !x.grantable z then s
    else
      let g := { z with granted := true }
      s.updPart p fun _ =>
        let y := x.takeQuota z
        if z.beat then { y with waiting := y.waiting.set i g }
        else { y with waiting := y.waiting.eraseIdx i, flight := y.flight ++ [g] }

def execReservationGrant (p : Port) (i : Nat) (s : State) : Host.Outcome State Fault Refusal :=
  .next (s.reservationGrant p i)

/-! ## Requests

A request waits in its buffer while its tile sleeps (R345); taken, it is answered. -/

/-- The granule of a tile's slab that holds a byte. -/
def granuleOf (off : Nat) : Nat := off / 64 * 64

/-- The key, payload and age granules of a bucket of a tile's table (05 R145). -/
def State.bucketBytes (s : State) (t : Nat) (e : TabEntry) (b : Nat) : Except Halt (List Byte) :=
  match s.granule t (e.keyAt b 0) 64, (if e.payload then s.granule t (e.payAt b 0) 64 else .ok []),
    (if e.ageing then s.granule t (granuleOf (e.ageAt b 0)) 64 else .ok []) with
  | .ok k, .ok v, .ok a => .ok (k ++ v ++ a)
  | .error h, _, _ | _, .error h, _ | _, _, .error h => .error h

/-- READ data leaves as one DAT packet with RESP 1 along DAT entry SRC (R332); the outbox shows its bytes (log 1). -/
def State.returnData (s : State) (p : Port) (m : MeshMsg) (bs : List Byte) : State :=
  let s1 := s.returnCredit p 0 m.vc.val m.src.val m.dst.val
  match s.parts[p].routeAt m.dst.val 3 m.src.val with
  | none => s1
  | some r => { s1.send (.packet (datPacket r.route m.dst.val p.val true m.tag bs)) with rdata := .bytes bs }

/-- A request that ends in ERROR with a status. -/
def State.returnError (s : State) (p : Port) (m : MeshMsg) (st : Status) : State :=
  (s.returnCredit p 0 m.vc.val m.src.val m.dst.val).reply p 0x85 m.dst.val m.src.val m.tag st.code

/-- CREDIT of the buffer that the data of a WRITE held. -/
def State.returnDataCredit (s : State) (p : Port) (m : MeshMsg) : State :=
  match s.parts[p].dataRoute m with
  | none => s
  | some r => s.returnCredit p 3 (routeVc r.route) m.src.val m.dst.val

/-- A member's read of a bucket is served at the home stop. -/
def State.homeRead (s : State) (p : Port) (m : MeshMsg) (table bucket : Nat) : State :=
  match tileAtStop m.dst.val with
  | none => s.returnError p m .bounds
  | some t =>
    match s.granule t (64 * table) 64 with
    | .error _ => s.returnError p m .uncorrectable
    | .ok b =>
      match s.bucketBytes t (TabEntry.of table b) bucket with
      | .ok bs => s.returnData p m bs
      | .error (.fail st) => s.returnError p m st
      | .error _ => s.returnError p m .uncorrectable

/-- The data of a range, or ERROR where the request crosses R83 or meets an uncorrectable error. -/
def State.rangeRead (s : State) (p : Port) (m : MeshMsg) : State :=
  match s.meshTarget p m m.arg.toNat with
  | some (.slab t off) =>
    if s.slabBad t off m.arg.toNat then s.returnError p m .uncorrectable
    else s.returnData p m (s.slabGet t off m.arg.toNat)
  | some (.hbm k off) =>
    if s.hbmBad p k off m.arg.toNat then s.returnError p m .uncorrectable
    else s.returnData p m (s.hbmGet p k off m.arg.toNat)
  | _ => s.returnError p m .bounds

/-- A WRITE with its data is served: both buffers are freed, and the write is acknowledged. -/
def State.rangeWrite (s : State) (p : Port) (m : MeshMsg) (data : List Byte) : State :=
  let n := m.arg.toNat
  match s.meshTarget p m n with
  | none => (s.returnDataCredit p m).returnError p m .bounds
  | some x =>
    (((s.writePlace p x (padTo n (data.take n))).returnDataCredit p m).returnCredit p 0 m.vc.val m.src.val
      m.dst.val).reply p 0x82 m.dst.val m.src.val m.tag 0

/-- The member's valid bit of a bucket is cleared, and SNP_ACK answers (05 R144, R145). -/
def State.memberInvalid (s : State) (p : Port) (t src vc table bucket : Nat) : State :=
  ((s.updPart p (·.setReplica t table bucket false)).returnCredit p 2 vc src (tileStop t)).reply p 0x83 (tileStop t) src
    (Config.unusedTag 0x83) 0

/-- The tile, or the agent of a shared stop, takes a request from its buffer. -/
def State.serveHeld (s : State) (p : Port) (t : Nat) : Held → State
  | .read m none => s.rangeRead p m
  | .read m (some (n, b)) => s.homeRead p m n b
  | .write m data => s.rangeWrite p m data
  | .invalidate src vc n b => s.memberInvalid p t src vc n b

/-- A request stands in its buffer at a stop: it is served, or waits for the thaw that it triggers (R345). -/
def State.deliver (s : State) (p : Port) (stop : Nat) (h : Held) : State :=
  let t := (tileAtStop stop).getD 0
  match s.stopAsleep stop with
  | some c =>
    if s.ownsCluster p c.val then (s.updTile (tix t) fun x => { x with held := x.held ++ [(p, h)] }).startThaw c
    else s.serveHeld p t h
  | none => s.serveHeld p t h

/-- The bucket that a READ of a message under way asks for. -/
def Send.bucket? (z : Send) : Option (Nat × Nat) :=
  match z.kind with
  | .fetch t b => some (t, b)
  | _ => none

/-- READ (R337): a member's refetch that is under way, or an agent's request. -/
def State.meshRead (s : State) (m : MeshMsg) : State :=
  match msgPort m with
  | none => s
  | some p =>
    match s.arrive p m.tag fun z => msgCarries m 0 z && z.bucket?.isSome with
    | some (z, s1) => s1.deliver p m.dst.val (.read m z.bucket?)
    | none =>
      match s.readArrives p m with
      | some s1 => s1.deliver p m.dst.val (.read m none)
      | none => s

def execRead (m : MeshMsg) (s : State) : Host.Outcome State Fault Refusal := .next (s.meshRead m)

/-- WRITE with its DAT data (R337). -/
def State.meshWrite (s : State) (m : MeshMsg) (data : List Byte) : State :=
  match msgPort m with
  | none => s
  | some p =>
    match s.writeArrives p m data with
    | some s1 => s1.deliver p m.dst.val (.write m data)
    | none => s

def execWrite (m : MeshMsg) (data : List Byte) (s : State) : Host.Outcome State Fault Refusal := .next (s.meshWrite m data)

/-- INVALIDATE (05 R144, R145): an invalidation that is under way to a member. -/
def State.invalidate (s : State) (p : Port) (src dst table bucket : Nat) : State :=
  match tileAtStop dst with
  | none => s
  | some t =>
    if !s.ownsCluster p (t / 8) then s
    else
      match s.arrive p 0 fun z => z.src == src && z.dst == dst && z.kind == .snoop table bucket with
      | none => s
      | some (z, s1) => s1.deliver p dst (.invalidate src z.vc table bucket)

def execInvalidate (p : Port) (src dst : Stop) (table : Byte) (bucket : Nat) (s : State) :
    Host.Outcome State Fault Refusal :=
  .next (s.invalidate p src.val dst.val table.toNat bucket)

/-- The tiles of a cluster that has reached RUN take the requests that waited, in the order of their arrival (R345, R373). -/
def State.takeHeld (s : State) (c : Cluster) : State :=
  (List.range 8).foldl (fun a n =>
    let t := 8 * c.val + n
    a.tiles[tix t].held.foldl (fun b h => b.serveHeld h.1 t h.2) (a.updTile (tix t) ({ · with held := [] }))) s

/-! ## Packets -/

/-- The tile's packet or unit that arrives with its bytes, when the partition has it under way. -/
def pushArrives (m : MeshMsg) (rxq : Nat) (data : List Byte) (z : Send) : Bool :=
  msgCarries m 3 z && z.rxq == rxq && z.data == data && (match z.kind with | .push | .spill _ _ => true | _ => false)

/-- A packet enters a receive queue of a tile stop; a cluster below RUN thaws (R345). -/
def State.receive (s : State) (t : Tile) (rxq : Fin 4) (pk : RxPacket) : State :=
  let s1 := s.updTile t fun x => { x with rxq := x.rxq.set rxq (x.rxq[rxq] ++ [pk]) }
  if s.clusterOper (t.val / 8) == .run then s1 else s1.startThaw (Fin.ofNat 16 (t.val / 8))

/-- A packet that arrived for its stop (R327, R337, R83): it waits in the receive queue of its tile stop until the tile takes it;
at a stack, the unit of a grace stager is written (05 R136), or its path fails the range check (R83); at any other stop it is
taken for nothing. -/
def State.landPacket (s : State) (p : Port) (m : MeshMsg) (rxq : Fin 4) (data : List Byte) (z : Send) : State :=
  match tileAtStop m.dst.val with
  | some t =>
    if s.ownsCluster p (t / 8) && (s.partStops p).contains m.src.val then
      s.receive (tix t) rxq { part := m.part, src := m.src.val, vc := m.vc.val, frame := z.frame, data := data }
    else s
  | none =>
    let s1 := match z.kind with
      | .spill st off =>
        if s.inBounds p (.hbm st off) 1024 then s.hbmPut p st off data else s.pathFails ⟨.hbm, st⟩
      | _ => s
    s1.returnCredit p 3 m.vc.val m.src.val m.dst.val

/-- DAT_PUSH (R327, R337): a tile's packet that is under way, or another agent's. -/
def State.datPush (s : State) (m : MeshMsg) (rxq : Fin 4) (data : List Byte) : State :=
  let bs := padTo 1024 (data.take 1024)
  match msgPort m with
  | none => s
  | some p =>
    match s.arrive p m.tag (pushArrives m rxq.val bs) with
    | some (z, s1) => s1.landPacket p m rxq bs z
    | none =>
      match s.packetArrives p m rxq.val bs with
      | none => s
      | some s1 =>
        match s1.parts[p].flight.getLast? with
        | some z => s1.landPacket p m rxq bs z
        | none => s1

def execDatPush (m : MeshMsg) (rxq : Fin 4) (data : List Byte) (s : State) : Host.Outcome State Fault Refusal :=
  .next (s.datPush m rxq data)

/-! ## Responses -/

/-- A response slot of the pair comes free; `which` is the message answered. -/
def State.answered (s : State) (p : Port) (z : Send) (which : Send → Bool) : State :=
  s.updPart p fun x => (x.modQuota z fun u => { u with slots := u.slots - 1 }).updFlight which ({ · with answered := true })

/-- READ_DATA (R337 step 8, 05 R145): the data of an agent's READ reaches the agent; a refetched bucket is written to the
member's table and is valid once more. -/
def State.readData (s : State) (m : MeshMsg) (data : List Byte) : State :=
  match msgPort m with
  | none => s
  | some p =>
    let which (z : Send) : Bool := msgAnswers m z && (z.bucket?.isSome || z.kind == .read)
    match s.parts[p].flight.find? which with
    | none => s
    | some z =>
      match z.bucket? with
      | none => s.answered p z which
      | some (n, b) =>
        let e := TabEntry.of n (s.slabGet z.tile (64 * n) 64)
        let s1 := s.slabPut z.tile (e.keyAt b 0) (padTo 64 (data.take 64))
        let s2 := if e.payload then s1.slabPut z.tile (e.payAt b 0) (padTo 64 ((data.drop 64).take 64)) else s1
        let s3 := if e.ageing then
            s2.slabPut z.tile (granuleOf (e.ageAt b 0)) (padTo 64 ((data.drop (if e.payload then 128 else 64)).take 64))
          else s2
        ((s3.updPart p (·.setReplica z.tile n b true)).countP p .replicaFetch 1).answered p z which

def execReadData (m : MeshMsg) (data : List Byte) (s : State) : Host.Outcome State Fault Refusal := .next (s.readData m data)

/-- WRITE_ACK (R337 step 8): the slot of the acknowledged write comes free. -/
def State.writeAck (s : State) (m : MeshMsg) : State :=
  match msgPort m with
  | none => s
  | some p =>
    let which (z : Send) : Bool := msgAnswers m z && z.kind == .write
    match s.parts[p].flight.find? which with
    | none => s
    | some z => s.answered p z which

def execWriteAck (m : MeshMsg) (s : State) : Host.Outcome State Fault Refusal := .next (s.writeAck m)

/-- SNP_ACK (05 R145): the member has acknowledged; the slot comes free. -/
def State.snpAck (s : State) (m : MeshMsg) : State :=
  match msgPort m with
  | none => s
  | some p =>
    let which (z : Send) : Bool := msgAnswers m z && z.network == 2
    match s.parts[p].flight.find? which with
    | none => s
    | some z => s.answered p z which

def execSnpAck (m : MeshMsg) (s : State) : Host.Outcome State Fault Refusal := .next (s.snpAck m)

/-- The status that a code names (Table 13.5). -/
def statusOf (c : Nat) : Status :=
  ([Status.ok, .partialDone, .stopped, .refused, .aborted, .hostTimeout, .stateStale, .noGain, .malformed, .staleDropped,
    .unsupported, .imageInvalid, .notReady, .ownerLost, .uncorrectable, .bounds, .limit, .badDescriptor, .idle][c]?).getD
    .bounds

/-- ERROR (Table 14.7, R83): the request's slot comes free and its item ends with the status. -/
def State.meshError (s : State) (m : MeshMsg) : State :=
  match msgPort m with
  | none => s
  | some p =>
    match s.parts[p].flight.find? (msgAnswers m) with
    | none => s
    | some z => (s.answered p z (msgAnswers m)).sendFails p z (statusOf m.arg.toNat)

def execError (m : MeshMsg) (s : State) : Host.Outcome State Fault Refusal := .next (s.meshError m)

/-- Mark the first n messages of a pair whose buffers have been freed. -/
def creditFirst (which : Send → Bool) : Nat → List Send → List Send
  | _, [] => []
  | 0, zs => zs
  | n + 1, z :: zs => if which z then { z with credited := true } :: creditFirst which n zs else z :: creditFirst which (n + 1) zs

/-- CREDIT (R337, R338): the counter of the pair takes back the buffers freed. -/
def State.credit (s : State) (m : MeshMsg) : State :=
  match msgPort m with
  | none => s
  | some p =>
    let a := m.arg.toNat
    let n := a / 16
    let pair (src dst net vc : Nat) : Bool := src == m.dst.val && dst == m.src.val && net == a % 4 && vc == a / 4 % 4
    s.updPart p fun x => { x with
      quota := x.quota.map fun u => if pair u.src u.dst u.network u.vc then { u with taken := u.taken - n } else u
      flight := (creditFirst (fun z => pair z.src z.dst z.network z.vc && z.arrived && !z.credited) n x.flight).filter
        fun z => !z.over }

def execCredit (m : MeshMsg) (s : State) : Host.Outcome State Fault Refusal := .next (s.credit m)

/-! ## Link errors -/

/-- Partitions with a route that crosses a link. -/
def State.crossing (s : State) (l : Link) : List Port :=
  (List.finRange 6).filter fun p => s.parts[p].routes.any fun r => r.crosses l

/-- A link is fenced: the fault bit, ERROR_CONTAINED, the partitions whose routes cross it (R342, Table 20.3). -/
def State.fenceLink (s : State) (l : Link) : State :=
  let hit := s.crossing l
  let s1 := { s with linksFenced := s.linksFenced ++ [l], replays := s.replays.filter fun r => r.1 != l }
  hit.foldl (fun a p => a.linkLost p) ((s1.setFault ⟨.fabric, 0⟩ 4).contained ⟨.fabric, 0⟩ l.stop.val (linkLoc l) hit)

/-- FLIT_CRC_ERROR (R340, R341): the receiver of a link checks the CRC of a flit. One that fails is discarded and replayed,
and what follows it is discarded until its replay arrives, so that the next flit checked is the replay. A replay that passes
counts; the failure of the eighth replay fences the link. -/
def State.flitCrcError (s : State) (l : Link) (bits : BitVec 1056) : State :=
  let n := ((s.replays.find? (·.1 == l)).map (·.2)).getD 0
  if s.linksFenced.contains l then s
  else if flitPasses l.net bits then s.replayPassed l
  else if n = 8 then s.fenceLink l
  else { s with replays := (l, n + 1) :: s.replays.filter fun r => r.1 != l }

def execFlitCrcError (l : LinkFlit) (s : State) : Host.Outcome State Fault Refusal :=
  .next (s.flitCrcError l.link l.bits)

/-! ## Device routes around fenced links (Table 20.8) -/

/-- Device traffic passes along a path of REQ or RSP: no fenced link lies on it (R330). -/
def State.devicePath (s : State) (net : Net) (src dst : Nat) (yFirst : Bool) : Bool :=
  let ls := axisLinks src dst yFirst
  s.linksFenced.all fun f => f.net != net || !ls.contains (f.stop.val, f.dir.val)

/-- Device traffic still reaches a stop from an Orlys stop and its answers come back, in one order or the other (log 105). -/
def State.deviceReaches (s : State) (stop : Nat) (yFirst : Bool) : Bool :=
  orlysStops.any fun o => s.devicePath .req o stop yFirst && s.devicePath .rsp stop o yFirst

/-- Every device route passes in the order that is in force. -/
def State.devicePasses (s : State) : Bool :=
  (List.range 144).all fun d => orlysStops.all fun o =>
    s.devicePath .req o d s.deviceYX && s.devicePath .rsp d o s.deviceYX

/-- DEVICE_ROUTE_REWRITE (Table 20.8): a fenced REQ or RSP link lies on a device route, so every device route takes its Y hops
first; a stop that neither order reaches has its units FENCED. -/
def State.deviceRouteRewrite (s : State) : State :=
  if s.devicePasses then s
  else
    let lost := (List.range 144).filter fun d => !s.deviceReaches d false && !s.deviceReaches d true
    (lost.flatMap unitsAtStop).foldl (fun a u => a.ledgerMod u ({ · with oper := .fenced })) { s with deviceYX := true }

def execDeviceRouteRewrite (s : State) : Host.Outcome State Fault Refusal := .next s.deviceRouteRewrite

end Sys2Proof.Machine
end

