-- ==== Sys2Proof/Machine/Time.lean ====
section
/-! DEFINITION. The device time base (16 R376 to R385, 24 R533): crystal edges, TIME_ADJ operations, PPS servo, holdover,
PTM, TIME_NOW. -/

namespace Sys2Proof.Machine

/-- The accumulator with a given device time and the fraction kept or cleared (R376, Table 16.6). -/
def accWithTime (acc : BitVec 96) (t : BitVec 64) (keepFraction : Bool) : BitVec 96 :=
  t ++ (if keepFraction then acc.extractLsb' 0 32 else 0)

/-- TIME_STATUS of a function (Table 16.7). -/
def State.timeStatus (s : State) (ptmBusy : Bool) : BitVec 64 :=
  let b (x : Bool) (n : Nat) : Nat := if x then 2 ^ n else 0
  BitVec.ofNat 64
    (b s.time.valid 0 + b s.time.discipline 1 + b s.time.locked 2 + b s.time.holdover 3 + b s.time.ppsPending.isSome 4 +
      b ptmBusy 5 + ofSigned 32 s.time.lastPhase * 2 ^ 16)

/-- Moraine TIME entry (Table 20.10): 1 SET, 2 STEP, 3 servo step, 4 lock lost, 5 holdover; signed ns. -/
def State.logTime (s : State) (what : Nat) (ns : Int) : State :=
  s.logMoraine 3 0xFF (BitVec.ofNat 64 what) (BitVec.ofInt 64 ns)

/-- Set device time and clear the fraction, logged as a SET (R379, R383). -/
def State.setTime (s : State) (t : BitVec 64) : State :=
  let ns := (t - s.deviceTime).toInt
  ({ s with time := { s.time with acc := accWithTime s.time.acc t false, valid := true } }).logTime 1 ns

/-- Move device time by a signed number of ns, the fraction kept. -/
def State.moveTime (s : State) (ns : Int) (what : Nat) : State :=
  ({ s with time := { s.time with acc := accWithTime s.time.acc (s.deviceTime + BitVec.ofInt 64 ns) true } }).logTime what ns

/-- Apply one TIME_ADJ word at a crystal edge (Table 16.6). -/
def State.applyAdj (s : State) (w : BitVec 64) : State :=
  let d := w.toNat
  match d / 2 ^ 60 with
  | 0 => s.setTime (BitVec.ofNat 64 (bitsOf d 0 60))
  | 1 => s.moveTime (toSigned 60 d) 2
  | 2 => { s with time := { s.time with ppsPending := some (bitsOf d 0 40) } }
  | 3 =>
    let a := toSigned 32 d
    if s.time.discipline || rateLimit < a || a < -rateLimit then s else { s with time := { s.time with a := a } }
  | 4 =>
    if d % 2 = 1 then { s with time := { s.time with discipline := true, i := s.time.a } }
    else { s with time := { s.time with discipline := false } }
  | 5 => { s with time := { s.time with valid := false } }
  | _ => s

/-- A TIME_ADJ word is SET or STEP, which override a servo step of the same edge (Table 16.8). -/
def adjMovesTime (w : BitVec 64) : Bool := w.toNat / 2 ^ 60 ≤ 1

/-- The accumulator advances by 40 × 2^32 + A (R376). -/
def State.tick (s : State) : State :=
  { s with time := { s.time with acc := s.time.acc + BitVec.ofInt 96 (40 * 2 ^ 32 + s.time.a) } }

/-- PPS_IN is sampled at a crystal edge in the AON domain, when it has just advanced: a 1 after a 0 is a PPS edge (R381). -/
def State.samplePps (s : State) (pps : Bool) : State :=
  if pps && !s.ppsIn && s.boot.aonClock then
    { s with
      ppsIn := pps
      time := { s.time with rise := some (s.deviceTime, s.time.writes.head?.elim false adjMovesTime) } }
  else { s with ppsIn := pps }

/-- Effect of a crystal edge (R376, R379, R381, R382): advance, sample PPS_IN, then the oldest waiting TIME_ADJ word, then a
waiting servo step unless a SET or STEP overrode it. -/
def State.crystalEdge (s : State) (pps : Bool) : State :=
  if !s.porN then s
  else
    let s1 := s.tick.samplePps pps
    let s2 :=
      match s.time.writes with
      | [] => s1
      | w :: rest => ({ s1 with time := { s1.time with writes := rest } }).applyAdj w
    let past := (s.time.writes.head?.elim false adjMovesTime)
    match s.time.servoStep with
    | none => s2
    | some phi =>
      let s3 := { s2 with time := { s2.time with servoStep := none } }
      if past then s3 else s3.moveTime (-phi) 3

/-- φ of an edge stamped v (R382). -/
def edgePhase (v : BitVec 64) : Int :=
  let r := v.toNat % 1000000000
  if r < 500000000 then (r : Int) else (r : Int) - 1000000000

/-- The lock at an accepted edge with DISCIPLINE on (R383): 8 consecutive edges within 100 ns set it, one beyond 1,000 ns ends
it; LAST_PHASE takes φ. -/
def State.lock (s : State) (phi : Int) : State :=
  let mag := phi.natAbs
  let good := if mag ≤ 100 then s.time.goodEdges + 1 else 0
  let locked := if 1000 < mag then false else s.time.locked || 8 ≤ good
  let s1 := { s with time := { s.time with goodEdges := min good 8, locked := locked, lastPhase := phi } }
  if s.time.locked && !locked then s1.logTime 4 phi else s1

/-- The servo at an accepted edge (R382): a step at the next crystal edge unless a SET or STEP took effect at this one
(Table 16.8), or new I and A. -/
def State.servo (s : State) (phi : Int) (written : Bool) : State :=
  if 1000000 < phi.natAbs then { s with time := { s.time with servoStep := if written then none else some phi } }
  else
    let i := clampInt (s.time.i - 43 * phi) (-rateLimit) rateLimit
    { s with time := { s.time with i := i, a := clampInt (i - 86 * phi) (-rateLimit) rateLimit } }

/-- An edge is accepted when none was, or 900,000,000 ns after the last accepted one (R381). -/
def State.acceptsEdge (s : State) (v : BitVec 64) : Bool :=
  match s.time.lastEdge with
  | none => true
  | some e => 900000000 ≤ (v - e).toInt

/-- Effect of a PPS edge (R381 to R383), which a crystal edge has sampled: v is the device time of that crystal edge before any
write of it (Table 16.8). φ is computed with DISCIPLINE on (R382); an edge without φ ends a run of good edges (log 109). -/
def State.ppsEdge (s : State) : State :=
  match s.time.rise with
  | none => s
  | some (v, written) =>
    if !s.acceptsEdge v then { s with cntPpsIgnored := s.cntPpsIgnored + 1, time := { s.time with rise := none } }
    else
      let s1 := { s with time := { s.time with rise := none, ppsLast := v, lastEdge := some v, holdover := false } }
      let phi := edgePhase v
      let s2 := if s.time.discipline then s1.lock phi else { s1 with time := { s1.time with goodEdges := 0 } }
      match s.time.ppsPending with
      | some sec => ({ s2 with time := { s2.time with ppsPending := none } }).setTime (BitVec.ofNat 64 (sec * 1000000000))
      | none => if s.time.discipline then s2.servo phi written else s2

/-- The time owner (R379): the floor owner's PF at FLOOR_SEL 0 to 5, the management path at 6 and 7. -/
def State.isTimeOwner (s : State) : TimeSrc → Bool
  | .fn p f => f.val = 0 && s.floorOwnerPort == some p
  | .mgmt => s.floorOwnerPort.isNone

/-- A TIME_ADJ write: the time owner's joins the words waiting for a crystal edge; any other function's is ignored and
counted (R379). The management path offers it from t0 + 60 ms (19 Table 19.5). After a device-fatal error none is taken (20
R456). -/
def State.timeAdjWrite (s : State) (src : TimeSrc) (op : Nat) (d : BitVec 60) : State :=
  let w : BitVec 64 := BitVec.ofNat 4 op ++ d
  match src with
  | .fn p f =>
    if !s.fnExists p f || s.boot.fatal then s
    else if s.isTimeOwner (.fn p f) then { s with time := { s.time with writes := s.time.writes ++ [w] } }
    else s.countF p f .timeWriteIgnored
  | .mgmt =>
    if s.boot.modules && !s.boot.fatal && s.isTimeOwner .mgmt then { s with time := { s.time with writes := s.time.writes ++ [w] } } else s

/-- CRYSTAL_EDGE (R376). -/
def execCrystalEdge (pps : Bool) (s : State) : Host.Outcome State Fault Refusal := .next (s.crystalEdge pps)

/-- PPS_EDGE (R381, R382). -/
def execPpsEdge (s : State) : Host.Outcome State Fault Refusal := .next s.ppsEdge

/-- SET (Table 16.6). -/
def execSet (src : TimeSrc) (d : BitVec 60) (s : State) : Host.Outcome State Fault Refusal := .next (s.timeAdjWrite src 0 d)

/-- STEP (Table 16.6). -/
def execStep (src : TimeSrc) (d : BitVec 60) (s : State) : Host.Outcome State Fault Refusal := .next (s.timeAdjWrite src 1 d)

/-- SET_AT_PPS (Table 16.6). -/
def execSetAtPps (src : TimeSrc) (d : BitVec 60) (s : State) : Host.Outcome State Fault Refusal :=
  .next (s.timeAdjWrite src 2 d)

/-- RATE (Table 16.6). -/
def execRate (src : TimeSrc) (d : BitVec 60) (s : State) : Host.Outcome State Fault Refusal := .next (s.timeAdjWrite src 3 d)

/-- DISCIPLINE (Table 16.6). -/
def execDiscipline (src : TimeSrc) (d : BitVec 60) (s : State) : Host.Outcome State Fault Refusal :=
  .next (s.timeAdjWrite src 4 d)

/-- INVALIDATE (Table 16.6). -/
def execTimeInvalidate (src : TimeSrc) (d : BitVec 60) (s : State) : Host.Outcome State Fault Refusal :=
  .next (s.timeAdjWrite src 5 d)

/-- HOLDOVER_ENTRY (R383): 1,100,000,000 ns after the last accepted edge. -/
def State.holdoverEntry (s : State) : State :=
  match s.time.lastEdge with
  | none => s
  | some e =>
    if s.time.holdover || (s.deviceTime - e).toInt < 1100000000 then s
    else
      let s1 := { s with time :=
        { s.time with holdover := true, a := s.time.i, locked := false, goodEdges := 0 } }
      let s2 := if s.time.locked then s1.logTime 4 s.time.lastPhase else s1
      s2.logTime 5 s.time.lastPhase

def execHoldoverEntry (s : State) : Host.Outcome State Fault Refusal := .next s.holdoverEntry

/-- TIME_PTM_HOST (R384, 19 Table 19.5): starts a dialogue when PTM is enabled and none is in progress, once the device is
ready. -/
def State.ptmStart (s : State) (p : Port) (f : Func) : State :=
  if s.fnExists p f && s.boot.ready && !s.boot.fatal && (s.fn p f).ptmEnable && !(s.fn p f).ptmBusy then
    s.updFn p f ({ · with ptmBusy := true })
  else s

def execTimePtmHost (p : Port) (f : Func) (s : State) : Host.Outcome State Fault Refusal := .next (s.ptmStart p f)

/-- PTM_DIALOGUE_END (R384): the host's time and the device time at that instant are recorded and PTM_BUSY clears. The port
measures the instant's distance from the latest crystal edge and the Propagation Delay: `offset` is both, in ns. -/
def execPtmDialogueEnd (p : Port) (f : Func) (host offset : BitVec 64) (s : State) : Host.Outcome State Fault Refusal :=
  .next (
    if (s.fn p f).ptmBusy then
      s.updFn p f ({ · with ptmBusy := false, ptmHost := host, ptmDev := s.deviceTime + offset })
    else s)

/-- TIME_NOW_LO (24 R533): the read latches bits [63:32] into the function's snapshot; 8 bytes return the whole time. -/
def execTimeNowLo (p : Port) (f : Func) (w : Width) (s : State) : Host.Outcome State Fault Refusal :=
  .next (
    if !s.fnExists p f then s
    else
      let t := s.deviceTime
      let v : BitVec 64 := match w with
        | .w8 => t
        | .w4 => (t.extractLsb' 0 32).setWidth 64
      { s.updFn p f ({ · with snap := t.extractLsb' 32 32 }) with rdata := .reg v })

end Sys2Proof.Machine
end

