-- ==== Sys2Proof/Machine/Regs.lean ====
section
/-! DEFINITION. The register blocks of BAR0 and BAR2 and the BAR4 slab window (23 and 24, 22 R492 to R496, 19 Table 19.5). -/

namespace Sys2Proof.Machine

/-! ## Reads -/

/-- Bit n of a register. -/
def bit (b : Bool) (n : Nat) : Nat := if b then 2 ^ n else 0

/-- State of a queue pair (Table 23.9). -/
def QpState.code : QpState → Nat
  | .disabled => 0 | .enabled => 1 | .draining => 2 | .error => 3

/-- PORT_ID (Table 23.2). -/
def portId (p : Port) (f : Func) : Nat :=
  vendorId + (if f.val = 0 then 0x7007 else 0x7017) * 2 ^ 16 + 0x10 * 2 ^ 32 + p.val * 2 ^ 40 + f.val * 2 ^ 44 + 2 * 2 ^ 48

/-- PORT_STATUS (Table 23.3). -/
def State.portStatus (s : State) (p : Port) (f : Func) : Nat :=
  let q := s.ports[p]
  let width := if q.lanes = 16 then 4 else if q.lanes = 8 then 3 else if q.lanes = 4 then 2 else 0
  bit s.ready 0 + bit s.parts[p].place.isSome 1 + bit q.linkUp 2 + bit q.flit 3 + width * 2 ^ 4 + q.rate * 2 ^ 7 +
    bit (f.val == 0 && s.floorOwnerPort == some p) 11 + bit (s.isTimeOwner (.fn p f)) 12 + s.floorSel.toNat * 2 ^ 13 +
    (if (s.fn p f).d3 then 3 else 0) * 2 ^ 16 + bit (!q.hstopN) 18 + bit (s.parts[p].place.any (·.retain)) 19 +
    bit (f.val == 0 && s.parts[p].place.any (·.bar4)) 20 + bit s.boot.fatal 21

/-- PORT_CAPS (Table 23.6). -/
def State.portCaps (s : State) : Nat :=
  128 + 16 * 2 ^ 8 + 12 * 2 ^ 16 + 8 * 2 ^ 20 + 8 * 2 ^ 24 + 8 * 2 ^ 28 + 6 * 2 ^ 32 + s.orderCode.gbPerStack * 2 ^ 40 +
    s.orderCode.gibAssignable * 2 ^ 48

/-- PORT_ERR as a function reads it (Table 23.7): bits 6 and 7 are the port's, held with the PF. -/
def State.portErrOf (s : State) (p : Port) (f : Func) : Nat :=
  ((s.fn p f).portErr &&& ~~~(0xC0 : BitVec 64) ||| ((s.fn p 0).portErr &&& 0xC0)).toNat

/-- Fetched items of a queue pair that lack a posted completion (Table 23.9, OUTSTANDING). -/
def State.outstanding (s : State) (p : Port) (f : Func) (n : Nat) : Nat :=
  (s.ports[p].items.filter fun i => i.fn == f && i.qp == n && !i.orphan).length

/-- QP_STATUS (Table 23.9). -/
def State.qpStatus (s : State) (p : Port) (f : Func) (n : Nat) : Nat :=
  let q := s.qp p f n
  q.st.code + bit q.phase 2 + q.cause * 2 ^ 8 + q.sqHead * 2 ^ 16 + q.cqTail * 2 ^ 32 +
    min 65535 (s.outstanding p f n) * 2 ^ 48

/-- A register of queue pair n (Table 23.8). -/
def State.readQp (s : State) (p : Port) (f : Func) (n off : Nat) : Nat :=
  let q := s.qp p f n
  if !s.hasQp p f n then 0
  else
    match off with
    | 0x00 => q.sqBase.toNat
    | 0x08 => q.sqSize
    | 0x10 => q.cqBase.toNat
    | 0x18 => q.cqSize
    | 0x20 => bit (q.st == .enabled) 0
    | 0x28 => s.qpStatus p f n
    | 0x30 => q.msix
    | _ => 0

/-- The queue's emission waits on a position (Table 23.15 HELD, R476). -/
def State.bqHeld (s : State) (b : BatchQueue) : Bool :=
  match b.layout, b.ctx with
  | some l, some x =>
    b.enabled && l.shuffled && b.pos < x.shuffleN && x.shuffleN ≤ 2 ^ 26 &&
      !s.bitmapBit b.tile l (shufflePi x x.shuffleN b.pos).1
  | _, _ => false

/-- BQ_STATUS (Table 23.15). -/
def State.bqStatus (s : State) (p : Port) (m : Nat) : Nat :=
  let b := s.bq p m
  let r := s.bqRecord p m
  bit b.enabled 0 + bit (r.any (·.pins)) 1 + bit b.qhi 2 + bit b.qlo 3 + bit (s.bqHeld b) 4 +
    bit (b.waits false || b.waits true) 5 + bit b.copying.isSome 6 + b.cause * 2 ^ 8 +
    (r.elim 0 (·.depth)) * 2 ^ 16

/-- A register of batch queue m (Tables 23.12 to 23.15) where the function maps it (R513). -/
def State.readBq (s : State) (p : Port) (f : Func) (m off : Nat) : Nat :=
  let b := s.bq p m
  if !s.mapsBq p f m (off == 0x30 || off == 0x38 || off == 0x48) then 0
  else
    match off with
    | 0x00 => b.ctrl.toNat
    | 0x08 => b.ringBase.toNat
    | 0x10 => b.ringSize
    | 0x18 => b.wmHigh + b.wmLow * 2 ^ 16 + b.wmHyst * 2 ^ 32
    | 0x20 => b.fillCount + b.tail % 2 ^ 48 * 2 ^ 16
    | 0x28 => b.mark.getD (2 ^ 64 - 1)
    | 0x30 => b.read
    | 0x38 => b.rel
    | 0x40 => s.bqStatus p m
    | 0x50 => b.credits + b.delivered % 2 ^ 32 * 2 ^ 32
    | _ => 0

/-- IMG_STATE (Table 24.2). -/
def State.imgState (s : State) (p : Port) : Nat :=
  let x := s.parts[p]
  x.pstate.code + x.session.elim 0 fun z => z.st.code * 2 ^ 4 + z.no.toNat * 2 ^ 16

/-- A register of the IMAGE block (Table 24.2). -/
def State.readImage (s : State) (p : Port) (off : Nat) : Nat :=
  let x := s.parts[p]
  if off = 0 then s.imgState p
  else if off < 0x38 then field x.digest (off - 8) 8
  else
    match off with
    | 0x40 => x.imgError.toNat
    | 0x48 => x.version.toNat
    | 0x50 => s.floorVersion.toNat
    | _ => 0

/-- The word that a PF, or the management path, may see of a unit (03 R84): of another partition's unit the owner only, and so
of a unit that nobody owns, of which R84 says nothing (log 88). -/
def State.seenWord (s : State) (p : Option Port) (u : UnitId) : BitVec 64 :=
  let w := s.ledgerWord u
  match p with
  | none => w.word
  | some q => if sharedUnit u || ownerPort w.owner == some q then w.word else BitVec.ofNat 64 (w.owner.toNat * 2 ^ 16)

/-- A register of the PART block (Tables 24.3, 24.4). -/
def State.readPart (s : State) (p : Port) (f : Func) (off : Nat) : Nat :=
  let g (k : Place → Nat) : Nat := s.parts[p].place.elim 0 k
  let h := s.ports[p].shape
  match off with
  | 0x00 => g fun r => r.clusters.toNat + r.decodeWeight * 2 ^ 16 + r.compressWeight * 2 ^ 32 + r.gatherWeight * 2 ^ 48
  | 0x08 => g fun r => r.hbmBase + r.hbmSize * 2 ^ 6 + r.hbmWeight * 2 ^ 16 + r.firnRows * 2 ^ 32 + r.datVcs * 2 ^ 53
  | 0x10 => g fun r => r.admission + r.flows * 2 ^ 19 + h.qpPf * 2 ^ 40 + h.qpVf * 2 ^ 47 + h.vfCount * 2 ^ 54
  | 0x18 => if f.val = 0 then s.ports[p].bar4Base else 0
  | 0x100 => if f.val = 0 then s.ports[p].ledgerSel.toNat else 0
  | 0x108 =>
    if f.val = 0 then
      match unitOfCode (s.ports[p].ledgerSel.toNat % 256) (s.ports[p].ledgerSel.toNat / 256) with
      | some u => (s.seenWord (some p) u).toNat
      | none => 2 ^ 64 - 1
    else 2 ^ 64 - 1
  | 0x110 => s.ledgerChanges.toNat
  | _ => 0

/-- Offsets of the partition counters in the ENGINE block, in the order of `PCnt` (Table 24.5). -/
def pcntOffsets : List Nat :=
  [0x040, 0x048, 0x050, 0x058, 0x060, 0x068, 0x070, 0x078, 0x080, 0x088, 0x090, 0x098, 0x0A0, 0x0A8, 0x0B0, 0x0B8, 0x0C0,
   0x0C8, 0x0D0, 0x0D8, 0x0E0, 0x0E8, 0x0F0, 0x0F8, 0x100, 0x108, 0x110, 0x118, 0x120, 0x128, 0x130, 0x138, 0x140, 0x148,
   0x150, 0x158, 0x160]

/-- A counter of the ENGINE block (Table 24.5). -/
def State.readEngine (s : State) (p : Port) (f : Func) (off : Nat) : Nat :=
  if off ≤ 0x30 then if off % 8 = 0 then ((s.fn p f).cnt[Fin.ofNat 7 (off / 8)]).toNat else 0
  else
    match off with
    | 0x180 => s.cntMeshReplay.toNat
    | 0x188 => s.cntPpsIgnored.toNat
    | _ =>
      match pcntOffsets.findIdx? (· == off) with
      | some k => (s.parts[p].cnt[Fin.ofNat 37 k]).toNat
      | none => 0

/-- A register of the TIME block (Table 24.6), the snapshot left as it is. -/
def State.readTime (s : State) (p : Port) (f : Func) (off : Nat) : Nat :=
  let x := s.fn p f
  match off with
  | 0x00 => s.deviceTime.toNat
  | 0x04 => x.snap.toNat
  | 0x08 => s.time.ppsLast.toNat
  | 0x10 => ofSigned 32 s.time.a + ofSigned 32 s.time.i * 2 ^ 32
  | 0x18 => (s.timeStatus x.ptmBusy).toNat
  | 0x20 => x.ptmHost.toNat
  | 0x28 => x.ptmDev.toNat
  | _ => 0

/-- A register of the EVENT block (Table 24.7), EVT_POP aside. -/
def State.readEvent (s : State) (p : Port) (f : Func) (off : Nat) : Nat :=
  let x := s.fn p f
  match off with
  | 0x08 => x.evq.length + x.evLost * 2 ^ 16
  | 0x10 => x.evClasses.toNat * 2 + x.evVector * 2 ^ 16 + bit x.evVecEn 31
  | _ => 0

/-- State of a mailbox command (R420). -/
def MbxState.code : MbxState → Nat
  | .idle => 0 | .busy => 1 | .done => 2

/-- MBX_STATUS (R420). -/
def Mailbox.statusWord (m : Mailbox) : Nat :=
  m.st.code + m.status.code * 2 ^ 8 + m.length * 2 ^ 16 + m.cmdTicket.toNat * 2 ^ 32

/-- A register of the MBX block (Table 24.8), MBX_LOCK aside; a VF has none. -/
def State.readMbx (s : State) (p : Port) (f : Func) (off : Nat) : Nat :=
  let m := s.ports[p].mbx
  if f.val ≠ 0 then 0
  else if 0x800 ≤ off && off < 0x1000 then leNat (m.data.gets (off - 0x800) 8)
  else if off = 0x08 then m.cmd.toNat
  else if off = 0x10 then m.statusWord
  else 0

/-- Bytes of the MSI-X table entry of a vector (R496, PCI Express). -/
def MsixEntry.bytes (e : MsixEntry) : List Byte := leBytes 8 e.addr.toNat ++ leBytes 4 e.data.toNat ++ leBytes 4 e.mask.toNat

/-- MSI-X table and PBA (R496). -/
def State.readMsix (s : State) (p : Port) (f : Func) (off : Nat) : Nat :=
  let x := s.fn p f
  if off < 0xE0000 then
    let v := (off - 0xC0000) / 16
    if v < s.msixSize p f then field (x.msixEntry v).bytes (off % 16) 8 else 0
  else
    let lo := 8 * (off - 0xE0000)
    ((x.msix.filter fun e => e.pending && lo ≤ e.vector && e.vector < lo + 64).map fun e => 2 ^ (e.vector - lo)).foldl (· + ·) 0

/-- An 8-byte read of BAR0 that has no side effect (23, 24). -/
def State.readReg (s : State) (p : Port) (f : Func) (off : Nat) : BitVec 64 :=
  let v : Nat :=
    if off < 0x10000 then
      match off with
      | 0x00 => portId p f
      | 0x08 => s.portStatus p f
      | 0x10 => (s.fn p f).epoch.toNat
      | 0x18 => s.ports[p].cto
      | 0x20 => s.portCaps
      | 0x28 => s.portErrOf p f
      | _ => 0
    else if off < 0x11000 then s.readQp p f ((off - 0x10000) / 0x40) (off % 0x40)
    else if 0x20000 ≤ off && off < 0x22000 then s.readBq p f ((off - 0x20000) / 0x80) (off % 0x80)
    else if 0x30000 ≤ off && off < 0x40000 then s.readImage p (off - 0x30000)
    else if 0x40000 ≤ off && off < 0x50000 then s.readPart p f (off - 0x40000)
    else if 0x50000 ≤ off && off < 0x60000 then s.readEngine p f (off - 0x50000)
    else if 0x60000 ≤ off && off < 0x70000 then s.readTime p f (off - 0x60000)
    else if 0x70000 ≤ off && off < 0x80000 then s.readEvent p f (off - 0x70000)
    else if 0x80000 ≤ off && off < 0x90000 then s.readMbx p f (off - 0x80000)
    else if 0xC0000 ≤ off && off < 0xF0000 then s.readMsix p f off
    else 0
  BitVec.ofNat 64 v

/-! ## Writes -/

/-- A write of a queue pair's registers (Table 23.8, R517). -/
def State.writeQp (s : State) (p : Port) (f : Func) (n off v : Nat) : State :=
  if !s.hasQp p f n then s
  else
    let q := s.qp p f n
    let conf (g : QueuePair → QueuePair) : State :=
      if q.st == .disabled then s.updQp p f n g else s.updQp p f n ({ · with cause := 12 })
    match off with
    | 0x00 => conf ({ · with sqBase := BitVec.ofNat 64 (v / 4096 * 4096) })
    | 0x08 => conf ({ · with sqSize := v % 2 ^ 17 })
    | 0x10 => conf ({ · with cqBase := BitVec.ofNat 64 (v / 4096 * 4096) })
    | 0x18 => conf ({ · with cqSize := v % 2 ^ 17 })
    | 0x20 => if v % 2 = 1 then s.qpEnableWrite p f n else s.qpDisableWrite p f n
    | 0x30 =>
      if s.msixSize p f ≤ v % 2 ^ 11 then s.updQp p f n ({ · with cause := 4 })
      else s.updQp p f n ({ · with msix := v % 2 ^ 11 })
    | _ => s

/-- A write of BQ_CTRL (R520): it enables, disables, or sets the fields of a disabled queue. -/
def State.writeBqCtrl (s : State) (p : Port) (m : Nat) (v : BitVec 64) : State :=
  if v.toNat % 2 = 1 then s.bqEnable p m v
  else
    let s1 := s.bqDisable p m
    s1.setBq p m fun b => { b with ctrl := bqCtrlValue b.ctrl v }

/-- A write of a batch queue's registers (Tables 23.12 to 23.14, R513, R521). -/
def State.writeBq (s : State) (p : Port) (f : Func) (m off : Nat) (v : BitVec 64) : State :=
  let b := s.bq p m
  let ring (ok : Bool) (g : BatchQueue → BatchQueue) : State :=
    if (b.enabled && b.ringSize != 0) || !ok then s.setBq p m ({ · with cause := 11 }) else s.setBq p m g
  if !s.mapsBq p f m (off == 0x38) then s
  else
    match off with
    | 0x00 => if f.val = 0 then s.writeBqCtrl p m v else s
    | 0x08 => if f.val = 0 then ring true ({ · with ringBase := BitVec.ofNat 64 (v.toNat / 4096 * 4096) }) else s
    | 0x10 =>
      let n := v.toNat % 2 ^ 13
      if f.val = 0 then ring (n ≤ 4096) ({ · with ringSize := n }) else s
    | 0x18 => if f.val = 0 then s.bqWm p m v else s
    | 0x38 => s.bqRelease p f m v
    | 0x50 => s.bqWant p f m v
    | _ => s

/-- A TIME_ADJ write (R379): an unassigned operation is ignored and counted. -/
def State.writeTimeAdj (s : State) (p : Port) (f : Func) (v : BitVec 64) : State :=
  let op := v.toNat / 2 ^ 60
  if op ≤ 5 then s.timeAdjWrite (.fn p f) op (v.extractLsb' 0 60) else s.countF p f .timeWriteIgnored

/-- An EVT_CTRL write (Table 24.7, R534). -/
def State.writeEvtCtrl (s : State) (p : Port) (f : Func) (v : Nat) : State :=
  let vec := bitsOf v 16 11
  let en := decide (bitsOf v 31 1 = 1)
  if en && s.msixSize p f ≤ vec then s
  else s.updFn p f ({ · with evClasses := BitVec.ofNat 12 (v / 2), evVector := vec, evVecEn := en })

/-- Clear the lost-event count (R534). -/
def State.clearLost (s : State) (p : Port) (f : Func) : State := s.updFn p f ({ · with evLost := 0 })

/-- Release of MBX_LOCK (R419, R535): the holder's ticket frees it; STATE goes to IDLE once no command is in progress. -/
def State.mbxRelease (s : State) (p : Port) (ticket : BitVec 32) : State :=
  let m := s.ports[p].mbx
  if m.holder.isSome && ticket == m.ticket then
    s.updPort p ({ · with mbx := { m with holder := none, st := if m.st == .busy then .busy else .idle } })
  else s.countF p 0 .mbxIgnored

/-- Codes of Table 18.3. -/
def kyvelCode (c : Nat) : Bool := (1 ≤ c && c ≤ 9) || (0x10 ≤ c && c ≤ 0x12)

/-- An MBX_CMD write (R418, R419, R421, R535): accepted from the holder while no command is BUSY; not ready, it completes
NOT_READY; a code that the table does not list completes UNSUPPORTED. -/
def State.writeMbxCmd (s : State) (p : Port) (v : BitVec 64) : State :=
  let m := s.ports[p].mbx
  let len := bitsOf v.toNat 16 16
  let t : BitVec 32 := v.extractLsb' 32 32
  if m.st == .busy || 2048 < len || m.holder.isNone || t != m.ticket then s.countF p 0 .mbxIgnored
  else
    let m1 := { m with
      cmd := v, cmdTicket := t, req := m.data.gets 0 len, st := .busy, arrival := s.arrivals, taken := false }
    let ends (st : Status) : Mailbox := { m1 with st := .done, status := st, length := 0 }
    let s1 := { s with arrivals := s.arrivals + 1 }
    s1.updPort p ({ · with mbx :=
      if !s.ready then ends .notReady else if kyvelCode (bitsOf v.toNat 0 16) then m1 else ends .unsupported })

/-- An MBX_DATA write (R535). -/
def State.writeMbxData (s : State) (p : Port) (off : Nat) (bs : List Byte) : State :=
  let m := s.ports[p].mbx
  if m.st == .busy then s.countF p 0 .mbxIgnored
  else s.updPort p ({ · with mbx := { m with data := m.data.sets off bs } })

/-- A write of the MSI-X table (R496): a vector that is unmasked with its Pending Bit set is signalled. -/
def State.writeMsix (s : State) (p : Port) (f : Func) (off : Nat) (bs : List Byte) : State :=
  let v := (off - 0xC0000) / 16
  if s.msixSize p f ≤ v then s
  else
    let e := (s.fn p f).msixEntry v
    let old := e.bytes
    let b := old.take (off % 16) ++ bs ++ old.drop (off % 16 + bs.length)
    let e1 := { e with
      addr := BitVec.ofNat 64 (field b 0 8), data := BitVec.ofNat 32 (field b 8 4), mask := decide (field b 12 4 % 2 = 1) }
    (s.updFn p f (·.setMsix e1)).firePending p f

/-- A write of the PORT block (Tables 23.5, 23.7). -/
def State.writePort (s : State) (p : Port) (f : Func) (off : Nat) (v : BitVec 64) : State :=
  match off with
  | 0x18 => if f.val = 0 && v.toNat % 8 < 6 then s.updPort p ({ · with cto := v.toNat % 8 }) else s
  | 0x28 =>
    let mask : BitVec 64 := if f.val = 0 then 0xFF else 0x3F
    s.updFn p f fun x => { x with portErr := x.portErr &&& ~~~(v &&& mask) }
  | _ => s

/-- A write of the PART block (Table 24.4). -/
def State.writePart (s : State) (p : Port) (f : Func) (off : Nat) (v : BitVec 64) : State :=
  if f.val ≠ 0 then s
  else
    match off with
    | 0x18 => s.updPort p ({ · with bar4Base := v.toNat % 256 })
    | 0x100 => s.updPort p ({ · with ledgerSel := v.setWidth 16 })
    | _ => s

/-- Before PORT_STATUS.READY only PORT_CTRL, EVT_CTRL, TIME_ADJ and the mailbox registers take writes, and QP_CTRL fails to
enable (Table 19.5); after a device-fatal error, the mailbox registers alone (20 R456, 18 R418). -/
def earlyWrite (fatal : Bool) (off : Nat) : Bool :=
  (0x80000 ≤ off && off < 0x81000) ||
  (!fatal && (off == 0x18 || off == 0x70010 || off == 0x60010 || (0x10000 ≤ off && off < 0x11000 && off % 0x40 == 0x20)))

/-- A write of BAR0 of 8 bytes (R512). -/
def State.write8 (s : State) (p : Port) (f : Func) (off : Nat) (v : BitVec 64) : State :=
  if off < 0x10000 then s.writePort p f off v
  else if off < 0x11000 then s.writeQp p f ((off - 0x10000) / 0x40) (off % 0x40) v.toNat
  else if 0x20000 ≤ off && off < 0x22000 then s.writeBq p f ((off - 0x20000) / 0x80) (off % 0x80) v
  else if 0x40000 ≤ off && off < 0x50000 then s.writePart p f (off - 0x40000) v
  else if off = 0x60010 then s.writeTimeAdj p f v
  else if off = 0x60020 then s.ptmStart p f
  else if off = 0x70008 then s.clearLost p f
  else if off = 0x70010 then s.writeEvtCtrl p f v.toNat
  else if f.val = 0 && off = 0x80000 then s.mbxRelease p (v.extractLsb' 32 32)
  else if f.val = 0 && off = 0x80008 then s.writeMbxCmd p v
  else s

/-- REGISTER_WRITE (R514, R512, R525, Table 19.5). MBX_DATA and the MSI-X table also take 4 bytes. -/
def State.registerWrite (s : State) (p : Port) (f : Func) (off : Nat) (w : Width) (v : BitVec 64) : State :=
  let n := match w with
    | .w4 => 4
    | .w8 => 8
  let bs := leBytes n v.toNat
  if !s.fnExists p f || (!s.ready && !earlyWrite s.boot.fatal off) then s
  else if f.val = 0 && 0x80800 ≤ off && off < 0x81000 then s.writeMbxData p (off - 0x80800) bs
  else if 0xC0000 ≤ off && off < 0xE0000 then s.writeMsix p f off bs
  else
    match w with
    | .w4 => s
    | .w8 => s.write8 p f off v

def execRegisterWrite (p : Port) (f : Func) (off : Nat) (w : Width) (v : BitVec 64) (s : State) :
    Host.Outcome State Fault Refusal := .next (s.registerWrite p f off w v)

/-! ## Event queue -/

/-- EVT_POP (R315): an 8-byte read returns and removes the oldest event word, 0 when there is none. -/
def State.evtPop (s : State) (p : Port) (f : Func) (w : Width) : State :=
  if !s.fnExists p f then s
  else
    match w, (s.fn p f).evq with
    | .w8, e :: rest => { s.updFn p f ({ · with evq := rest }) with rdata := .reg e }
    | _, _ => { s with rdata := .reg 0 }

def execEvtPop (p : Port) (f : Func) (w : Width) (s : State) : Host.Outcome State Fault Refusal := .next (s.evtPop p f w)

/-- EVT_COUNT (R534): an 8-byte write clears LOST. -/
def execEvtCount (p : Port) (f : Func) (w : Width) (s : State) : Host.Outcome State Fault Refusal :=
  .next (
    match w with
    | .w4 => s
    | .w8 => if s.fnExists p f && s.ready then s.clearLost p f else s)

/-- MBX_LOCK (R419, Table 24.9): a read takes a free lock with a new ticket, or shows the holder's. -/
def State.mbxLockRead (s : State) (p : Port) : State :=
  let m := s.ports[p].mbx
  match m.holder with
  | some _ => { s with rdata := .reg (BitVec.ofNat 64 (m.ticket.toNat * 2 ^ 32)) }
  | none =>
    let t := m.ticket + 1
    { s.updPort p ({ · with mbx := { m with holder := some (s.fn p 0).epoch, ticket := t } }) with
      rdata := .reg (BitVec.ofNat 64 (t.toNat * 2 ^ 32 + 1)) }

def execMbxLock (p : Port) (s : State) : Host.Outcome State Fault Refusal := .next (s.mbxLockRead p)

/-- MBX_LOCK_RELEASE (R419). -/
def execMbxLockRelease (p : Port) (ticket : BitVec 32) (s : State) : Host.Outcome State Fault Refusal :=
  .next (s.mbxRelease p ticket)

/-! ## BAR4 -/

/-- The window answers: it exists, the device is ready, the partition is there (R529, R530), the byte lies in the window
(R494). -/
def State.windowOpen (s : State) (p : Port) (off : Nat) : Bool :=
  s.ports[p].shape.bar4 && s.ready && s.parts[p].pstate != .notReady && off < s.ports[p].bar4Mib * 1048576

/-- An access waits: a cluster it touches sleeps and can be woken. -/
def State.windowSleeps (s : State) (p : Port) (off n : Nat) : List Cluster :=
  (s.windowClusters p off n).filter fun c => s.clusterOper c.val != .run && !(s.clusterOper c.val).down

/-- Bytes that a window read returns: 0xFF in a unit with an uncorrectable error (R531). -/
def State.windowRead (s : State) (p : Port) (off n : Nat) : List Byte :=
  (List.range n).map fun i =>
    match s.windowByte p (off + i) with
    | some (t, o) => if s.slabBad t (o / 64 * 64) 64 then 0xFF else s.slab.get (slabKey t o)
    | none => 0

/-- Tile and offset of each 64-byte unit with an uncorrectable error that a read meets. -/
def State.windowBad (s : State) (p : Port) (off n : Nat) : List (Nat × Nat) :=
  let starts := off :: ((List.range (n / 64 + 1)).map fun k => (off / 64 + 1 + k) * 64).filter (· < off + n)
  (starts.filterMap (s.windowByte p)).filter fun x => s.slabBad x.1 (x.2 / 64 * 64) 64

/-- Write bytes through the window, unit by unit (R531): a partial write keeps the unit's error mark. -/
def State.windowWrite (s : State) (p : Port) (off : Nat) (bs : List Byte) : State :=
  match s.windowByte p off with
  | some (t, o) => s.slabPut t o (bs.take (slabBytes - o))
  | none => s

/-- A write whose clusters are awake, cut where it passes from one tile's window to the next. -/
def State.windowStore (s : State) (p : Port) (off : Nat) (bs : List Byte) : State :=
  let cut := 33554432 - (s.ports[p].bar4Base * 16777216 + off) % 33554432
  (s.windowWrite p off (bs.take cut)).windowWrite p (off + cut) (bs.drop cut)

/-- What a read of n bytes marks: each unit with an uncorrectable error that it meets (R531). -/
def State.windowMarks (s : State) (p : Port) (off n : Nat) : State :=
  (s.windowBad p off n).foldl (fun a x => a.slabLost x.1 x.2) s

/-- An access waits: each sleeping cluster that it touches is thawed, and it completes after RUN (16 R373, Table 16.5). -/
def State.windowWaits (s : State) (p : Port) (w : WindowAccess) : State :=
  (s.windowSleeps p w.span.1 w.span.2).foldl (fun a c => a.startThaw c)
    (s.updPort p fun x => { x with windows := x.windows ++ [w] })

/-- An access that waited completes; the bytes of a read leave as its completion. -/
def State.windowDone (s : State) (p : Port) : WindowAccess → State
  | .read off n => (s.windowMarks p off n).send (.window p (s.windowRead p off n))
  | .write off bs => s.windowStore p off bs

/-- Accesses of a port that waited and whose clusters are all awake complete, in their order. -/
def State.takeWindows (s : State) (p : Port) : State :=
  let asleep (w : WindowAccess) : Bool := !(s.windowSleeps p w.span.1 w.span.2).isEmpty
  (s.ports[p].windows.filter fun w => !asleep w).foldl (fun a w => a.windowDone p w)
    (s.updPort p fun x => { x with windows := x.windows.filter asleep })

/-- BAR4_READ (R529 to R531, Table 16.5): the slab's bytes as they stand, in RUN. -/
def State.bar4Read (s : State) (p : Port) (off n : Nat) : State :=
  if !s.windowOpen p (off + n - 1) then { s with rdata := .bytes (List.replicate n 0) }
  else if !(s.windowSleeps p off n).isEmpty then s.windowWaits p (.read off n)
  else { s.windowMarks p off n with rdata := .bytes (s.windowRead p off n) }

def execBar4Read (p : Port) (off len : Nat) (s : State) : Host.Outcome State Fault Refusal := .next (s.bar4Read p off len)

/-- BAR4_WRITE (R530, R531). -/
def State.bar4Write (s : State) (p : Port) (off : Nat) (bs : List Byte) : State :=
  if !s.windowOpen p (off + bs.length - 1) then s
  else if !(s.windowSleeps p off bs.length).isEmpty then s.windowWaits p (.write off bs)
  else s.windowStore p off bs

def execBar4Write (p : Port) (off : Nat) (bytes : List Byte) (s : State) : Host.Outcome State Fault Refusal :=
  .next (s.bar4Write p off bytes)

/-- THAW_DONE (16 R368, R373, R374, R398; 14 R345): the domain reaches RUN; a cluster's tiles take the requests that waited, then
the BAR4 accesses that waited for it complete; a cluster out of service goes back to its sleep floor. -/
def State.thawDone (s : State) (d : Domain) : State :=
  match d with
  | .unit _ => s.reachRun d
  | .cluster c =>
    if s.clusters[c].thawing.isNone then s
    else ((List.finRange 6).foldl (fun a p => a.takeWindows p) ((s.reachRun d).takeHeld c)).parkCluster c

def execThawDone (d : Domain) (s : State) : Host.Outcome State Fault Refusal := .next (s.thawDone d)

end Sys2Proof.Machine
end

