-- ==== Sys2Proof/Machine/Orlys.lean ====
section
/-! DEFINITION. The Kyvel commands of Table 18.3, over a PF's mailbox and over the management path, and the ledger's admin
transitions (18 R409, R410, R418 to R433, 16 R374, 03 R82, 17 R395, 20 R471). -/

namespace Sys2Proof.Machine

/-! ## Taking a command and answering it -/

/-- The transport carries management messages (R409, R422): SMBus while Orlys or the boot ROM runs, VDM on the floor owner's
port while that PF is in D0. -/
def State.transportUp (s : State) (tr : Transport) : Bool :=
  s.porN &&
  match tr with
  | .smbus => s.boot.floorChecked || s.boot.recovery
  | .vdm p => s.boot.floorChecked && s.floorOwnerPort == some p && s.ports[p].linkUp && !s.asleepFn p 0

/-- A FLOOR_* message over a VDM of another port than the floor owner's (R422; log 111). -/
def State.foreignFloor (s : State) (tr : Transport) (code : Nat) : Bool :=
  (code == 0x10 || code == 0x11 || code == 0x12) &&
  match tr with
  | .smbus => false
  | .vdm p => s.porN && s.boot.floorChecked && s.ports[p].linkUp && !s.asleepFn p 0

/-- A Kyvel message with n bytes of request data is within the 1,088 bytes of an assembled message: message type, enterprise
number, command code and reserved bytes come with them (R409, R410). -/
def kyvelFits (n : Nat) : Bool := 9 + n ≤ 1088

/-- SMBALERT_n: low while the management event queue holds an event (R412). -/
def State.smbalertN (s : State) : Bool := s.mgmtQueue.isEmpty

/-- A commit of FLOOR_COMMIT waits or is under way. -/
def State.floorCommitOpen (s : State) : Bool :=
  let ky (c : Commit) : Bool :=
    match c.asker with
    | .kyvel _ => true
    | _ => false
  s.commitQ.any ky || s.verified.any (ky ·.commit) || s.floorChange.any (ky ·.commit)

/-- Orlys serves a command that it has not answered yet: a self-test, a scrub or a floor commit (R418). -/
def State.orlysBusy (s : State) : Bool :=
  s.ports.any (·.mbx.taken) || s.ledger.any (·.selfTest.isSome) || s.floorCommitOpen ||
  s.parts.any fun x => x.scrubAskers.any fun a =>
    match a with
    | .kyvel _ => true
    | _ => false

/-- It is the source's turn (R418): Orlys serves no other command, and no mailbox command arrived earlier; a message of the
management path comes after the mailbox commands that wait. After a device-fatal error what is still served has no order. -/
def State.kyTurn (s : State) (src : MgmtSrc) : Bool :=
  s.boot.fatal || (!s.orlysBusy &&
    match src with
    | .mbx p => s.ports.all fun q => q.mbx.st != .busy || s.ports[p].mbx.arrival ≤ q.mbx.arrival
    | .mgmt _ => s.ports.all fun q => q.mbx.st != .busy)

/-- The answer to a Kyvel command: its status and response data; none while it is answered later. -/
abbrev KyAnswer := Option (Status × List Byte)

/-- MBX_DATA and MBX_STATUS at DONE (R420): the response from offset 0, the bytes beyond it as they were; with the lock released,
STATE is IDLE (R535). -/
def State.mbxAnswer (s : State) (p : Port) (a : Status × List Byte) : State :=
  s.updPort p fun q => { q with mbx := { q.mbx with
    st := if q.mbx.holder.isSome then .done else .idle
    status := a.1, length := a.2.length, taken := false, data := q.mbx.data.sets 0 a.2 } }

/-- Serve a Kyvel command in its turn (R418, R421): the mailbox's own command, or a message of a transport. `fatalOk`: served
after a device-fatal error too (20 R456). -/
def State.kyvel (s : State) (src : MgmtSrc) (code : Nat) (req : List Byte) (fatalOk : Bool) (body : State → State × KyAnswer) :
    State :=
  match src with
  | .mbx p =>
    let m := s.ports[p].mbx
    if m.st == .busy && m.cmd.toNat % 65536 == code && m.req == req && s.ready && s.kyTurn src then
      let x := body s
      x.2.elim (x.1.updPort p fun q => { q with mbx := { q.mbx with taken := true } }) fun a => x.1.mbxAnswer p a
    else s
  | .mgmt tr =>
    if s.boot.recovery || !kyvelFits req.length then s
    else if !s.transportUp tr then
      if s.foreignFloor tr code then s.send (.kyvel tr code .unsupported []) else s
    else if !s.boot.modules || (s.boot.fatal && !fatalOk) then s.send (.kyvel tr code .notReady [])
    else if !s.kyTurn src then s
    else
      let x := body s
      x.2.elim x.1 fun a => x.1.send (.kyvel tr code a.1 a.2)

/-- Answer with a status and no data. -/
def kySay (s : State) (st : Status) : State × KyAnswer := (s, some (st, []))

/-- The PF behind a source. -/
def srcPf : MgmtSrc → Option Port
  | .mbx p => some p
  | .mgmt _ => none

/-! ## The ledger -/

/-- LEDGER_READ (R421, R84): the word, filtered for a PF; all ones where no unit has the name (log 22). -/
def State.kyLedgerRead (s : State) (src : MgmtSrc) (req : List Byte) : State × KyAnswer :=
  match unitOfCode (field req 0 1) (field req 2 2) with
  | none => (s, some (.ok, leBytes 8 (2 ^ 64 - 1)))
  | some u => (s.thawUnit u true, some (.ok, leBytes 8 (s.seenWord (srcPf src) u).toNat))

def execLedgerRead (src : MgmtSrc) (req : List Byte) (s : State) : Host.Outcome State Fault Refusal :=
  .next (s.kyvel src 0x01 req false fun s => s.kyLedgerRead src req)

/-- The units whose work a unit's drain waits for: for a cluster, all of its units. -/
def drainUnits (u : UnitId) : List UnitId := if u.ty == .cluster then clusterUnits u.idx else [u]

/-- A unit holds no item (R429). -/
def State.unitEmpty (s : State) (u : UnitId) : Bool :=
  (drainUnits u).all fun v => !s.unitHolds v && !(v.ty == .tile && s.tileBusy (tix v.idx))

/-- A cluster's admin state out of service parks it. -/
def State.parkUnit (s : State) (u : UnitId) : State :=
  match u.ty with
  | .cluster => s.parkCluster (Fin.ofNat 16 u.idx)
  | _ => s

/-- ADMIN_DRAIN_END (R429): a DRAINING unit that holds no item takes the state it drains toward. -/
def State.drainEnd (s : State) (u : UnitId) : State :=
  if u.valid && (s.ledgerWord u).admin == .draining && s.unitEmpty u then
    (s.ledgerMod u fun w => { w with admin := w.drainTo }).parkUnit u
  else s

def execAdminDrainEnd (u : UnitId) (s : State) : Host.Outcome State Fault Refusal := .next (s.drainEnd u)

/-- An admin target (Table 18.3). -/
def adminTarget : Nat → Option Admin
  | 0 => some .inService
  | 2 => some .outOfService
  | 3 => some .maintenance
  | _ => none

/-- The transitions of Table 18.5. -/
def State.adminMove (s : State) (u : UnitId) (t : Admin) : State :=
  let w := s.ledgerWord u
  if w.admin = t then s
  else
    match w.admin, t with
    | .inService, _ => (s.ledgerMod u fun w => { w with admin := .draining, drainTo := t }).drainEnd u
    | .draining, .inService => s.ledgerMod u fun w => { w with admin := .inService }
    | .draining, _ => s.ledgerMod u fun w => { w with drainTo := t }
    | _, _ => (s.ledgerMod u fun w => { w with admin := t }).parkUnit u

/-- The present word as response data. -/
def State.wordData (s : State) (u : UnitId) : List Byte := leBytes 8 (s.ledgerWord u).word.toNat

/-- A PF may command only units that its partition owns (Table 18.6). -/
def State.mayCommand (s : State) (src : MgmtSrc) (u : UnitId) : Bool :=
  match srcPf src with
  | none => true
  | some p => !sharedUnit u && ownerPort (s.ledgerWord u).owner == some p

/-- LEDGER_ADMIN (R428 to R430, Table 18.6). -/
def State.kyLedgerAdmin (s : State) (src : MgmtSrc) (req : List Byte) : State × KyAnswer :=
  match unitOfCode (field req 0 1) (field req 2 2), adminTarget (field req 8 1) with
  | some u, some t =>
    if !s.mayCommand src u then kySay s .bounds
    else if (s.ledgerWord u).gen.toNat != field req 4 4 then (s.thawUnit u true, some (.stateStale, s.wordData u))
    else
      let s1 := (s.thawUnit u true).adminMove u t
      (s1, some (.ok, s1.wordData u))
  | _, _ => kySay s .badDescriptor

def execLedgerAdmin (src : MgmtSrc) (req : List Byte) (s : State) : Host.Outcome State Fault Refusal :=
  .next (s.kyvel src 0x02 req false fun s => s.kyLedgerAdmin src req)

/-- FAULT_CLEAR (R431): management only; the self-test runs and answers when it ends. -/
def State.kyFaultClear (s : State) (src : MgmtSrc) (req : List Byte) : State × KyAnswer :=
  match srcPf src, unitOfCode (field req 0 1) (field req 2 2) with
  | some _, _ => kySay s .unsupported
  | none, none => kySay s .badDescriptor
  | none, some u =>
    let w := s.ledgerWord u
    if field req 8 1 != 0 then kySay s .badDescriptor
    else if w.gen.toNat != field req 4 4 || w.admin != .maintenance then
      (s.thawUnit u true, some (.stateStale, s.wordData u))
    else ((s.thawUnit u true).ledgerMod u ({ · with selfTest := some src }), none)

def execFaultClear (src : MgmtSrc) (req : List Byte) (s : State) : Host.Outcome State Fault Refusal :=
  .next (s.kyvel src 0x03 req false fun s => s.kyFaultClear src req)

/-- Oper state that the hardware reports of a unit whose fault is cleared (R431; log 23): a cluster and its units are where
R374 put the cluster, any other unit runs. -/
def State.reportedOper (s : State) (u : UnitId) : Oper :=
  match unitCluster u with
  | some c =>
    let o := s.clusterOper c.val
    if o.down then floorOper (s.powerRecord c).sleepFloor else o
  | none => .run

/-- SELF_TEST_DONE (R431): no failing bit clears the fault summary; else it holds the failing bits with SELF_TEST. -/
def State.selfTestEnd (s : State) (u : UnitId) (bits : BitVec 16) : State :=
  match (s.ledgerWord u).selfTest with
  | none => s
  | some src =>
    if !u.valid then s
    else
      let o := s.reportedOper u
      let s1 := s.ledgerMod u fun w =>
        if bits = 0 then { w with fault := 0, ceCount := 0, ceLast := none, oper := if w.oper == .fenced then .fenced else o, selfTest := none }
        else { w with fault := bits &&& 0x3FFF ||| 0x40, oper := .faulted, selfTest := none }
      match src with
      | .mgmt tr => s1.send (.kyvel tr 0x03 .ok (s1.wordData u))
      | .mbx p => s1.mbxAnswer p (.ok, s1.wordData u)

def execSelfTestDone (u : UnitId) (bits : BitVec 16) (s : State) : Host.Outcome State Fault Refusal :=
  .next (s.selfTestEnd u bits)

/-! ## Partitions, power, the log, time, firmware -/

/-- The source is the floor owner on the management path (R66, R82, R422). -/
def State.floorLoader (s : State) (src : MgmtSrc) : Option Loader :=
  match src with
  | .mbx _ => none
  | .mgmt tr =>
    if s.floorSel = 6 then some .mgmt
    else
      match tr with
      | .vdm p => if s.floorOwnerPort = some p then some (.port p) else none
      | .smbus => none

/-- PART_SCRUB (R82, R421): a PF's own partition, or any for the floor owner on the management path; any other source is one
that Table 18.3 does not list. -/
def State.kyPartScrub (s : State) (src : MgmtSrc) (req : List Byte) : State × KyAnswer :=
  let q := field req 0 1
  match src with
  | .mbx p =>
    if q != p.val then kySay s .unsupported
    else if s.parts[p].place.isNone then kySay s .notReady
    else (s.startScrub p false .nobody, none)
  | .mgmt tr =>
    if (s.floorLoader src).isNone then kySay s .unsupported
    else if 5 < q then kySay s .badDescriptor
    else
      if s.parts[pix q].place.isNone then kySay s .notReady
      else (s.startScrub (pix q) false (.kyvel tr), none)

def execPartScrub (src : MgmtSrc) (req : List Byte) (s : State) : Host.Outcome State Fault Refusal :=
  .next (s.kyvel src 0x04 req false fun s => s.kyPartScrub src req)

/-- Response of POWER_READ (Table 18.3). -/
def State.powerData (s : State) : List Byte :=
  leBytes 2 s.power.cap ++ leBytes 1 s.power.throt ++ [0] ++ leBytes 2 s.power.effCap ++ [0, 0] ++ leBytes 4 s.power.pkg

/-- A cap and a THROT within their ranges (R394, Table 18.2). -/
def capOk (w : Nat) : Bool := 150 ≤ w && w ≤ 750
def throtOk (t : Nat) : Bool := 70 ≤ t && t ≤ 100

/-- POWER_SET (R395): 0 keeps a value; a value outside its range is refused and nothing changes. -/
def State.kyPowerSet (s : State) (src : MgmtSrc) (req : List Byte) : State × KyAnswer :=
  let w := field req 0 2
  let t := field req 2 1
  let allowed := (srcPf src).elim true fun p => s.floorOwnerPort == some p
  if !allowed then kySay s .unsupported
  else if (w != 0 && !capOk w) || (t != 0 && !throtOk t) then kySay s .badDescriptor
  else
    let s1 := s.setCaps (if w = 0 then s.power.cap else w) (if t = 0 then s.power.throt else t)
    (s1, some (.ok, s1.powerData))

def execPowerSet (src : MgmtSrc) (req : List Byte) (s : State) : Host.Outcome State Fault Refusal :=
  .next (s.kyvel src 0x05 req false fun s => s.kyPowerSet src req)

/-- POWER_READ. -/
def execPowerRead (src : MgmtSrc) (req : List Byte) (s : State) : Host.Outcome State Fault Refusal :=
  .next (s.kyvel src 0x06 req false fun s => (s, some (.ok, s.powerData)))

/-- The 32 bytes of a moraine entry (20 Table 20.9). -/
def Moraine.bytes (e : Moraine) : List Byte :=
  leBytes 4 e.seq.toNat ++ leBytes 1 e.kind ++ leBytes 1 e.part ++ leBytes 2 e.start.toNat ++ leBytes 8 e.time.toNat ++
    leBytes 8 e.word.toNat ++ leBytes 8 e.data.toNat

/-- MORAINE_READ (20 R471): the entries of the asked sequences that are still held, at most 64; a PF sees those of its
partition or of none. -/
def State.kyMoraineRead (s : State) (src : MgmtSrc) (req : List Byte) : State × KyAnswer :=
  let first : BitVec 32 := BitVec.ofNat 32 (field req 0 4)
  let n := field req 4 2
  let es := s.moraine.filter fun e =>
    (e.seq - first).toNat < n && (srcPf src).elim true fun p => e.part == p.val || e.part == 0xFF
  (s, some (.ok, (es.take 64).flatMap Moraine.bytes))

def execMoraineRead (src : MgmtSrc) (req : List Byte) (s : State) : Host.Outcome State Fault Refusal :=
  .next (s.kyvel src 0x07 req true fun s => s.kyMoraineRead src req)

/-- TIME_ADJ over the management path (16 R379). -/
def State.kyTimeAdj (s : State) (src : MgmtSrc) (req : List Byte) : State × KyAnswer :=
  let v := field req 0 8
  if (srcPf src).isSome || !s.isTimeOwner .mgmt then kySay s .unsupported
  else if 5 < v / 2 ^ 60 then kySay s .badDescriptor
  else
    let s1 := s.timeAdjWrite .mgmt (v / 2 ^ 60) (BitVec.ofNat 60 v)
    (s1, some (.ok, leBytes 8 (s1.timeStatus false).toNat))

def execTimeAdj (src : MgmtSrc) (req : List Byte) (s : State) : Host.Outcome State Fault Refusal :=
  .next (s.kyvel src 0x08 req false fun s => s.kyTimeAdj src req)

/-- FW_INFO response (Table 18.3): the firmware that was booted, and a fallback of either component (R417). -/
def State.fwData (s : State) : List Byte :=
  let m := s.boot.running
  let pend := s.flash.fwPending.bind fun b => s.flash.fw[b].info
  leBytes 8 (m.elim 0 (·.version.toNat)) ++ leBytes 8 (pend.elim 0 (·.version.toNat)) ++
    leBytes 4 (m.elim 0 (·.securityVersion.toNat)) ++ leBytes 1 s.boot.bank ++ leBytes 1 (s.boot.fallback || s.boot.floorFallback).toNat ++ [0, 0] ++
    leBytes 8 s.floorVersion.toNat

/-- FW_INFO. -/
def execFwInfo (src : MgmtSrc) (req : List Byte) (s : State) : Host.Outcome State Fault Refusal :=
  .next (s.kyvel src 0x09 req false fun s => (s, some (.ok, s.fwData)))

/-! ## Floor images over the management path (R422) -/

/-- The eight bytes of two results. -/
def Result.data (r : Result) : List Byte := leBytes 4 r.r0 ++ leBytes 4 r.r1

/-- A floor command: refused UNSUPPORTED unless its source is the floor owner's, NOT_READY before step 12 (Table 19.5). -/
def State.floorCommand (s : State) (src : MgmtSrc) (body : Loader → State × KyAnswer) : State × KyAnswer :=
  match s.floorLoader src with
  | none => kySay s .unsupported
  | some ld => if s.ready then body ld else kySay s .notReady

/-- FLOOR_BEGIN. -/
def State.kyFloorBegin (s : State) (ld : Loader) (req : List Byte) : State × KyAnswer :=
  if !zeros req 6 2 then kySay s .badDescriptor
  else if field req 4 1 != 1 && (s.session? ld).isNone && sizeOk (field req 0 4) then
    let f := noField 0x03
    (s.setImgError ld f, some (.imageInvalid, f.result.data))
  else
    let x := s.beginSession ld (field req 0 4) (field req 4 1) (field req 5 1) (padTo 48 (slice req 8 48))
    (x.1, some (x.2.st, x.2.data))

def execFloorBegin (src : MgmtSrc) (req : List Byte) (s : State) : Host.Outcome State Fault Refusal :=
  .next (s.kyvel src 0x10 req false fun s => s.floorCommand src fun ld => s.kyFloorBegin ld req)

/-- FLOOR_CHUNK: up to 1,024 bytes. -/
def State.kyFloorChunk (s : State) (ld : Loader) (req : List Byte) : State × KyAnswer :=
  if req.length ≤ 8 || 1032 < req.length then kySay s .badDescriptor
  else
    let x := s.chunk ld (field req 0 4) (field req 4 4) (req.drop 8)
    (x.1, some (x.2.st, x.2.data))

def execFloorChunk (src : MgmtSrc) (req : List Byte) (s : State) : Host.Outcome State Fault Refusal :=
  .next (s.kyvel src 0x11 req false fun s => s.floorCommand src fun ld => s.kyFloorChunk ld req)

/-- FLOOR_COMMIT: answered when the commit ends, or at once and with no change when EXPECT_VERSION is not the applied floor's
(R428). -/
def State.kyFloorCommit (s : State) (tr : Transport) (ld : Loader) (req : List Byte) : State × KyAnswer :=
  let f := field req 4 1
  if 3 < f || !zeros req 5 3 then kySay s .badDescriptor
  else
    match s.openSession ld (field req 0 4) with
    | none => (s, some (.stateStale, (s.sessionStale ld).data))
    | some z =>
      let want := BitVec.ofNat 64 (field req 8 8)
      if !s.expects ld z.floor want then (s, some (.stateStale, (s.versionStale ld z.floor).data))
      else
        ({ s.queueCommit ld z
            { arrival := s.arrivals, kind := .session ld, asker := .kyvel tr, abortInFlight := f % 2 = 1
              verifyOnly := bitsOf f 1 1 = 1, expect := want } with arrivals := s.arrivals + 1 }, none)

def execFloorCommit (src : MgmtSrc) (req : List Byte) (s : State) : Host.Outcome State Fault Refusal :=
  .next (s.kyvel src 0x12 req false fun s => s.floorCommand src fun ld =>
    match src with
    | .mgmt tr => s.kyFloorCommit tr ld req
    | .mbx _ => kySay s .unsupported)

end Sys2Proof.Machine
end

