-- ==== Sys2Proof/Machine/Mgmt.lean ====
section
/-! DEFINITION. MCTP control, PLDM base, sensors and effecters, the management event queue, and PLDM firmware update
(18 R409 to R416, Table 18.2). Completion codes and byte layouts that the manual leaves to DSP0236, DSP0240, DSP0248 and
DSP0267 are PRESUMED or open (log 10). -/

namespace Sys2Proof.Machine

/-! ## MCTP control (R410) -/

/-- Answer an MCTP control command when the transport carries it. -/
def State.mctp (s : State) (tr : Transport) (body : State → State × Nat × List Byte) : State :=
  if s.transportUp tr then
    let x := body s
    x.1.send (.mctp tr x.2.1 x.2.2)
  else s

/-- Set Endpoint ID: 0 and 0xFF are no endpoint IDs. -/
def execSetEndpointId (tr : Transport) (eid : Byte) (s : State) : Host.Outcome State Fault Refusal :=
  .next (s.mctp tr fun s => if eid = 0 || eid = 0xFF then (s, 2, []) else ({ s with eid := eid }, 0, [0, eid, 0]))

/-- Get Endpoint ID. -/
def execGetEndpointId (tr : Transport) (s : State) : Host.Outcome State Fault Refusal :=
  .next (s.mctp tr fun s => (s, 0, [s.eid, 0, 0]))

/-- Get Endpoint UUID: the spec gives no UUID. -/
def execGetEndpointUuid (tr : Transport) (s : State) : Host.Outcome State Fault Refusal :=
  .next (s.mctp tr fun s => (s, 0, standardBytes 10 16))

/-- Get MCTP Version Support. -/
def execGetMctpVersionSupport (tr : Transport) (s : State) : Host.Outcome State Fault Refusal :=
  .next (s.mctp tr fun s => (s, 0, standardBytes 11 5))

/-- Get Message Type Support: 0x00, 0x01 and 0x7F. -/
def execGetMessageTypeSupport (tr : Transport) (s : State) : Host.Outcome State Fault Refusal :=
  .next (s.mctp tr fun s => (s, 0, [3, 0x00, 0x01, 0x7F]))

/-- Get Vendor Defined Message Support: IANA, enterprise number 0x0000_B7A4. -/
def execGetVendorDefinedMessageSupport (tr : Transport) (s : State) : Host.Outcome State Fault Refusal :=
  .next (s.mctp tr fun s => (s, 0, [0xFF, 1] ++ beBytes 4 0xB7A4 ++ standardBytes 12 2))

/-! ## PLDM (R411) -/

/-- PLDM completion codes of DSP0240 (log 10). -/
def pldmOk : Nat := 0
def pldmInvalidData : Nat := 2
def pldmNotReady : Nat := 4
def pldmUnsupported : Nat := 5

/-- Answer a PLDM command: before the runtime modules run it is ERROR_NOT_READY (Table 19.5); in recovery only firmware
update is offered (19 R441). `monitor`: served after a device-fatal error (20 R456). -/
def State.pldm (s : State) (tr : Transport) (fu monitor : Bool) (body : State → State × Nat × List Byte) : State :=
  if !s.transportUp tr then s
  else if s.boot.recovery then
    if fu then
      let x := body s
      x.1.send (.pldm tr x.2.1 x.2.2)
    else s.send (.pldm tr pldmUnsupported [])
  else if !s.boot.modules || (s.boot.fatal && !monitor) then s.send (.pldm tr pldmNotReady [])
  else
    let x := body s
    x.1.send (.pldm tr x.2.1 x.2.2)

/-- Commands supported, as type and code (R411; codes PRESUMED, log 10). -/
def pldmCommands : List (Nat × Nat) :=
  [(0, 1), (0, 2), (0, 3), (0, 4), (0, 5),
   (2, 0x0B), (2, 0x11), (2, 0x21), (2, 0x31), (2, 0x32), (2, 0x50), (2, 0x51),
   (5, 0x01), (5, 0x02), (5, 0x10), (5, 0x13), (5, 0x14), (5, 0x15), (5, 0x16), (5, 0x17), (5, 0x18), (5, 0x1A), (5, 0x1B),
   (5, 0x1C), (5, 0x1D)]

/-- PLDM types supported: base, monitoring and control, firmware update. -/
def pldmType (ty : Nat) : Bool := ty == 0 || ty == 2 || ty == 5

/-- GetTID. -/
def execGetTid (tr : Transport) (s : State) : Host.Outcome State Fault Refusal :=
  .next (s.pldm tr false true fun s => (s, pldmOk, [s.tid]))

/-- SetTID: 0x00 and 0xFF are reserved. -/
def execSetTid (tr : Transport) (tid : Byte) (s : State) : Host.Outcome State Fault Refusal :=
  .next (s.pldm tr false true fun s =>
    if tid = 0 || tid = 0xFF then (s, pldmInvalidData, []) else ({ s with tid := tid }, pldmOk, []))

/-- GetPLDMVersion. -/
def execGetPldmVersion (tr : Transport) (ty : Byte) (s : State) : Host.Outcome State Fault Refusal :=
  .next (s.pldm tr false true fun s =>
    if pldmType ty.toNat then (s, pldmOk, standardBytes (16 + ty.toNat) 9) else (s, 0x83, []))

/-- GetPLDMTypes. -/
def execGetPldmTypes (tr : Transport) (s : State) : Host.Outcome State Fault Refusal :=
  .next (s.pldm tr false true fun s => (s, pldmOk, padTo 8 [0x25]))

/-- GetPLDMCommands: bit c of the 32-byte map for command c of the type. -/
def execGetPldmCommands (tr : Transport) (ty : Byte) (s : State) : Host.Outcome State Fault Refusal :=
  .next (s.pldm tr false true fun s =>
    if pldmType ty.toNat then
      let m := ((pldmCommands.filter (·.1 == ty.toNat)).map fun c => 2 ^ c.2).foldl (· + ·) 0
      (s, pldmOk, leBytes 32 m)
    else (s, 0x83, []))

/-- Any other PLDM command (R411). -/
def execPldmUnsupported (tr : Transport) (ty cmd : Byte) (s : State) : Host.Outcome State Fault Refusal :=
  .next (
    if pldmCommands.contains (ty.toNat, cmd.toNat) then s else s.pldm tr false true fun s => (s, pldmUnsupported, []))

/-! ## Sensors and effecters (R413, R414) -/

/-- Operating point of a setting, in MHz (17 R396). -/
def settingMhz (i : Nat) : Nat := if i < 7 then 800 else if i = 7 then 1200 else if i = 8 then 1600 else 2000

/-- Duty of a setting, in sixteenths. -/
def settingDuty (i : Nat) : Nat := if i < 7 then 4 + 2 * i else 16

/-- TJ: the highest reading of the die sensors (17 R402). -/
def Power.tj (x : Power) : Int := (x.temps.toList.take 28).foldl max (x.temps[0])

/-- A cluster sensor: it reads 0 until step 12 (Table 19.5). -/
def State.clusterSensor (s : State) (n : Nat) (mhz : Bool) : Int :=
  let c : Cluster := Fin.ofNat 16 n
  if !s.boot.ready then 0
  else if mhz then (if s.clusterOper c.val == .run then settingMhz s.power.running[c] else 0)
  else settingDuty s.power.running[c]

/-- Reading of a numeric sensor of Table 18.2. -/
def State.sensor (s : State) (id : Nat) : Option Int :=
  let x := s.power
  if id = 1 then some (x.pkg / 100)
  else if id = 2 then some x.effCap
  else if id = 3 then some x.tj
  else if id = 4 then some x.cap
  else if id = 5 then some x.throt
  else if 0x10 ≤ id && id ≤ 0x18 then some (x.rails[Fin.ofNat 9 (id - 0x10)]).1
  else if 0x20 ≤ id && id ≤ 0x28 then some (x.rails[Fin.ofNat 9 (id - 0x20)]).2
  else if 0x40 ≤ id && id ≤ 0x5B then some x.temps[Fin.ofNat 36 (id - 0x40)]
  else if 0x60 ≤ id && id ≤ 0x67 then some x.temps[Fin.ofNat 36 (id - 0x60 + 28)]
  else if 0x80 ≤ id && id ≤ 0x8F then some (s.clusterSensor (id - 0x80) true)
  else if 0x90 ≤ id && id ≤ 0x9F then some (s.clusterSensor (id - 0x90) false)
  else none

/-- GetSensorReading: a signed 32-bit reading. -/
def execGetSensorReading (tr : Transport) (id : BitVec 16) (s : State) : Host.Outcome State Fault Refusal :=
  .next (s.pldm tr false true fun s =>
    match s.sensor id.toNat with
    | some v => (s, pldmOk, [5, 0, 0] ++ standardBytes 13 3 ++ leBytes 4 (ofSigned 32 v))
    | none => (s, 0x80, []))

/-- GetStateSensorReadings: the time base and the trip latch. -/
def execGetStateSensorReadings (tr : Transport) (id : BitVec 16) (s : State) : Host.Outcome State Fault Refusal :=
  .next (s.pldm tr false true fun s =>
    let answer (v : Nat) : State × Nat × List Byte := (s, pldmOk, [1, 0] ++ leBytes 1 v ++ standardBytes 14 2)
    if id = 0xA0 then answer (bit s.time.valid 0 + bit s.time.locked 1 + bit s.time.holdover 2)
    else if id = 0xA1 then answer (bit (!s.thermtripN) 0)
    else (s, 0x80, []))

/-- GetNumericEffecterValue: pending and present value. -/
def execGetNumericEffecterValue (tr : Transport) (id : BitVec 16) (s : State) : Host.Outcome State Fault Refusal :=
  .next (s.pldm tr false true fun s =>
    let answer (v : Nat) : State × Nat × List Byte := (s, pldmOk, [2, 0] ++ leBytes 2 v ++ leBytes 2 v)
    if id = 0x101 then answer s.power.cap else if id = 0x102 then answer s.power.throt else (s, 0x80, []))

/-- SetNumericEffecterValue (R414): an out-of-range value is ERROR_INVALID_DATA and changes nothing. -/
def execSetNumericEffecterValue (tr : Transport) (id : BitVec 16) (v : Nat) (s : State) : Host.Outcome State Fault Refusal :=
  .next (s.pldm tr false false fun s =>
    if id = 0x101 then (if capOk v then (s.setCaps v s.power.throt, pldmOk, []) else (s, pldmInvalidData, []))
    else if id = 0x102 then (if throtOk v then (s.setCaps s.power.cap v, pldmOk, []) else (s, pldmInvalidData, []))
    else (s, 0x80, []))

/-- Kinds of row of Table 18.2. -/
inductive PdrKind where
  | sensor | stateSensor | effecter
  deriving DecidableEq, Repr

/-- A row of Table 18.2, one for each ID: kind, unit and power of ten of the reading, update period as the bits of a number of
seconds in binary32 (0: on change), and the range of an effecter. Unit codes are those of DSP0248 (PRESUMED, log 10):
2 degrees Celsius, 5 volts, 6 amperes, 7 watts, 20 hertz, 1 unspecified. -/
structure Pdr where
  kind : PdrKind
  id : Nat
  unit : Nat
  scale : Int
  period : Nat
  lo : Nat
  hi : Nat
  deriving DecidableEq, Repr

/-- 1 ms and 100 µs in seconds. -/
def perMs : Nat := 0x3A83126F
def per100us : Nat := 0x38D1B717

/-- The rows of the n sensors from an ID on. -/
def sensorRows (id n unit : Nat) (scale : Int) (period : Nat) : List Pdr :=
  (List.range n).map fun k => { kind := .sensor, id := id + k, unit := unit, scale := scale, period := period, lo := 0, hi := 0 }

/-- Table 18.2. -/
def pdrs : List Pdr :=
  sensorRows 0x01 1 7 (-1) perMs ++ sensorRows 0x02 1 7 0 0 ++ sensorRows 0x03 1 2 (-1) per100us ++
  sensorRows 0x04 1 7 0 0 ++ sensorRows 0x05 1 2 0 0 ++
  sensorRows 0x10 9 5 (-3) perMs ++ sensorRows 0x20 9 6 (-1) perMs ++
  sensorRows 0x40 28 2 (-1) per100us ++ sensorRows 0x60 8 2 (-1) perMs ++
  sensorRows 0x80 16 20 6 0 ++ sensorRows 0x90 16 1 0 0 ++
  [{ kind := .stateSensor, id := 0xA0, unit := 0, scale := 0, period := 0, lo := 0, hi := 0 },
   { kind := .stateSensor, id := 0xA1, unit := 0, scale := 0, period := 0, lo := 0, hi := 0 },
   { kind := .effecter, id := 0x101, unit := 7, scale := 0, period := 0, lo := 150, hi := 750 },
   { kind := .effecter, id := 0x102, unit := 2, scale := 0, period := 0, lo := 70, hi := 100 }]

/-- One PDR each. -/
def pdrCount : Nat := pdrs.length

/-- The open bytes of a PDR: what DSP0248 asks for and the manual does not give. -/
def Pdr.open (x : Pdr) (part n : Nat) : List Byte := standardBytes (256 + 8 * x.id + part) n

/-- The body of a PDR in the layout of DSP0248 (log 10): identity, unit and scale, 32-bit signed readings, update interval; for
an effecter 16-bit values and their range. -/
def Pdr.body (x : Pdr) : List Byte :=
  x.open 0 2 ++ leBytes 2 x.id ++ x.open 1 6 ++
  match x.kind with
  | .sensor =>
    x.open 2 2 ++ leBytes 1 x.unit ++ leBytes 1 (ofSigned 8 x.scale) ++ x.open 3 7 ++ [1, 5] ++ x.open 4 21 ++
      leBytes 4 x.period ++ x.open 5 10
  | .stateSensor => x.open 2 2 ++ [1] ++ x.open 3 4
  | .effecter =>
    x.open 2 4 ++ leBytes 1 x.unit ++ leBytes 1 (ofSigned 8 x.scale) ++ x.open 3 6 ++ [1, 2] ++ x.open 4 20 ++
      leBytes 2 x.hi ++ leBytes 2 x.lo ++ x.open 5 2

/-- PDR type codes of DSP0248. -/
def PdrKind.code : PdrKind → Nat
  | .sensor => 2 | .stateSensor => 4 | .effecter => 9

/-- A PDR with its header: handle, version 1, type, change number 0, length. -/
def Pdr.record (x : Pdr) (handle : Nat) : List Byte :=
  leBytes 4 handle ++ [1] ++ leBytes 1 x.kind.code ++ leBytes 2 0 ++ leBytes 2 x.body.length ++ x.body

/-- GetPDR's data: the next handle, or 0 after the last record, the whole record in one transfer. -/
def pdrAnswer (handle : Nat) (x : Pdr) : List Byte :=
  let r := x.record handle
  leBytes 4 (if handle < pdrCount then handle + 1 else 0) ++ leBytes 4 0 ++ [5] ++ leBytes 2 r.length ++ r

/-- GetPDRRepositoryInfo. -/
def execGetPdrRepositoryInfo (tr : Transport) (s : State) : Host.Outcome State Fault Refusal :=
  .next (s.pldm tr false true fun s => (s, pldmOk, [0] ++ standardBytes 15 26 ++ leBytes 4 pdrCount ++ standardBytes 8 9))

/-- GetPDR: the record of a handle, 1 to 95; handle 0 is the first record. -/
def execGetPdr (tr : Transport) (handle : Nat) (s : State) : Host.Outcome State Fault Refusal :=
  .next (s.pldm tr false true fun s =>
    let h := max 1 handle
    (pdrs[h - 1]?).elim (s, 0x82, []) fun x => (s, pldmOk, pdrAnswer h x))

/-- PollForPlatformEventMessage (R412): returns and removes the oldest management event, eventClass 0xF0. -/
def execPollForPlatformEventMessage (tr : Transport) (s : State) : Host.Outcome State Fault Refusal :=
  .next (s.pldm tr false true fun s =>
    match s.mgmtQueue with
    | [] => (s, pldmOk, [s.tid, 0, 0])
    | w :: rest =>
      ({ s with mgmtQueue := rest }, pldmOk,
        [s.tid] ++ standardBytes 9 2 ++ leBytes 4 0 ++ [5, 0xF0] ++ leBytes 4 8 ++ leBytes 8 w.toNat))

/-! ## Firmware update (R415, R416) -/

/-- Completion codes of DSP0267 (log 10). -/
def fuNotInUpdate : Nat := 0x80
def fuAlready : Nat := 0x81
def fuInvalidState : Nat := 0x84
def fuSelfContained : Nat := 0x8C

/-- Code of a firmware-update state. -/
def FuState.code : FuState → Nat
  | .idle => 0 | .learnComponents => 1 | .readyXfer => 2 | .download => 3 | .verify => 4 | .apply => 5 | .activate => 6

/-- The bank that is not active. -/
def otherBank (b : Fin 2) : Fin 2 := if b = 0 then 1 else 0

/-- Change the inactive bank of the component under update; a bank that is written again is pending no longer (R434). -/
def State.markInactive (s : State) (floor valid : Bool) (info : Option FwMeta) (raw : List Byte) : State :=
  let f := s.flash
  if floor then
    let b := otherBank f.floorActive
    { s with flash := { f with floor := f.floor.set b raw, floorValid := f.floorValid.set b valid, floorPending := none } }
  else
    { s with flash := { f with fw := f.fw.set (otherBank f.fwActive) { valid := valid, info := info, raw := raw }, fwPending := none } }

/-- A component that the P7 offers: in recovery ORLYS_FW alone (19 R441). -/
def State.offers (s : State) (comp : BitVec 16) : Bool := comp == 1 || (comp == 2 && !s.boot.recovery)

/-- QueryDeviceIdentifiers. -/
def execQueryDeviceIdentifiers (tr : Transport) (s : State) : Host.Outcome State Fault Refusal :=
  .next (s.pldm tr true false fun s => (s, pldmOk, standardBytes 7 4 ++ leBytes 4 0xB7A4))

/-- GetFirmwareParameters: per component its identifier, active and pending version. -/
def execGetFirmwareParameters (tr : Transport) (s : State) : Host.Outcome State Fault Refusal :=
  .next (s.pldm tr true false fun s =>
    let f := s.flash
    let ver (b : Fin 2) : Nat := f.fw[b].info.elim 0 (·.version.toNat)
    (s, pldmOk,
      leBytes 2 1 ++ leBytes 8 (ver f.fwActive) ++ leBytes 8 (f.fwPending.elim 0 ver) ++
      leBytes 2 2 ++ leBytes 8 (imgVersion f.floor[f.floorActive]) ++
      leBytes 8 (f.floorPending.elim 0 fun b => imgVersion f.floor[b])))

/-- RequestUpdate: enters update mode. -/
def execRequestUpdate (tr : Transport) (s : State) : Host.Outcome State Fault Refusal :=
  .next (s.pldm tr true false fun s =>
    if s.fu.st == .idle then ({ s with fu := { FwUpdate.reset with st := .learnComponents } }, pldmOk, [])
    else (s, fuAlready, []))

/-- PassComponentTable: a component that is not offered is answered as not updatable. -/
def execPassComponentTable (tr : Transport) (comp : BitVec 16) (s : State) : Host.Outcome State Fault Refusal :=
  .next (s.pldm tr true false fun s =>
    match s.fu.st with
    | .idle => (s, fuNotInUpdate, [])
    | .learnComponents =>
      if s.offers comp then ({ s with fu := { s.fu with st := .readyXfer } }, pldmOk, [0, 0]) else (s, pldmOk, [1, 6])
    | _ => (s, fuInvalidState, []))

/-- Size of a component's bank (R415). -/
def bankBytes (comp : BitVec 16) : Nat := if comp = 1 then 16777216 else 65536

/-- UpdateComponent: the transfer into the inactive bank starts; the bank is no longer valid. -/
def execUpdateComponent (tr : Transport) (comp : BitVec 16) (size : Nat) (s : State) : Host.Outcome State Fault Refusal :=
  .next (s.pldm tr true false fun s =>
    match s.fu.st with
    | .idle => (s, fuNotInUpdate, [])
    | .readyXfer =>
      if s.offers comp && size ≤ bankBytes comp then
        let floor := comp == 2
        ({ s.markInactive floor false none [] with
            fu := { FwUpdate.reset with st := .download, floorComp := floor, size := size } }, pldmOk, [0, 0])
      else (s, pldmOk, [1, 6])
    | _ => (s, fuInvalidState, []))

/-- Bytes of the next request (R415). -/
def FwUpdate.wanted (x : FwUpdate) : Nat := min 1024 (x.size - x.bytes.length)

/-- The P7's own requests of an update go on: the transport is up and no device-fatal error stopped Orlys (20 R456). -/
def State.updateUp (s : State) (tr : Transport) : Bool := s.transportUp tr && !s.boot.fatal

/-- Send a request of the update that the P7 itself makes (codes of DSP0267, log 10). -/
def State.pldmAsk (s : State) (tr : Transport) (cmd : Nat) (data : List Byte) : State := s.send (.pldmRequest tr cmd data)

/-- REQUEST_FIRMWARE_DATA (R415): the P7 asks for the next 1,024 bytes of the component, or what is left of it, and takes
them. -/
def execRequestFirmwareData (tr : Transport) (data : List Byte) (s : State) : Host.Outcome State Fault Refusal :=
  .next (
    if s.updateUp tr && s.fu.st == .download && data.length == s.fu.wanted && data.length != 0 then
      ({ s with fu := { s.fu with bytes := s.fu.bytes ++ data } }).pldmAsk tr 0x15
        (leBytes 4 s.fu.bytes.length ++ leBytes 4 s.fu.wanted)
    else s)

/-- TRANSFER_COMPLETE (R416): the P7 reports it, and the verification enters the commit queue as an entry of the management port. -/
def execTransferComplete (tr : Transport) (s : State) : Host.Outcome State Fault Refusal :=
  .next (
    if s.updateUp tr && s.fu.st == .download && s.fu.wanted = 0 then
      ({ s with
        fu := { s.fu with st := .verify, verdict := none }
        arrivals := s.arrivals + 1
        commitQ := placeCommit
          { arrival := s.arrivals, kind := .firmware s.fu.floorComp, asker := .nobody, abortInFlight := false
            verifyOnly := false, expect := BitVec.allOnes 64 } s.commitQ }).pldmAsk tr 0x16 [0]
    else s)

/-- The component passes (R416). -/
def FwUpdate.passes (x : FwUpdate) (m : FwMeta) : Bool :=
  x.verdict == some true && (x.floorComp || (m.authentic && Config.fusedMinSecurity ≤ m.securityVersion))

/-- VERIFY_COMPLETE (R416): the P7 reports the verdict, result 0 or 1; a failure marks the inactive bank invalid and is
logged. -/
def execVerifyComplete (tr : Transport) (m : FwMeta) (s : State) : Host.Outcome State Fault Refusal :=
  .next (
    if !(s.updateUp tr && s.fu.st == .verify && s.fu.verdict.isSome) then s
    else if s.fu.passes m then
      ({ s with fu := { s.fu with st := .apply, info := some m } }).pldmAsk tr 0x17 [0]
    else
      (({ s.markInactive s.fu.floorComp false none [] with fu := { s.fu with st := .readyXfer } }).logMoraine 2 0xFF
        (BitVec.ofNat 64 s.boot.bank) (m.version)).pldmAsk tr 0x17 [1])

/-- APPLY_COMPLETE (R415, R416): the bank holds the component, valid and pending; the P7 reports it. -/
def execApplyComplete (tr : Transport) (s : State) : Host.Outcome State Fault Refusal :=
  .next (
    if !(s.updateUp tr && s.fu.st == .apply) then s
    else
      let x := s.fu
      let s1 := s.markInactive x.floorComp true x.info x.bytes
      let f := s1.flash
      let f1 : Flash :=
        if x.floorComp then { f with floorPending := some (otherBank f.floorActive) }
        else { f with fwPending := some (otherBank f.fwActive) }
      ({ s1 with flash := f1, fu := { x with st := .readyXfer } }).pldmAsk tr 0x18 [0, 0, 0])

/-- ActivateFirmware (R416): only SelfContainedActivationRequest = false; activation is at the next release of POR_n. -/
def execActivateFirmware (tr : Transport) (selfContained : Bool) (s : State) : Host.Outcome State Fault Refusal :=
  .next (s.pldm tr true false fun s =>
    match s.fu.st with
    | .idle => (s, fuNotInUpdate, [])
    | .readyXfer =>
      if selfContained then (s, fuSelfContained, []) else ({ s with fu := FwUpdate.reset }, pldmOk, [0, 0])
    | _ => (s, fuInvalidState, []))

/-- GetStatus. -/
def execGetStatus (tr : Transport) (s : State) : Host.Outcome State Fault Refusal :=
  .next (s.pldm tr true true fun s => (s, pldmOk, leBytes 1 s.fu.st.code ++ standardBytes 6 10))

/-- Give up the component under way: its verification leaves the commit queue. -/
def State.dropFirmware (s : State) : State :=
  { s with commitQ := s.commitQ.filter fun c => match c.kind with
      | .firmware _ => false
      | _ => true }

/-- CancelUpdateComponent. -/
def execCancelUpdateComponent (tr : Transport) (s : State) : Host.Outcome State Fault Refusal :=
  .next (s.pldm tr true false fun s =>
    match s.fu.st with
    | .idle => (s, fuNotInUpdate, [])
    | .download | .verify | .apply =>
      ({ s.dropFirmware with fu := { FwUpdate.reset with st := .readyXfer } }, pldmOk, [])
    | _ => (s, fuInvalidState, []))

/-- CancelUpdate. -/
def execCancelUpdate (tr : Transport) (s : State) : Host.Outcome State Fault Refusal :=
  .next (s.pldm tr true false fun s =>
    match s.fu.st with
    | .idle => (s, fuNotInUpdate, [])
    | _ => ({ s.dropFirmware with fu := FwUpdate.reset }, pldmOk, [0] ++ padTo 8 []))

end Sys2Proof.Machine
end

