-- ==== Sys2Proof/Machine/Dispatch.lean ====
section
/-! DEFINITION. One arm per command: its meaning, or its mnemonic where it has none yet. -/

namespace Sys2Proof.Machine

/-- The effect of a command on everything but the queue. -/
def exec (i : Instr) (s : State) : Host.Outcome State Fault Refusal :=
  match i with
  | .nop p k => Sys2Proof.Machine.execNop p k s
  | .ingestRecords p k => Sys2Proof.Machine.execIngestRecords p k s
  | .ingestColumns p k => Sys2Proof.Machine.execIngestColumns p k s
  | .ingestFrame p k => Sys2Proof.Machine.execIngestFrame p k s
  | .gather p k => Sys2Proof.Machine.execGather p k s
  | .select p k => Sys2Proof.Machine.execSelect p k s
  | .sample p k => Sys2Proof.Machine.execSample p k s
  | .compress p k => Sys2Proof.Machine.execCompress p k s
  | .decompress p k => Sys2Proof.Machine.execDecompress p k s
  | .flush p k => Sys2Proof.Machine.execFlush p k s
  | .batchClose p k => Sys2Proof.Machine.execBatchClose p k s
  | .tableReplaceWrite p k => Sys2Proof.Machine.execTableReplaceWrite p k s
  | .tableReplaceSwap p k => Sys2Proof.Machine.execTableReplaceSwap p k s
  | .swap p k => Sys2Proof.Machine.execSwap p k s
  | .firnLoad p k => Sys2Proof.Machine.execFirnLoad p k s
  | .firnSwap p k => Sys2Proof.Machine.execFirnSwap p k s
  | .ageTick p k => Sys2Proof.Machine.execAgeTick p k s
  | .epochSet p k => Sys2Proof.Machine.execEpochSet p k s
  | .queueMark p k => Sys2Proof.Machine.execQueueMark p k s
  | .queueRewind p k => Sys2Proof.Machine.execQueueRewind p k s
  | .queueRelease p k => Sys2Proof.Machine.execQueueRelease p k s
  | .bqRelease p f m upto => Sys2Proof.Machine.execBqRelease p f m upto s
  | .abort p k => Sys2Proof.Machine.execAbort p k s
  | .imageBegin p k => Sys2Proof.Machine.execImageBegin p k s
  | .imageChunk p k => Sys2Proof.Machine.execImageChunk p k s
  | .imageCommit p k => Sys2Proof.Machine.execImageCommit p k s
  | .imageUnload p k => Sys2Proof.Machine.execImageUnload p k s
  | .commitVerify => Sys2Proof.Machine.execCommitVerify s
  | .pointOfNoReturn => Sys2Proof.Machine.execPointOfNoReturn s
  | .floorApply => Sys2Proof.Machine.execFloorApply s
  | .partitionDrained p => Sys2Proof.Machine.execPartitionDrained p s
  | .structureWriteDone p => Sys2Proof.Machine.execStructureWriteDone p s
  | .lockResolution p f => Sys2Proof.Machine.execLockResolution p f s
  | .sqTail p f n v => Sys2Proof.Machine.execSqTail p f n v s
  | .cqHead p f n v => Sys2Proof.Machine.execCqHead p f n v s
  | .thawDone d => Sys2Proof.Machine.execThawDone d s
  | .fetchTurn p => Sys2Proof.Machine.execFetchTurn p s
  | .dispatch p ty => Sys2Proof.Machine.execDispatch p ty s
  | .serviceStart p k => Sys2Proof.Machine.execServiceStart p k s
  | .itemComplete p k => Sys2Proof.Machine.execItemComplete p k s
  | .completionBurst p f n => Sys2Proof.Machine.execCompletionBurst p f n s
  | .speculativeRead p k => Sys2Proof.Machine.execSpeculativeRead p k s
  | .segmentSwitch u => Sys2Proof.Machine.execSegmentSwitch u s
  | .tilePass t => Sys2Proof.Machine.execTilePass t s
  | .passBeat t => Sys2Proof.Machine.execPassBeat t s
  | .continuation p k => Sys2Proof.Machine.execContinuation p k s
  | .decodeRecord p k => Sys2Proof.Machine.execDecodeRecord p k s
  | .decodeWindowComplete p k => Sys2Proof.Machine.execDecodeWindowComplete p k s
  | .windowFinished p k => Sys2Proof.Machine.execWindowFinished p k s
  | .sampleArrival t => Sys2Proof.Machine.execSampleArrival t s
  | .bankSwap p m => Sys2Proof.Machine.execBankSwap p m s
  | .shuffleEpochReset p m => Sys2Proof.Machine.execShuffleEpochReset p m s
  | .packSlotWrite p m => Sys2Proof.Machine.execPackSlotWrite p m s
  | .delivery p m => Sys2Proof.Machine.execDelivery p m s
  | .deliveryComplete p m => Sys2Proof.Machine.execDeliveryComplete p m s
  | .bqWant p f m v => Sys2Proof.Machine.execBqWant p f m v s
  | .bqPop p f m w => Sys2Proof.Machine.execBqPop p f m w s
  | .bqEnable p m v => Sys2Proof.Machine.execBqEnable p m v s
  | .bqDisable p m => Sys2Proof.Machine.execBqDisable p m s
  | .bqWm p m v => Sys2Proof.Machine.execBqWm p m v s
  | .qpEnable p f n => Sys2Proof.Machine.execQpEnable p f n s
  | .qpDisable p f n => Sys2Proof.Machine.execQpDisable p f n s
  | .evtPop p f w => Sys2Proof.Machine.execEvtPop p f w s
  | .evtCount p f w => Sys2Proof.Machine.execEvtCount p f w s
  | .timeNowLo p f w => Sys2Proof.Machine.execTimeNowLo p f w s
  | .set src d => Sys2Proof.Machine.execSet src d s
  | .step src d => Sys2Proof.Machine.execStep src d s
  | .setAtPps src d => Sys2Proof.Machine.execSetAtPps src d s
  | .rate src d => Sys2Proof.Machine.execRate src d s
  | .discipline src d => Sys2Proof.Machine.execDiscipline src d s
  | .timeInvalidate src d => Sys2Proof.Machine.execTimeInvalidate src d s
  | .ppsEdge => Sys2Proof.Machine.execPpsEdge s
  | .holdoverEntry => Sys2Proof.Machine.execHoldoverEntry s
  | .timePtmHost p f => Sys2Proof.Machine.execTimePtmHost p f s
  | .ptmDialogueEnd p f host offset => Sys2Proof.Machine.execPtmDialogueEnd p f host offset s
  | .bar4Read p off len => Sys2Proof.Machine.execBar4Read p off len s
  | .bar4Write p off bytes => Sys2Proof.Machine.execBar4Write p off bytes s
  | .mbxLock p => Sys2Proof.Machine.execMbxLock p s
  | .mbxLockRelease p ticket => Sys2Proof.Machine.execMbxLockRelease p ticket s
  | .registerWrite p f off w v => Sys2Proof.Machine.execRegisterWrite p f off w v s
  | .ledgerRead src req => Sys2Proof.Machine.execLedgerRead src req s
  | .ledgerAdmin src req => Sys2Proof.Machine.execLedgerAdmin src req s
  | .adminDrainEnd u => Sys2Proof.Machine.execAdminDrainEnd u s
  | .faultClear src req => Sys2Proof.Machine.execFaultClear src req s
  | .selfTestDone u bits => Sys2Proof.Machine.execSelfTestDone u bits s
  | .partScrub src req => Sys2Proof.Machine.execPartScrub src req s
  | .powerSet src req => Sys2Proof.Machine.execPowerSet src req s
  | .powerRead src req => Sys2Proof.Machine.execPowerRead src req s
  | .moraineRead src req => Sys2Proof.Machine.execMoraineRead src req s
  | .timeAdj src req => Sys2Proof.Machine.execTimeAdj src req s
  | .fwInfo src req => Sys2Proof.Machine.execFwInfo src req s
  | .floorBegin src req => Sys2Proof.Machine.execFloorBegin src req s
  | .floorChunk src req => Sys2Proof.Machine.execFloorChunk src req s
  | .floorCommit src req => Sys2Proof.Machine.execFloorCommit src req s
  | .setEndpointId tr eid => Sys2Proof.Machine.execSetEndpointId tr eid s
  | .getEndpointId tr => Sys2Proof.Machine.execGetEndpointId tr s
  | .getEndpointUuid tr => Sys2Proof.Machine.execGetEndpointUuid tr s
  | .getMctpVersionSupport tr => Sys2Proof.Machine.execGetMctpVersionSupport tr s
  | .getMessageTypeSupport tr => Sys2Proof.Machine.execGetMessageTypeSupport tr s
  | .getVendorDefinedMessageSupport tr => Sys2Proof.Machine.execGetVendorDefinedMessageSupport tr s
  | .getTid tr => Sys2Proof.Machine.execGetTid tr s
  | .setTid tr tid => Sys2Proof.Machine.execSetTid tr tid s
  | .getPldmVersion tr ty => Sys2Proof.Machine.execGetPldmVersion tr ty s
  | .getPldmTypes tr => Sys2Proof.Machine.execGetPldmTypes tr s
  | .getPldmCommands tr ty => Sys2Proof.Machine.execGetPldmCommands tr ty s
  | .getSensorReading tr id => Sys2Proof.Machine.execGetSensorReading tr id s
  | .getStateSensorReadings tr id => Sys2Proof.Machine.execGetStateSensorReadings tr id s
  | .getNumericEffecterValue tr id => Sys2Proof.Machine.execGetNumericEffecterValue tr id s
  | .setNumericEffecterValue tr id v => Sys2Proof.Machine.execSetNumericEffecterValue tr id v s
  | .getPdrRepositoryInfo tr => Sys2Proof.Machine.execGetPdrRepositoryInfo tr s
  | .getPdr tr handle => Sys2Proof.Machine.execGetPdr tr handle s
  | .pollForPlatformEventMessage tr => Sys2Proof.Machine.execPollForPlatformEventMessage tr s
  | .pldmUnsupported tr ty cmd => Sys2Proof.Machine.execPldmUnsupported tr ty cmd s
  | .queryDeviceIdentifiers tr => Sys2Proof.Machine.execQueryDeviceIdentifiers tr s
  | .getFirmwareParameters tr => Sys2Proof.Machine.execGetFirmwareParameters tr s
  | .requestUpdate tr => Sys2Proof.Machine.execRequestUpdate tr s
  | .passComponentTable tr comp => Sys2Proof.Machine.execPassComponentTable tr comp s
  | .updateComponent tr comp size => Sys2Proof.Machine.execUpdateComponent tr comp size s
  | .requestFirmwareData tr data => Sys2Proof.Machine.execRequestFirmwareData tr data s
  | .transferComplete tr => Sys2Proof.Machine.execTransferComplete tr s
  | .verifyComplete tr m => Sys2Proof.Machine.execVerifyComplete tr m s
  | .applyComplete tr => Sys2Proof.Machine.execApplyComplete tr s
  | .activateFirmware tr selfContained => Sys2Proof.Machine.execActivateFirmware tr selfContained s
  | .getStatus tr => Sys2Proof.Machine.execGetStatus tr s
  | .cancelUpdateComponent tr => Sys2Proof.Machine.execCancelUpdateComponent tr s
  | .cancelUpdate tr => Sys2Proof.Machine.execCancelUpdate tr s
  | .measurementRequest p idx => Sys2Proof.Machine.execMeasurementRequest p idx s
  | .keyExchange p => Sys2Proof.Machine.execKeyExchange p s
  | .finish p ok => Sys2Proof.Machine.execFinish p ok s
  | .query p => Sys2Proof.Machine.execQuery p s
  | .keyProg p rx => Sys2Proof.Machine.execKeyProg p rx s
  | .kSetGo p rx => Sys2Proof.Machine.execKSetGo p rx s
  | .kSetStop p rx => Sys2Proof.Machine.execKSetStop p rx s
  | .doeAbort p => Sys2Proof.Machine.execDoeAbort p s
  | .ideCheckFailed p => Sys2Proof.Machine.execIdeCheckFailed p s
  | .configurationRequest p f r => Sys2Proof.Machine.execConfigurationRequest p f r s
  | .vfEnable p on => Sys2Proof.Machine.execVfEnable p on s
  | .flr p f => Sys2Proof.Machine.execFlr p f s
  | .d3hotEntry p f => Sys2Proof.Machine.execD3hotEntry p f s
  | .d3hotExit p f => Sys2Proof.Machine.execD3hotExit p f s
  | .perstAssert p => Sys2Proof.Machine.execPerstAssert p s
  | .hotReset p => Sys2Proof.Machine.execHotReset p s
  | .linkDown p => Sys2Proof.Machine.execLinkDown p s
  | .linkUp p lanes rate flit => Sys2Proof.Machine.execLinkUp p lanes rate flit s
  | .l1Entry p sub => Sys2Proof.Machine.execL1Entry p sub s
  | .l1Exit p => Sys2Proof.Machine.execL1Exit p s
  | .hostReadCompletion p f tok off r => Sys2Proof.Machine.execHostReadCompletion p f tok off r s
  | .completionTimeout p f tok off => Sys2Proof.Machine.execCompletionTimeout p f tok off s
  | .read m => Sys2Proof.Machine.execRead m s
  | .write m data => Sys2Proof.Machine.execWrite m data s
  | .datPush m rxq data => Sys2Proof.Machine.execDatPush m rxq data s
  | .readData m data => Sys2Proof.Machine.execReadData m data s
  | .writeAck m => Sys2Proof.Machine.execWriteAck m s
  | .invalidate p src dst table bucket => Sys2Proof.Machine.execInvalidate p src dst table bucket s
  | .snpAck m => Sys2Proof.Machine.execSnpAck m s
  | .credit m => Sys2Proof.Machine.execCredit m s
  | .error m => Sys2Proof.Machine.execError m s
  | .reservationGrant p n => Sys2Proof.Machine.execReservationGrant p n s
  | .fence p stop => Sys2Proof.Machine.execFence p stop s
  | .fenceAck p stop => Sys2Proof.Machine.execFenceAck p stop s
  | .unfence p stop => Sys2Proof.Machine.execUnfence p stop s
  | .flitCrcError l => Sys2Proof.Machine.execFlitCrcError l s
  | .deviceRouteRewrite => Sys2Proof.Machine.execDeviceRouteRewrite s
  | .errorDetected e => Sys2Proof.Machine.execErrorDetected e s
  | .hystIdleExpiry c => Sys2Proof.Machine.execHystIdleExpiry c s
  | .hystFloorExpiry c => Sys2Proof.Machine.execHystFloorExpiry c s
  | .unitIdleEntry u => Sys2Proof.Machine.execUnitIdleEntry u s
  | .unitOffEntry u => Sys2Proof.Machine.execUnitOffEntry u s
  | .sleepEntryDone d => Sys2Proof.Machine.execSleepEntryDone d s
  | .capEvaluation a => Sys2Proof.Machine.execCapEvaluation a s
  | .opFrequencySwitch c => Sys2Proof.Machine.execOpFrequencySwitch c s
  | .pmbusTelemetry r => Sys2Proof.Machine.execPmbusTelemetry r s
  | .pmbusStatusPoll addr r => Sys2Proof.Machine.execPmbusStatusPoll addr r s
  | .sensorSample temps => Sys2Proof.Machine.execSensorSample temps s
  | .hbmSensorRead temps => Sys2Proof.Machine.execHbmSensorRead temps s
  | .thermalStepDown c => Sys2Proof.Machine.execThermalStepDown c s
  | .thermalStepUp c => Sys2Proof.Machine.execThermalStepUp c s
  | .thermalTrip sensor temp => Sys2Proof.Machine.execThermalTrip sensor temp s
  | .pwrbrkFall => Sys2Proof.Machine.execPwrbrkFall s
  | .pwrbrkLift => Sys2Proof.Machine.execPwrbrkLift s
  | .vrhotFall hot => Sys2Proof.Machine.execVrhotFall hot s
  | .vrhotLimitStep => Sys2Proof.Machine.execVrhotLimitStep s
  | .vrhotRecoveryStep => Sys2Proof.Machine.execVrhotRecoveryStep s
  | .hstopFall p => Sys2Proof.Machine.execHstopFall p s
  | .hstopRise p => Sys2Proof.Machine.execHstopRise p s
  | .porAssert => Sys2Proof.Machine.execPorAssert s
  | .porRelease floorSel bootSrc => Sys2Proof.Machine.execPorRelease floorSel bootSrc s
  | .ledgerInit => Sys2Proof.Machine.execLedgerInit s
  | .bootAuthenticate => Sys2Proof.Machine.execBootAuthenticate s
  | .defaultFloorVerify => Sys2Proof.Machine.execDefaultFloorVerify s
  | .runtimeModulesStart => Sys2Proof.Machine.execRuntimeModulesStart s
  | .phyBringup p => Sys2Proof.Machine.execPhyBringup p s
  | .railSwitchOn a => Sys2Proof.Machine.execRailSwitchOn a s
  | .hbmInit pair okLo okHi => Sys2Proof.Machine.execHbmInit pair okLo okHi s
  | .defaultFloorApply => Sys2Proof.Machine.execDefaultFloorApply s
  | .tapReset => Sys2Proof.Machine.execTapReset s
  | .idcode => Sys2Proof.Machine.execIdcode s
  | .samplePreload cells => Sys2Proof.Machine.execSamplePreload cells s
  | .extest => Sys2Proof.Machine.execExtest s
  | .extestPulse => Sys2Proof.Machine.execExtestPulse s
  | .extestTrain => Sys2Proof.Machine.execExtestTrain s
  | .highz => Sys2Proof.Machine.execHighz s
  | .jtagClamp => Sys2Proof.Machine.execJtagClamp s
  | .bypass code => Sys2Proof.Machine.execBypass code s
  | .crystalEdge pps => Sys2Proof.Machine.execCrystalEdge pps s
  | .aonClockStart => Sys2Proof.Machine.execAonClockStart s
  | .removalOfPower => Sys2Proof.Machine.execRemovalOfPower s
  | .slabZeroingDone p => Sys2Proof.Machine.execSlabZeroingDone p s
  | .floorWriteDone => Sys2Proof.Machine.execFloorWriteDone s

end Sys2Proof.Machine
end

