-- ==== Sys2Proof/Safety.lean ====
section
/-! DEFINITION. What counts as a safe state of the P7, and the words the claims use: what a command completes with, and which
part of the state alone it may have changed. -/

namespace Sys2Proof

open Machine

/-! ## Safe states -/

/-- The memories whose unlisted bytes read zero are in canonical form; HBM lists rising addresses. -/
def memoriesOk (s : State) : Bool := s.slab.wf && s.host.wf && s.hbm.sorted

/-- Cap and THROT stay in their ranges (17 R394, R403). -/
def powerOk (s : State) : Bool := 150 ≤ s.power.cap && s.power.cap ≤ 750 && 70 ≤ s.power.throt && s.power.throt ≤ 100

/-- No ledger generation is 0 (18 R425, R426). -/
def ledgerOk (s : State) : Bool := s.ledger.toList.all fun w => w.gen != 0

/-- A state in which the rules above hold. -/
def Safe (s : State) : Prop := memoriesOk s = true ∧ powerOk s = true ∧ ledgerOk s = true

/-- The heads and tails of a queue pair that is not DISABLED lie in its rings (13 R293 to R298). -/
def QueuesOk (s : State) : Prop :=
  ∀ (p : Port) (f : Func) (n : Nat), (s.qp p f n).st ≠ .disabled →
    (s.qp p f n).sqHead < (s.qp p f n).sqSize ∧ (s.qp p f n).sqTail < (s.qp p f n).sqSize ∧
    (s.qp p f n).cqHead < (s.qp p f n).cqSize ∧ (s.qp p f n).cqTail < (s.qp p f n).cqSize

/-- The items of a port have numbers of their own, none above the count of descriptors fetched, and none with a port's
opcode is admitted (13 R298, R301, R308). -/
def ItemsOk (s : State) : Prop :=
  ∀ p : Port, (s.ports[p].items.map (·.key)).Nodup ∧
    ∀ i ∈ s.ports[p].items, i.key ≤ s.ports[p].fetchNo ∧ (i.seq.isSome = true → isPortOp i.opcode = false)

/-! ## Completion and frames -/

/-- The command completes in s: it answers a next state, which has the property. -/
def Runs (c : Instr) (s : State) (P : State → Prop) : Prop := ∃ t, exec c s = .next t ∧ P t

/-- Nothing but port p differs between s and t. -/
def OnlyPort (p : Port) (s t : State) : Prop := t = s.updPort p fun _ => t.ports[p]

/-- Nothing but function f of port p differs between s and t. -/
def OnlyFn (p : Port) (f : Func) (s t : State) : Prop := t = s.updFn p f fun _ => t.fn p f

/-- Nothing but queue pair n of the function differs between s and t. -/
def OnlyQp (p : Port) (f : Func) (n : Nat) (s t : State) : Prop := t = s.updQp p f n fun _ => t.qp p f n

/-- Nothing but partition p differs between s and t. -/
def OnlyPart (p : Port) (s t : State) : Prop := t = s.updPart p fun _ => t.parts[p]

/-- Nothing but batch queue m of the partition differs between s and t. -/
def OnlyBq (p : Port) (m : Fin 64) (s t : State) : Prop := t = s.updBq p m fun _ => t.parts[p].bq[m]

/-- Nothing but item k of port p differs between s and t. -/
def OnlyItem (p : Port) (k : Nat) (s t : State) : Prop := ∃ g, t = s.updItem p k g

/-- Nothing but the time base differs between s and t. -/
def OnlyTime (s t : State) : Prop := t = { s with time := t.time }

/-- Nothing but the time base and the moraine log differs between s and t. -/
def OnlyTimeAndLog (s t : State) : Prop :=
  t = { s with time := t.time, moraine := t.moraine, moraineSeq := t.moraineSeq }

/-- Nothing but power and heat differs between s and t. -/
def OnlyPower (s t : State) : Prop := t = { s with power := t.power }

/-- Exactly one entry has entered the moraine log. -/
def OneLogged (kind : Nat) (s t : State) : Prop :=
  t.moraineSeq = s.moraineSeq + 1 ∧ (t.moraine.getLast?.map (·.kind)) = some kind

/-- Every byte of every slab, of every HBM stack and of every host's memory reads in t as it read in s. -/
def SameMemory (s t : State) : Prop := t.slab = s.slab ∧ t.hbm = s.hbm ∧ t.host = s.host

/-- Nothing differs between s and t but what posting events changes: event queues and their pins, the management queue, the
moraine log, messages sent (13 R315 to R318, 18 R412). -/
def OnlyPosted (s t : State) : Prop :=
  t = { s with
    ports := t.ports, moraine := t.moraine, moraineSeq := t.moraineSeq, mgmtQueue := t.mgmtQueue, msgs := t.msgs } ∧
  ∀ p : Port, t.ports[p] = { s.ports[p] with fns := t.ports[p].fns, evStaging := t.ports[p].evStaging } ∧ ∀ f : Func, t.fn p f = { s.fn p f with
    evq := (t.fn p f).evq, evLost := (t.fn p f).evLost, portErr := (t.fn p f).portErr, msix := (t.fn p f).msix
    pmeStatus := (t.fn p f).pmeStatus }

/-- Nothing but ledger words and the count of their changes differs between s and t, and of the words only those of the
units named. -/
def OnlyWords (us : List UnitId) (s t : State) : Prop :=
  t = { s with ledger := t.ledger, ledgerChanges := t.ledgerChanges } ∧
  ∀ u : UnitId, u.valid = true → u ∉ us → t.ledgerWord u = s.ledgerWord u

/-- Each unit named that is neither FAULTED nor FENCED has this oper state in t, with a new generation where it changed (16
R375, 18 R425). -/
def TakesOper (us : List UnitId) (o : Oper) (s t : State) : Prop :=
  ∀ u ∈ us, (s.ledgerWord u).oper.down = false →
    (t.ledgerWord u).oper = o ∧
    (t.ledgerWord u).gen = if (s.ledgerWord u).oper = o then (s.ledgerWord u).gen else nextGen (s.ledgerWord u).gen

/-- In t, item k of port p is COMPLETING with this status and these results. -/
def Completed (p : Port) (k : Nat) (st : Status) (r0 r1 : Nat) (t : State) : Prop :=
  ∃ j, t.item? p k = some j ∧ j.st = .completing ∧ j.status = st ∧ j.r0 = BitVec.ofNat 32 r0 ∧ j.r1 = BitVec.ofNat 32 r1

/-- In t, item k of port p has completed at the port: it is COMPLETING or STAGED with this status and these results. -/
def CompletedAtPort (p : Port) (k : Nat) (st : Status) (r0 r1 : Nat) (t : State) : Prop :=
  ∃ j, t.item? p k = some j ∧ (j.st = .completing ∨ j.st = .staged) ∧ j.status = st ∧ j.r0 = BitVec.ofNat 32 r0 ∧
    j.r1 = BitVec.ofNat 32 r1

/-- Nothing of any other port or partition differs between s and t. -/
def OtherPortsKept (p : Port) (s t : State) : Prop :=
  ∀ r : Port, r ≠ p → t.ports[r] = s.ports[r] ∧ t.parts[r] = s.parts[r]

/-- Every other batch queue of the partition, and every other partition, is in t as it was in s. -/
def OtherQueuesKept (p : Port) (m : Nat) (s t : State) : Prop :=
  (∀ n : Fin 64, n ≠ qix m → t.parts[p].bq[n] = s.parts[p].bq[n]) ∧ ∀ r : Port, r ≠ p → t.parts[r] = s.parts[r]

/-- A batch queue keeps REL ≤ READ ≤ TAIL, and a MARK it holds lies from REL to TAIL (12 R285, Table 12.7). -/
def BatchInOrder (b : BatchQueue) : Prop :=
  b.rel ≤ b.read ∧ b.read ≤ b.tail ∧ ∀ k, b.mark = some k → b.rel ≤ k ∧ k ≤ b.tail

/-- Every batch queue of every partition is in order, and holds no more batches than its DEPTH while it is enabled (12
R285). -/
def BatchQueuesOk (s : State) : Prop :=
  ∀ (p : Port) (m : Nat), BatchInOrder (s.bq p m) ∧ ((s.bq p m).enabled = true → (s.bq p m).fillCount ≤ s.bqDepth p (m % 64))

/-- A cluster, its eight tiles, its select and its warp unit. -/
def domainOf (c : Cluster) : List UnitId := ⟨.cluster, c.val⟩ :: clusterUnits c.val

/-- A trigger of the partition may thaw the cluster (16 R372, R374): the device has not tripped, and the cluster has an owner and
is in service or draining. -/
def Machine.State.mayThaw (s : State) (c : Cluster) : Bool :=
  let w := s.ledgerWord ⟨.cluster, c.val⟩
  !s.power.tripped && w.owner != 0xFF && w.admin != .outOfService && w.admin != .maintenance

/-- The source may write TIME_ADJ: the time owner, once it is there to do so, while no device-fatal error has been met (16
R379, 19 Table 19.5, 20 R456). -/
def mayAdjustTime (s : State) : TimeSrc → Bool
  | .fn p f => s.fnExists p f && !s.boot.fatal && s.isTimeOwner (.fn p f)
  | .mgmt => s.boot.modules && !s.boot.fatal && s.isTimeOwner .mgmt

/-- No AFTER and no fence holds an item (13 R304): no earlier-fetched item of its function that lacks a posted completion has
the token its AFTER names, none of its queue pair stands before its FENCE_BEFORE, and none has FENCE_AFTER. -/
def Unfenced (s : State) (p : Port) (i : Item) : Prop :=
  ∀ j ∈ s.ports[p].items, j.key < i.key → j.orphan = false → j.fn = i.fn →
    (i.after ≠ 0 → j.token ≠ i.after) ∧ (j.qp = i.qp → i.fenceBefore = false ∧ j.fenceAfter = false)

/-- No cluster in RUN runs above its target, and its regulator is set for the target (16 R366, 17 R393, R396). -/
def Settled (s : State) : Prop :=
  ∀ c : Cluster, s.clusterOper c.val = .run → s.power.running[c] ≤ s.targetSetting c ∧
    s.power.volts[c] = settingVolts (s.targetSetting c)

/-! ## Management -/

/-- The P7 serves this Kyvel command now (18 R409, R418, R421, R422): it is the mailbox's command in progress with this request,
or a message of a transport that is up, and its turn has come. -/
def kyServed (s : State) (code : Nat) (req : List Byte) (src : MgmtSrc) : Prop :=
  s.kyTurn src = true ∧
  match src with
  | .mbx p => s.ports[p].mbx.st = .busy ∧ s.ports[p].mbx.cmd.toNat % 65536 = code ∧ s.ports[p].mbx.req = req ∧ s.ready = true
  | .mgmt tr => s.transportUp tr = true ∧ s.boot.recovery = false ∧ s.boot.modules = true ∧ s.boot.fatal = false ∧
      kyvelFits req.length = true

/-- The state in which a Kyvel command has been answered (18 R420, R535): the mailbox shows status, length and data, DONE
while its lock is held; a transport carries the answer. -/
def kyAnswered (s : State) (code : Nat) (st : Status) (data : List Byte) : MgmtSrc → State
  | .mbx p => s.updPort p fun q => { q with mbx := { q.mbx with
      st := if q.mbx.holder.isSome then .done else .idle, status := st, length := data.length, taken := false
      data := q.mbx.data.sets 0 data } }
  | .mgmt tr => { s with msgs := s.msgs ++ [.kyvel tr code st data] }

/-- In t the Kyvel command has been answered with this status and data. -/
def KySays (code : Nat) (st : Status) (data : List Byte) (t : State) : MgmtSrc → Prop
  | .mbx p => t.ports[p].mbx.st ≠ .busy ∧ t.ports[p].mbx.status = st ∧ t.ports[p].mbx.length = data.length
  | .mgmt tr => t.msgs.getLast? = some (.kyvel tr code st data)

/-- The P7 serves this PLDM command now (19 R441, Table 19.5, 20 R456). -/
def pldmServed (s : State) (tr : Transport) (fu monitor : Bool) : Prop :=
  s.transportUp tr = true ∧ (s.boot.recovery = true ∧ fu = true ∨
    s.boot.recovery = false ∧ s.boot.modules = true ∧ (s.boot.fatal = true → monitor = true))

/-! ## The mesh -/

/-- The response flit of a kind that a stop's NI sends along a route of partition p (14 Table 14.4, R332). -/
def answerFlit (p : Port) (r : Route) (src kind : Nat) (tag : BitVec 16) (arg : Nat) : Msg :=
  .flit 1 (sealFlit (flitBody (routeHops r.route) (routeDirs r.route)
    { vc := routeVc r.route, src := src, part := p.val, kind := kind, tag := tag, addr := Config.unusedAddr kind, arg := arg }))

/-- CREDIT of one buffer of a network and VC (14 Table 14.7, Table 14.10). -/
def creditFlit (p : Port) (r : Route) (src net vc : Nat) : Msg :=
  answerFlit p r src 0x84 (Config.unusedTag 0x84) (net + 4 * vc + 16)

/-- No cluster of partition p sleeps behind a stop, so that what arrives there is taken at once (14 R345). -/
def takesNow (s : State) (p : Port) (stop : Nat) : Prop := ∀ c, s.stopAsleep stop = some c → s.ownsCluster p c.val = false

/-- A request stands in its buffer at the stop of tile t, and the thaw of its cluster has been triggered (14 R345). -/
def waitsAsleep (s : State) (p : Port) (t : Nat) (c : Cluster) (h : Held) : State :=
  State.startThaw { s with tiles := s.tiles.set (tix t) { s.tiles[tix t] with held := s.tiles[tix t].held ++ [(p, h)] } } c

/-- Of its QUOTA record the NI has a buffer free, and a response slot where one is needed; the sends of its stop are not
fenced (14 Table 14.10). -/
def quotaFree (x : Partition) (r : Route) (slot : Bool) : Prop :=
  r.stop ∉ x.fenced ∧ ∃ u, x.quotaFor r.stop (routeDst r.route) r.network (routeVc r.route) = some u ∧ u.taken < u.req ∧
    (slot = true → u.slots < u.rsp)

/-- The counters of a route's pair with one buffer more taken, and one response slot where one is needed. -/
def quotaTaken (r : Route) (slot : Bool) (q : List QuotaUse) : List QuotaUse :=
  q.map fun u => if u.src = r.stop ∧ u.dst = routeDst r.route ∧ u.network = r.network ∧ u.vc = routeVc r.route
    then { u with taken := u.taken + 1, slots := u.slots + slot.toNat } else u

/-- No pass of item k of port p runs on the tile. -/
def notRunning (s : State) (p : Port) (k : Nat) (t : Nat) : Prop :=
  ∀ r, s.tiles[tix t].run = some r → ¬(r.work.port = p ∧ r.work.key = k)

/-- In t, item k of port p has the status that a failed message gives it, unless another end came before (14 Table 14.12). -/
def FailsWith (p : Port) (k : Nat) (st : Status) (s t : State) : Prop :=
  ∀ i, s.item? p k = some i → i.abortedAt = 0 → i.status.carriesOn = true → ∃ j, t.item? p k = some j ∧ j.status = st

/-! ## Engines -/

/-- Bytes stored: every byte of every memory outside the ranges, of partition p's spaces, reads in t as it read in s. -/
def StoresOnly (p : Port) (rs : List (Place3 × Nat)) (s t : State) : Prop :=
  (∀ k, (∀ r ∈ rs, ∀ tile off, r.1 = .slab tile off → ∀ j, j < r.2 → k ≠ slabKey tile (off + j)) → t.slab.get k = s.slab.get k) ∧
  (∀ k, (∀ r ∈ rs, ∀ st off, r.1 = .hbm st off → ∀ j, j < r.2 → k ≠ hbmKey p st (off + j)) → t.hbm.find? k = s.hbm.find? k) ∧
  ∀ k, (∀ r ∈ rs, ∀ a, r.1 = .host a → ∀ j, j < r.2 → k ≠ hostKey p (a + j)) → t.host.get k = s.host.get k

/-- Item k of port p is COMPLETING with one of these statuses. -/
def EndsWith (p : Port) (k : Nat) (sts : List Status) (t : State) : Prop :=
  ∃ j, t.item? p k = some j ∧ j.st = .completing ∧ j.status ∈ sts

/-- Nothing differs between s and t but memories, items and counters, and what errors found on the way set and post. -/
def EngineOnly (s t : State) : Prop :=
  t = { s with
    ports := t.ports, parts := t.parts, slab := t.slab, slabUe := t.slabUe, hbm := t.hbm, hbmUe := t.hbmUe, host := t.host
    ledger := t.ledger, ledgerChanges := t.ledgerChanges, moraine := t.moraine, moraineSeq := t.moraineSeq
    mgmtQueue := t.mgmtQueue, msgs := t.msgs, free := t.free }

/-- Every cluster runs. -/
def AllRun (s : State) : Prop := ∀ c : Cluster, s.clusterOper c.val = .run

end Sys2Proof
end

