-- ==== Sys2Proof/WellFormed.lean ====
section
/-! DEFINITION. What a sender can send: the operand ranges that the constructors' types do not already fix. A command
outside them has no meaning in the spec: no host, board or unit of the P7 can form it. -/

namespace Sys2Proof

/-- A queue-pair number or batch-queue number is 0 to 63 (13 R292, 12 R268). -/
def queueOk (n : Nat) : Bool := n < 64

/-- A register offset lies in the 16 MiB BAR0 and is aligned to its access (22 R492, Table 22.3). -/
def regOffsetOk (off : Nat) (w : Width) : Bool :=
  off < 16777216 && off % (match w with | .w4 => 4 | .w8 => 8) == 0

/-- A BAR4 access lies in the largest window and carries at most Max Payload Size bytes (22 R492, R494). -/
def windowOk (off len : Nat) : Bool := 0 < len && len ≤ 512 && off + len ≤ 67108864

/-- A Kyvel request body fits the mailbox (18 R419: at most 2,048 bytes). -/
def requestOk (req : List Byte) : Bool := req.length ≤ 2048

/-- A mesh message names partition 0 to 5, or 6 for device traffic (14 Table 14.4). -/
def MeshMsg.ok (m : MeshMsg) : Bool := m.part ≤ 6

/-- READ and WRITE move 64 to 1,024 bytes, a multiple of 64 (14 Table 14.7). -/
def MeshMsg.bytesOk (m : MeshMsg) : Bool :=
  m.ok && 64 ≤ m.arg.toNat && m.arg.toNat ≤ 1024 && m.arg.toNat % 64 == 0

/-- The domains that sleep are clusters, decode, compression and gather units (16 Table 16.3). -/
def Domain.ok : Domain → Bool
  | .cluster _ => true
  | .unit u => u.valid && (u.ty == .decode || u.ty == .compress || u.ty == .gather)

/-- A unit of the ledger in an error report exists. -/
def ErrorReport.ok : ErrorReport → Bool
  | .slab _ off _ => off < 20971520
  | .hbm _ _ off _ => off < 137438953472
  | .sram u _ => u.valid
  | .check u => u.valid && u.ty != .fabric
  | .cqWrite _ _ n => queueOk n
  | .fetch _ _ n => queueOk n
  | _ => true

/-- The command's operands are in the ranges the spec gives them. -/
def Instr.wf : Instr → Bool
  | .bqRelease _ _ m _ | .bankSwap _ m | .shuffleEpochReset _ m | .packSlotWrite _ m | .delivery _ m
  | .deliveryComplete _ m | .bqWant _ _ m _ | .bqPop _ _ m _ | .bqEnable _ m _ | .bqDisable _ m | .bqWm _ m _ => queueOk m
  | .sqTail _ _ n _ | .cqHead _ _ n _ | .completionBurst _ _ n | .qpEnable _ _ n | .qpDisable _ _ n => queueOk n
  | .thawDone d | .sleepEntryDone d => d.ok
  | .segmentSwitch u | .adminDrainEnd u | .selfTestDone u _ | .unitIdleEntry u | .unitOffEntry u => u.valid
  | .bar4Read _ off len => windowOk off len
  | .bar4Write _ off bytes => windowOk off bytes.length
  | .registerWrite _ _ off w _ => regOffsetOk off w
  | .ledgerRead _ r | .ledgerAdmin _ r | .faultClear _ r | .partScrub _ r | .powerSet _ r | .powerRead _ r
  | .moraineRead _ r | .timeAdj _ r | .fwInfo _ r | .floorBegin _ r | .floorChunk _ r | .floorCommit _ r => requestOk r
  | .read m => m.bytesOk
  | .write m data => m.bytesOk && data.length == m.arg.toNat
  | .datPush m _ data | .readData m data => m.ok && data.length == 1024
  | .writeAck m | .snpAck m | .credit m | .error m => m.ok
  | .errorDetected e => e.ok
  | .l1Entry _ sub => sub ≤ 2
  | .sensorSample ts => ts.length == 28
  | .hbmSensorRead ts => ts.length == 8
  | .pmbusTelemetry r => r.length == 9
  | .pmbusStatusPoll addr _ => 0x40 ≤ addr && addr ≤ 0x45
  | .thermalTrip sensor _ => sensor < 36
  | _ => true

end Sys2Proof
end

