-- ==== Sys2Proof/Certificates/Slice0/Obligations.lean ====
section
/-! DEFINITION. What is claimed of the model, for the provers: one statement for each definition. A statement names the rules of
spec/ that it rests on; one that rests on a choice of the model says which. -/

open Sys2Proof
open Sys2Proof.Machine

/-! ## The machine -/

/-- A step gives the effect of the front command on the state with the queue's rest; on an empty queue the block idles (the
model's own, log 1). -/
def Obligations.StepRunsTheFrontCommand : Prop :=
  (∀ (c : Instr) (rest : List Instr) (s : State), step { s with pending := c :: rest } = exec c { s with pending := rest }) ∧
  ∀ s : State, s.pending = [] → step s = .next s

/-! ## Time (16) -/

/-- Each TIME_ADJ operation of the time owner is queued, in order of arrival, for the next crystal edge with its OP in bits
[63:60]; of any other function it changes nothing but the count of ignored writes (R379). After a device-fatal error none is
taken (20 R456). -/
def Obligations.TimeAdjWordsWaitForTheEdge : Prop :=
  (∀ (s : State) (src : TimeSrc) (d : BitVec 60), mayAdjustTime s src = true →
    let q (op : BitVec 4) : State := { s with time := { s.time with writes := s.time.writes ++ [op ++ d] } }
    exec (.set src d) s = .next (q 0) ∧ exec (.step src d) s = .next (q 1) ∧ exec (.setAtPps src d) s = .next (q 2) ∧
    exec (.rate src d) s = .next (q 3) ∧ exec (.discipline src d) s = .next (q 4) ∧
    exec (.timeInvalidate src d) s = .next (q 5)) ∧
  ∀ (s : State) (p : Port) (f : Func) (d : BitVec 60), s.fnExists p f = true →
    ∀ c ∈ [Instr.set (.fn p f) d, .step (.fn p f) d, .setAtPps (.fn p f) d, .rate (.fn p f) d, .discipline (.fn p f) d,
      .timeInvalidate (.fn p f) d],
      (s.boot.fatal = false → s.isTimeOwner (.fn p f) = false → Runs c s fun t => OnlyFn p f s t ∧
        (t.fn p f).cnt[FCnt.timeWriteIgnored.ix] = (s.fn p f).cnt[FCnt.timeWriteIgnored.ix] + 1) ∧
      (s.boot.fatal = true → exec c s = .next s)

/-- A crystal edge adds 40 × 2^32 + A to the accumulator and samples PPS_IN, a rise being stamped with the time there; then the
oldest waiting TIME_ADJ word takes effect (R376, R379 to R381, Table 16.6). -/
def Obligations.CrystalEdgeAdvancesThenAdjusts : Prop :=
  ∀ (s : State) (pps : Bool), s.porN = true → s.time.servoStep = none →
    let acc := s.time.acc + BitVec.ofInt 96 (40 * 2 ^ 32 + s.time.a)
    let rise (moved : Bool) : Option (BitVec 64 × Bool) :=
      if pps = true ∧ s.ppsIn = false ∧ s.boot.aonClock = true then some (acc.extractLsb' 32 64, moved) else s.time.rise
    let edge (moved : Bool) (rest : List (BitVec 64)) : TimeBase :=
      { s.time with acc := acc, writes := rest, rise := rise moved }
    let Edge (rest : List (BitVec 64)) (P : State → Prop) : Prop :=
      Runs (.crystalEdge pps) s fun t => t.ppsIn = pps ∧ t.time.writes = rest ∧
        OnlyTimeAndLog { s with ppsIn := pps } t ∧ P t
    (s.time.writes = [] →
      exec (.crystalEdge pps) s = .next { s with time := edge false [], ppsIn := pps }) ∧
    (∀ (d : BitVec 60) rest, s.time.writes = ((0 : BitVec 4) ++ d) :: rest → Edge rest fun t =>
      t.deviceTime = d.setWidth 64 ∧ t.time.acc.extractLsb' 0 32 = 0 ∧
      t.time = { edge true rest with acc := t.time.acc, valid := true } ∧ OneLogged 3 s t) ∧
    (∀ (d : BitVec 60) rest, s.time.writes = ((1 : BitVec 4) ++ d) :: rest → Edge rest fun t =>
      t.deviceTime = acc.extractLsb' 32 64 + d.signExtend 64 ∧ t.time.acc.extractLsb' 0 32 = acc.extractLsb' 0 32 ∧
      t.time = { edge true rest with acc := t.time.acc } ∧ OneLogged 3 s t) ∧
    (∀ (d : BitVec 60) rest, s.time.writes = ((2 : BitVec 4) ++ d) :: rest → Edge rest fun t =>
      t.time = { edge false rest with ppsPending := some (d.toNat % 2 ^ 40) }) ∧
    (∀ (d : BitVec 60) rest, s.time.writes = ((3 : BitVec 4) ++ d) :: rest → Edge rest fun t =>
      let a := (d.extractLsb' 0 32).toInt
      t.time = { edge false rest with a := if s.time.discipline || 34359738 < a.natAbs then s.time.a else a }) ∧
    (∀ (d : BitVec 60) rest, s.time.writes = ((4 : BitVec 4) ++ d) :: rest → Edge rest fun t =>
      t.time = { edge false rest with
        discipline := d.getLsbD 0, i := if d.getLsbD 0 then s.time.a else s.time.i }) ∧
    ∀ (d : BitVec 60) rest, s.time.writes = ((5 : BitVec 4) ++ d) :: rest → Edge rest fun t =>
      t.time = { edge false rest with valid := false }

/-- A PPS edge that a crystal edge sampled, at its time there: one that comes too early is counted and changes nothing else; an
accepted one sets TIME_PPS_LAST, ends holdover and, with SET_AT_PPS armed, sets the time; otherwise the servo of R382 acts
with DISCIPLINE on, its step waiting for the next crystal edge unless a SET or STEP took effect at the sampling one (R381 to
R383, Table 16.8). An edge without DISCIPLINE ends a run of good edges, which is the model's reading (log 109). Where PPS_IN
did not rise there is no edge. -/
def Obligations.PpsEdgesStampAndServe : Prop :=
  (∀ s : State, s.time.rise = none → exec .ppsEdge s = .next s) ∧
  ∀ (s : State) (v : BitVec 64) (moved : Bool), s.time.rise = some (v, moved) →
    let r := v.toNat % 1000000000
    let phi : Int := if r < 500000000 then r else r - 1000000000
    let clamp (x : Int) : Int := max (-34359738) (min 34359738 x)
    let Taken (P : State → Prop) : Prop := Runs .ppsEdge s fun t => t.time.ppsLast = v ∧ t.time.lastEdge = some v ∧
      t.time.holdover = false ∧ t.time.rise = none ∧ OnlyTimeAndLog s t ∧
      (s.time.discipline = true → t.time.lastPhase = phi) ∧ P t
    (∀ e, s.time.lastEdge = some e → (v - e).toInt < 900000000 →
      exec .ppsEdge s = .next { s with cntPpsIgnored := s.cntPpsIgnored + 1, time := { s.time with rise := none } }) ∧
    ((∀ e, s.time.lastEdge = some e → 900000000 ≤ (v - e).toInt) →
      (∀ sec, s.time.ppsPending = some sec → Taken fun t =>
        t.deviceTime = BitVec.ofNat 64 (sec * 1000000000) ∧ t.time.valid = true ∧ t.time.ppsPending = none) ∧
      (s.time.ppsPending = none → s.time.discipline = false → Taken fun t =>
        t.time = { s.time with rise := none, ppsLast := v, lastEdge := some v, holdover := false, goodEdges := 0 } ∧
        t.moraine = s.moraine) ∧
      (s.time.ppsPending = none → s.time.discipline = true → 1000000 < phi.natAbs → Taken fun t =>
        t.time.servoStep = (if moved then none else some phi) ∧ t.time.a = s.time.a ∧ t.time.i = s.time.i ∧
        t.time.locked = false) ∧
      (s.time.ppsPending = none → s.time.discipline = true → phi.natAbs ≤ 1000000 → Taken fun t =>
        t.time.i = clamp (s.time.i - 43 * phi) ∧ t.time.a = clamp (t.time.i - 86 * phi) ∧ t.time.acc = s.time.acc ∧
        (1000 < phi.natAbs → t.time.locked = false) ∧
        (phi.natAbs ≤ 100 → 7 ≤ s.time.goodEdges → t.time.locked = true)))

/-- Holdover: 1,100,000,000 ns past the last accepted edge A takes I, LOCKED clears and HOLDOVER sets (R383). The servo step
of an edge moves the time at the next crystal edge (R382). A read of TIME_NOW returns the device time and latches bits
[63:32] for the function (R378); TIME_PTM_HOST starts a PTM dialogue of an enabled function, whose end records the host's
time and the device time at that instant, the time of the latest crystal edge and the distance from it that the port
measures (R384). -/
def Obligations.ClockStepsAndReads : Prop :=
  ((∀ (s : State) (e : BitVec 64), s.time.lastEdge = some e → s.time.holdover = false →
     1100000000 ≤ (s.deviceTime - e).toInt →
     Runs .holdoverEntry s fun t =>
       t.time = { s.time with holdover := true, a := s.time.i, locked := false, goodEdges := 0 } ∧ OnlyTimeAndLog s t ∧
       (t.moraine.getLast?.map (·.kind)) = some 3) ∧
   (∀ (s : State) (pps : Bool) (phi : Int), s.porN = true → s.time.writes = [] → s.time.servoStep = some phi →
     Runs (.crystalEdge pps) s fun t =>
       t.deviceTime = (s.time.acc + BitVec.ofInt 96 (40 * 2 ^ 32 + s.time.a)).extractLsb' 32 64 + BitVec.ofInt 64 (-phi) ∧
       t.time.servoStep = none ∧ OnlyTimeAndLog { s with ppsIn := pps } t ∧ OneLogged 3 s t)) ∧
  ((∀ (s : State) (p : Port) (f : Func), s.fnExists p f = true →
     exec (.timeNowLo p f .w8) s =
       .next { s.updFn p f (fun x => { x with snap := s.deviceTime.extractLsb' 32 32 }) with rdata := .reg s.deviceTime } ∧
     exec (.timeNowLo p f .w4) s =
       .next { s.updFn p f (fun x => { x with snap := s.deviceTime.extractLsb' 32 32 }) with
         rdata := .reg ((s.deviceTime.extractLsb' 0 32).setWidth 64) }) ∧
   (∀ (s : State) (p : Port) (f : Func), s.fnExists p f = true → s.ready = true → (s.fn p f).ptmEnable = true →
     (s.fn p f).ptmBusy = false →
     exec (.timePtmHost p f) s = .next (s.updFn p f fun x => { x with ptmBusy := true })) ∧
   ∀ (s : State) (p : Port) (f : Func) (h d : BitVec 64), (s.fn p f).ptmBusy = true →
     exec (.ptmDialogueEnd p f h d) s = .next (s.updFn p f fun x => { x with
       ptmBusy := false, ptmHost := h, ptmDev := s.deviceTime + d }))

/-! ## The test access port (25) -/

/-- Each JTAG instruction selects its data register; the pin tests drive the pins only while POR_n is low and act as BYPASS
while it is high, as does an unlisted code (R551, R553). -/
def Obligations.TapInstructionsSelectAndDrive : Prop :=
  ∀ (s : State) (cells : List Bool) (code : Byte),
    let tap (ir : BitVec 8) (dr : TapData) (drive : PinDrive) : State :=
      { s with tap := { s.tap with ir := ir, dr := dr, drive := drive } }
    exec .tapReset s = .next (tap 0x01 .idcode .functional) ∧
    exec .idcode s = .next { tap 0x01 .idcode .functional with rdata := .reg 0x1700774B } ∧
    exec (.samplePreload cells) s =
      .next { s with tap := { ir := 0x02, dr := .boundary, cells := cells, drive := .functional } } ∧
    (s.porN = false →
      exec .extest s = .next (tap 0x03 .boundary .cells) ∧ exec .extestPulse s = .next (tap 0x04 .boundary .pulse) ∧
      exec .extestTrain s = .next (tap 0x05 .boundary .train) ∧ exec .highz s = .next (tap 0x06 .bypass .highz) ∧
      exec .jtagClamp s = .next (tap 0x07 .bypass .cells)) ∧
    (s.porN = true →
      exec .extest s = .next (tap 0x03 .bypass .functional) ∧ exec .extestPulse s = .next (tap 0x04 .bypass .functional) ∧
      exec .extestTrain s = .next (tap 0x05 .bypass .functional) ∧ exec .highz s = .next (tap 0x06 .bypass .functional) ∧
      exec .jtagClamp s = .next (tap 0x07 .bypass .functional)) ∧
    (code = 0 ∨ 7 < code.toNat → exec (.bypass code) s = .next (tap code .bypass .functional))

/-! ## Registers (23, 24) -/

/-- EVT_POP returns and removes the oldest event word, or 0 when there is none; a 4-byte read removes nothing (R315, R534); an
8-byte write of EVT_COUNT clears the lost count. Orlys resolves the oldest orphaned lock of a function: it leaves the list,
the moraine log takes the LOCK entry and the posted event, CNT_OWNER_LOST counts it, and no other function changes (R467,
R468). -/
def Obligations.EventsAreReadAndLocksResolved : Prop :=
  (∀ (s : State) (p : Port) (f : Func), s.fnExists p f = true →
     (∀ e rest, (s.fn p f).evq = e :: rest →
       exec (.evtPop p f .w8) s = .next { s.updFn p f (fun x => { x with evq := rest }) with rdata := .reg e }) ∧
     ((s.fn p f).evq = [] → exec (.evtPop p f .w8) s = .next { s with rdata := .reg 0 }) ∧
     exec (.evtPop p f .w4) s = .next { s with rdata := .reg 0 } ∧
     (s.ready = true → exec (.evtCount p f .w8) s = .next (s.updFn p f fun x => { x with evLost := 0 }))) ∧
  (∀ (s : State) (p : Port) (f : Func) (o : Orphan) (rest : List Orphan), (s.fn p f).orphans = o :: rest →
     Runs (.lockResolution p f) s fun t =>
       (t.fn p f).orphans = rest ∧ (t.fn p f).cnt[FCnt.ownerLost.ix] = (s.fn p f).cnt[FCnt.ownerLost.ix] + 1 ∧
       (t.fn p f).epoch = (s.fn p f).epoch ∧ t.moraineSeq = s.moraineSeq + 2 ∧
       (∀ q, q ≠ p → t.ports[q] = s.ports[q]) ∧ (∀ q, q ≠ p → t.parts[q] = s.parts[q]) ∧
       (o.kind ≠ 1 → o.kind ≠ 2 → t.parts = s.parts) ∧ SameMemory s t ∧
       t = { s with
         ports := t.ports, parts := t.parts, moraine := t.moraine, moraineSeq := t.moraineSeq, msgs := t.msgs })

/-- MBX_LOCK: a read takes a free lock with the next ticket and shows a held one; a release with the holder's ticket frees
it, any other is counted as ignored (R419, R535). MBX_CMD: from the holder with its ticket, no command in progress and at
most 2,048 bytes, the request is taken from MBX_DATA and the mailbox is BUSY; a code that Table 18.3 does not list ends
UNSUPPORTED at once; any other write is counted as ignored (R418, R421, R535). -/
def Obligations.MailboxLocksAndTakesCommands : Prop :=
  (∀ (s : State) (p : Port) (k : BitVec 32),
     let m := s.ports[p].mbx
     (m.holder = none → exec (.mbxLock p) s =
       .next { s.updPort p (fun q => { q with mbx := { m with holder := some (s.fn p 0).epoch, ticket := m.ticket + 1 } }) with
         rdata := .reg (BitVec.ofNat 64 ((m.ticket + 1).toNat * 2 ^ 32 + 1)) }) ∧
     (m.holder.isSome = true →
       exec (.mbxLock p) s = .next { s with rdata := .reg (BitVec.ofNat 64 (m.ticket.toNat * 2 ^ 32)) }) ∧
     (m.holder.isSome = true → k = m.ticket → exec (.mbxLockRelease p k) s =
       .next (s.updPort p fun q => { q with
         mbx := { m with holder := none, st := if m.st = .busy then .busy else .idle } })) ∧
     (m.holder = none ∨ k ≠ m.ticket → Runs (.mbxLockRelease p k) s fun t => OnlyFn p 0 s t ∧
       (t.fn p 0).cnt[FCnt.mbxIgnored.ix] = (s.fn p 0).cnt[FCnt.mbxIgnored.ix] + 1)) ∧
  (∀ (s : State) (p : Port) (v : BitVec 64), s.ready = true →
     let m := s.ports[p].mbx
     let len := v.toNat / 2 ^ 16 % 2 ^ 16
     let code := v.toNat % 2 ^ 16
     let wr : Instr := .registerWrite p 0 0x80008 .w8 v
     let good := m.st ≠ .busy ∧ len ≤ 2048 ∧ m.holder.isSome = true ∧ v.extractLsb' 32 32 = m.ticket
     let taken : Mailbox := { m with
       cmd := v, cmdTicket := v.extractLsb' 32 32, req := m.data.gets 0 len, arrival := s.arrivals, taken := false }
     let arrived (m1 : Mailbox) : State := { s with arrivals := s.arrivals + 1 }.updPort p fun q => { q with mbx := m1 }
     (good → (1 ≤ code ∧ code ≤ 9 ∨ 0x10 ≤ code ∧ code ≤ 0x12) →
       exec wr s = .next (arrived { taken with st := .busy })) ∧
     (good → ¬(1 ≤ code ∧ code ≤ 9 ∨ 0x10 ≤ code ∧ code ≤ 0x12) →
       exec wr s = .next (arrived { taken with st := .done, status := .unsupported, length := 0 })) ∧
     (¬good → Runs wr s fun t => OnlyFn p 0 s t ∧
       (t.fn p 0).cnt[FCnt.mbxIgnored.ix] = (s.fn p 0).cnt[FCnt.mbxIgnored.ix] + 1))

/-- Register writes of 8 bytes: configuration of a DISABLED queue pair takes effect, of any other is refused with cause 12
(R517); QP_MSIX takes a vector within the table in any state; PORT_CTRL takes a timeout code below 6; PORT_ERR clears the
bits written as 1; EVT_CTRL refuses a vector beyond the table (R534); LEDGER_SEL and BAR4_BASE take their fields. -/
def Obligations.RegisterWritesSetTheirFields : Prop :=
  ∀ (s : State) (p : Port) (f : Func) (v : BitVec 64), s.fnExists p f = true → s.ready = true →
    let wr (off : Nat) : Instr := .registerWrite p f off .w8 v
    (∀ n, s.hasQp p f n = true →
      let base := 0x10000 + 0x40 * n
      let aligned : BitVec 64 := BitVec.ofNat 64 (v.toNat / 4096 * 4096)
      ((s.qp p f n).st = .disabled →
        exec (wr base) s = .next (s.updQp p f n fun q => { q with sqBase := aligned }) ∧
        exec (wr (base + 0x08)) s = .next (s.updQp p f n fun q => { q with sqSize := v.toNat % 2 ^ 17 }) ∧
        exec (wr (base + 0x10)) s = .next (s.updQp p f n fun q => { q with cqBase := aligned }) ∧
        exec (wr (base + 0x18)) s = .next (s.updQp p f n fun q => { q with cqSize := v.toNat % 2 ^ 17 })) ∧
      ((s.qp p f n).st ≠ .disabled → ∀ off ∈ [0x00, 0x08, 0x10, 0x18],
        exec (wr (base + off)) s = .next (s.updQp p f n fun q => { q with cause := 12 })) ∧
      exec (wr (base + 0x30)) s = .next (s.updQp p f n fun q =>
        if s.msixSize p f ≤ v.toNat % 2 ^ 11 then { q with cause := 4 } else { q with msix := v.toNat % 2 ^ 11 }) ∧
      (v.toNat % 2 = 1 → (s.qp p f n).st = .draining →
        exec (wr (base + 0x20)) s = .next (s.updQp p f n fun q => { q with cause := 12 })) ∧
      (v.toNat % 2 = 1 → (s.qp p f n).st = .enabled → exec (wr (base + 0x20)) s = .next s)) ∧
    (f = 0 → v.toNat % 8 < 6 → exec (wr 0x18) s = .next (s.updPort p fun q => { q with cto := v.toNat % 8 })) ∧
    (f = 0 → exec (wr 0x28) s = .next (s.updFn p f fun x => { x with portErr := x.portErr &&& ~~~(v &&& 0xFF) })) ∧
    (v.toNat / 2 ^ 31 % 2 = 1 → s.msixSize p f ≤ v.toNat / 2 ^ 16 % 2 ^ 11 → exec (wr 0x70010) s = .next s) ∧
    (v.toNat / 2 ^ 31 % 2 = 0 → exec (wr 0x70010) s = .next (s.updFn p f fun x => { x with
      evClasses := BitVec.ofNat 12 (v.toNat / 2), evVector := v.toNat / 2 ^ 16 % 2 ^ 11, evVecEn := false })) ∧
    (f = 0 → exec (wr 0x40018) s = .next (s.updPort p fun q => { q with bar4Base := v.toNat % 256 })) ∧
    (f = 0 → exec (wr 0x40100) s = .next (s.updPort p fun q => { q with ledgerSel := v.setWidth 16 }))

/-- The slab window: a read returns the slabs' bytes, 0 where the window maps to none and 0xFF in a unit with an uncorrectable
error; while the window is closed it returns zeros; a read that meets no error changes nothing (R529 to R531). A window write
to awake clusters stores each byte where the window maps it and changes no other slab byte; while the window is closed it is
discarded (R529 to R531). An access to a sleeping cluster waits, and starts the thaw of one that may thaw (16 R373, Table
16.5). -/
def Obligations.WindowReadsAndStoresSlabBytes : Prop :=
  (∀ (s : State) (p : Port) (off len : Nat), 0 < len →
     (s.windowOpen p (off + len - 1) = false →
       exec (.bar4Read p off len) s = .next { s with rdata := .bytes (List.replicate len 0) }) ∧
     (s.windowOpen p (off + len - 1) = true → s.windowSleeps p off len ≠ [] →
       Runs (.bar4Read p off len) s fun t => SameMemory s t ∧ t.rdata = s.rdata ∧
         t.ports[p] = { s.ports[p] with windows := s.ports[p].windows ++ [.read off len] } ∧
         ∀ c ∈ s.windowSleeps p off len, s.mayThaw c = true →
           t.clusters[c].thawing.isSome = true ∨ t.clusters[c].rethaw = true) ∧
     (s.windowOpen p (off + len - 1) = true → s.windowSleeps p off len = [] →
       Runs (.bar4Read p off len) s fun t => SameMemory s t ∧
         (∃ bs, t.rdata = .bytes bs ∧ bs.length = len ∧ ∀ n, n < len → bs[n]? = some (
           match s.windowByte p (off + n) with
           | some (tile, o) => if s.slabBad tile (o / 64 * 64) 64 then 0xFF else s.slab.get (slabKey tile o)
           | none => 0)) ∧
         (s.slabUe = [] → t = { s with rdata := t.rdata }))) ∧
  (∀ (s : State) (p : Port) (off : Nat) (bytes : List Byte), Instr.wf (.bar4Write p off bytes) = true → s.slab.wf = true →
     (s.windowOpen p (off + bytes.length - 1) = false → exec (.bar4Write p off bytes) s = .next s) ∧
     (s.windowOpen p (off + bytes.length - 1) = true → s.windowSleeps p off bytes.length ≠ [] →
       Runs (.bar4Write p off bytes) s fun t => SameMemory s t ∧
         t.ports[p] = { s.ports[p] with windows := s.ports[p].windows ++ [.write off bytes] }) ∧
     (s.windowOpen p (off + bytes.length - 1) = true → s.windowSleeps p off bytes.length = [] →
       Runs (.bar4Write p off bytes) s fun t =>
         (∀ n tile o, n < bytes.length → s.windowByte p (off + n) = some (tile, o) →
           some (t.slab.get (slabKey tile o)) = bytes[n]?) ∧
         (∀ a, (∀ n tile o, n < bytes.length → s.windowByte p (off + n) = some (tile, o) → a ≠ slabKey tile o) →
           t.slab.get a = s.slab.get a) ∧
         t = { s with slab := t.slab, slabUe := t.slabUe }))

/-! ## Doorbells and queue pairs (13, 23) -/

/-- SQ_TAIL: a tail that lies in the ring and does not go back becomes the SQ tail, and the queue pair waits in the doorbell
FIFO or the overflow vector; one outside the ring puts the pair in ERROR with cause 6, one that goes back with cause 7; one
to a pair that is not ENABLED is discarded and counted (R295 to R297). Only the port, the partition's thaw counters and its
clusters' thaws change. CQ_HEAD: a head in the ring that does not pass the tail becomes the CQ head of an ENABLED or
DRAINING pair; one outside the ring puts the pair in ERROR with cause 8, one that passes the tail with cause 9; to a pair in
DISABLED or ERROR, or one the function does not have, it is discarded and counted (R295, R297). -/
def Obligations.DoorbellsMoveTailAndHead : Prop :=
  (∀ (s : State) (p : Port) (f : Func) (n : Nat) (v : BitVec 32), s.hasQp p f n = true → s.ready = true →
     let q := s.qp p f n
     let tail := v.toNat % 65536
     let back := ringDist tail q.sqHead q.sqSize < ringDist q.sqTail q.sqHead q.sqSize
     let Ends (P : State → Prop) : Prop := Runs (.sqTail p f n v) s fun t =>
       (∀ r, r ≠ p → t.ports[r] = s.ports[r]) ∧ (∀ g m, (g, m % 64) ≠ (f, n) → t.qp p g m = s.qp p g m) ∧
       t.ports[p].items = s.ports[p].items ∧ P t
     (q.st = .enabled → tail < q.sqSize → ¬back → Ends fun t =>
       t.qp p f n = { q with sqTail := tail } ∧
       ((f.val, n) ∈ t.ports[p].fifo ∨ (f.val, n) ∈ t.ports[p].overflow) ∧
       t = { s with ports := t.ports, parts := t.parts, clusters := t.clusters }) ∧
     (q.st = .enabled → q.sqSize ≤ tail → Ends fun t =>
       (t.qp p f n).st = .error ∧ (t.qp p f n).cause = 6 ∧ (t.qp p f n).sqTail = q.sqTail ∧
       t = { s with ports := t.ports, msgs := t.msgs }) ∧
     (q.st = .enabled → tail < q.sqSize → back → Ends fun t =>
       (t.qp p f n).st = .error ∧ (t.qp p f n).cause = 7 ∧ (t.qp p f n).sqTail = q.sqTail ∧
       t = { s with ports := t.ports, msgs := t.msgs }) ∧
     (q.st ≠ .enabled → Ends fun t =>
       t.qp p f n = q ∧
       (t.fn p f).cnt[FCnt.doorbellDiscard.ix] = (s.fn p f).cnt[FCnt.doorbellDiscard.ix] + 1 ∧ OnlyPort p s t)) ∧
  (∀ (s : State) (p : Port) (f : Func) (n : Nat) (v : BitVec 32), s.fnExists p f = true → s.ready = true →
     let q := s.qp p f n
     let head := v.toNat % 65536
     let past := ringDist q.cqTail q.cqHead q.cqSize < ringDist q.cqTail head q.cqSize
     let Ends (P : State → Prop) : Prop := Runs (.cqHead p f n v) s P
     (s.hasQp p f n = true → q.st = .enabled ∨ q.st = .draining →
       (head < q.cqSize → ¬past → Ends fun t => t.qp p f n = { q with cqHead := head } ∧ OnlyPort p s t) ∧
       (q.cqSize ≤ head → Ends fun t =>
         (t.qp p f n).st = .error ∧ (t.qp p f n).cause = 8 ∧ (t.qp p f n).cqHead = q.cqHead) ∧
       (head < q.cqSize → past → Ends fun t =>
         (t.qp p f n).st = .error ∧ (t.qp p f n).cause = 9 ∧ (t.qp p f n).cqHead = q.cqHead)) ∧
     (s.hasQp p f n = false ∨ (q.st ≠ .enabled ∧ q.st ≠ .draining) → Ends fun t =>
       t.qp p f n = q ∧ OnlyPort p s t ∧
       (t.fn p f).cnt[FCnt.doorbellDiscard.ix] = (s.fn p f).cnt[FCnt.doorbellDiscard.ix] + 1))

/-- QP_ENABLE of a DISABLED pair: with ring sizes that are powers of two from 2 to 65,536, page-aligned rings that do not
overlap and a vector within the table, the pair is ENABLED with its heads and tails 0 and its write phase 1; otherwise it
stays DISABLED with the lowest cause of Table 23.10 (R293, R294). QP_DISABLE: an ENABLED pair is DISABLED once no fetched
item of it lacks a completion and DRAINING until then; a pair in ERROR is DISABLED at once (R294). -/
def Obligations.QueuePairsEnableAndDrain : Prop :=
  (∀ (s : State) (p : Port) (f : Func) (n : Nat), s.hasQp p f n = true → s.ready = true → (s.qp p f n).st = .disabled →
     let q := s.qp p f n
     let size (k : Nat) : Prop := ∃ e, 1 ≤ e ∧ e ≤ 16 ∧ k = 2 ^ e
     let sizes := size q.sqSize ∧ size q.cqSize
     let aligned := q.sqBase.toNat % 4096 = 0 ∧ q.cqBase.toNat % 4096 = 0
     let apart := q.sqBase.toNat + 64 * q.sqSize ≤ q.cqBase.toNat ∨ q.cqBase.toNat + 16 * q.cqSize ≤ q.sqBase.toNat
     let vector := q.msix < s.msixSize p f
     let refused (c : Nat) : Prop := exec (.qpEnable p f n) s = .next (s.updQp p f n fun q => { q with cause := c })
     (sizes → aligned → apart → vector → Runs (.qpEnable p f n) s fun t =>
       t.qp p f n = { q with
         st := .enabled, phase := true, cause := 0, sqHead := 0, sqTail := 0, cqHead := 0, cqTail := 0, cqFailed := false } ∧
       (∀ r, r ≠ p → t.ports[r] = s.ports[r]) ∧ (∀ g, g ≠ f → t.fn p g = s.fn p g) ∧
       t = { s with ports := t.ports, msgs := t.msgs }) ∧
     (¬sizes → refused 1) ∧ (sizes → ¬aligned → refused 2) ∧ (sizes → aligned → ¬apart → refused 3) ∧
     (sizes → aligned → apart → ¬vector → refused 4)) ∧
  (∀ (s : State) (p : Port) (f : Func) (n : Nat), s.hasQp p f n = true →
     let q := s.qp p f n
     let busy := ∃ i ∈ s.ports[p].items, i.fn = f ∧ i.qp = n ∧ i.orphan = false
     (q.st = .enabled → Runs (.qpDisable p f n) s fun t =>
       (busy → t.qp p f n = { q with st := .draining }) ∧ (¬busy → t.qp p f n = { q with st := .disabled }) ∧
       t.ports[p].items = s.ports[p].items ∧ (∀ r, r ≠ p → t.ports[r] = s.ports[r]) ∧
       (∀ g, g ≠ f → t.fn p g = s.fn p g) ∧ t = { s with ports := t.ports, msgs := t.msgs }) ∧
     (q.st = .error → exec (.qpDisable p f n) s = .next (s.updQp p f n fun q => { q with st := .disabled })))

/-! ## The life of an item (13, 15) -/

/-- FETCH_TURN: the port fetches the descriptors of the next queue pair from the SQ head on, up to 8, to the tail or the end
of the ring; each becomes an item with the 64 bytes of its SQ entry, in order, and the SQ head passes them (R298). They are read
in requests that keep the function's limit (22 R490). No memory changes, and of the items that were there at most an arrival
at the commit queue is noted (02 R53). -/
def Obligations.FetchTakesDescriptorsInOrder : Prop :=
  ∀ (s : State) (p : Port) (f : Func) (n : Nat), s.ready = true → s.ports[p].linkUp = true → s.nextPair p = some (f, n) →
    QueuesOk s → ItemsOk s →
    let q := s.qp p f n
    let k := min 8 (min (ringDist q.sqTail q.sqHead q.sqSize) (q.sqSize - q.sqHead))
    Runs (.fetchTurn p) s fun t =>
      (t.qp p f n).sqHead = (q.sqHead + k) % q.sqSize ∧ (t.qp p f n).sqTail = q.sqTail ∧
      t.ports[p].fetchNo = s.ports[p].fetchNo + k ∧
      (∀ j, j < k → ∃ i ∈ t.ports[p].items, i.key = s.ports[p].fetchNo + 1 + j ∧ i.fn = f ∧ i.qp = n ∧
        i.desc = s.hostGet p (q.sqBase.toNat + 64 * (q.sqHead + j)) 64) ∧
      (∀ i ∈ s.ports[p].items, ∃ j ∈ t.ports[p].items, j = { i with arrival := j.arrival } ∧
        (i.arrival.isSome = true → j = i)) ∧
      (∃ ms, t.msgs = (s.sendReads p f (q.sqBase.toNat + 64 * q.sqHead) (64 * k)).msgs ++ ms) ∧
      (∀ r, r ≠ p → t.ports[r] = s.ports[r]) ∧ SameMemory s t

/-- NOP completes OK with zero results once no AFTER and no fence holds it (R301, R304). Nothing but the port changes.
ABORT: with no target it completes OK with Result1 0xFF; a target that is waiting or queued, and one in service that does
not run on, becomes COMPLETING with status ABORTED and zero results, and the ABORT, OK with Result0 1 or 2, waits for its
completion (R312, R313, Table 13.6). Another host's port never changes. -/
def Obligations.NopAndAbortComplete : Prop :=
  (∀ (s : State) (p : Port) (k : Nat) (i : Item), s.item? p k = some i → i.st = .waiting → i.opcode = 0 → i.orphan = false →
     Unfenced s p i →
     Runs (.nop p k) s fun t => OnlyPort p s t ∧
       ∃ j, t.item? p k = some j ∧ j.status = .ok ∧ j.r0 = 0 ∧ j.r1 = 0 ∧ (j.st = .completing ∨ j.st = .staged)) ∧
  (∀ (s : State) (p : Port) (k : Nat) (i : Item), s.item? p k = some i → i.st = .waiting → i.opcode = opAbort →
     i.orphan = false → ItemsOk s →
     (s.abortTarget p i = none → Runs (.abort p k) s fun t => OnlyPort p s t ∧
       ∃ j, t.item? p k = some j ∧ j.status = .ok ∧ j.r0 = 0 ∧ j.r1 = 0xFF ∧ (j.st = .completing ∨ j.st = .staged)) ∧
     ∀ x, s.abortTarget p i = some x →
       x.st = .waiting ∨ x.st = .queued ∨ x.st = .inService ∧ s.runsOn p x = false →
       Runs (.abort p k) s fun t => (∀ r, r ≠ p → t.ports[r] = s.ports[r]) ∧ (∀ r, r ≠ p → t.parts[r] = s.parts[r]) ∧
         SameMemory s t ∧
         (∃ y, t.item? p x.key = some y ∧ y.st = .completing ∧ y.status = .aborted ∧ y.r0 = 0 ∧ y.r1 = 0) ∧
         ∃ j, t.item? p k = some j ∧ j.st = .completing ∧ j.status = .ok ∧ j.waitsFor = some x.key ∧
           j.r0 = if x.st = .inService then 2 else 1)

/-- DISPATCH: the item that R354 names, the oldest of the highest class among the READY items that the unit type serves, with no
list head passed over 64 times, is QUEUED on the unit that R355 gives it (R353 to R355). SEGMENT_SWITCH of a shared unit:
while the partition that the unit serves has weight left and work, it is served on with one segment less; otherwise the unit
turns to the next partition in rotation that has work, for the segments of its weight, 1 at least (R85). -/
def Obligations.DispatchFollowsClassAndWeight : Prop :=
  (∀ (s : State) (p : Port) (ty : UnitType) (i : Item) (u : UnitId), i ∈ s.ports[p].items →
     s.servedBy p i = some ty → s.isReady p i = true → s.chooseUnit p i ty = some u →
     (∀ j ∈ s.ports[p].items, s.parts[p].passedOver j.key < 64) →
     ItemsOk s →
     (∀ j ∈ s.ports[p].items, s.servedBy p j = some ty → s.isReady p j = true → j ≠ i →
       i.cls < j.cls ∨ i.cls = j.cls ∧ i.seq.getD 0 < j.seq.getD 0) →
     Runs (.dispatch p ty) s fun t =>
       t.item? p i.key = some { i with st := .queued, unit := some u, engine := u } ∧
       (∀ j ∈ s.ports[p].items, j ≠ i → j ∈ t.ports[p].items) ∧ (∀ r, r ≠ p → t.ports[r] = s.ports[r]) ∧ SameMemory s t) ∧
  (∀ (s : State) (u : UnitId), u.valid = true → u.ty = .decode ∨ u.ty = .compress ∨ u.ty = .gather →
     let rest := s.served.filter fun x => x.1 != u.slot
     (∀ (p : Port) left, s.served.find? (fun x => x.1 == u.slot) = some (u.slot, p.val, left) → 1 < left →
       s.worksOn u p = true →
       exec (.segmentSwitch u) s = .next { s with served := (u.slot, p.val, left - 1) :: rest }) ∧
     (∀ (p q : Port) left, s.served.find? (fun x => x.1 == u.slot) = some (u.slot, p.val, left) → left ≤ 1 →
       (∀ r, s.weightOf u r ≠ 0) → s.worksOn u q = true → p < q → (∀ r, p < r → r < q → s.worksOn u r = false) →
       exec (.segmentSwitch u) s = .next { s with served := (u.slot, q.val, s.weightOf u q) :: rest }))

/-- SERVICE_START puts an item that may start in service and takes its snapshots of the pipeline's context and of the table
descriptors (R349; 08 R196, 10 R241); a SWAP within bounds pauses its table then (08 Table 8.7); SPECULATIVE_READ changes no
state but its byte count (R359, R360). ITEM_COMPLETE: an ended item that left no pairs in staging buffers and whose
completion may be staged takes its place at the end of the staging FIFO (R309, R352). CONTINUATION dispatches the
continuation pass to its tile once the tile's queue has room (04 R99). -/
def Obligations.ServiceStartsAndEnds : Prop :=
  ((∀ (s : State) (p : Port) (k : Nat) (i : Item), s.item? p k = some i → s.mayStart p i = true →
     Runs (.serviceStart p k) s fun t =>
       (t.item? p k).map (fun j => (j.st, j.ctx, j.snap)) =
         some (.inService, some (s.parts[p].ctx[Fin.ofNat 256 i.pipeline]), s.parts[p].gtab) ∧
       (∀ r, r ≠ p → t.ports[r] = s.ports[r] ∧ t.parts[r] = s.parts[r]) ∧
       (∀ g, i.isSwap = true → s.gatherRec p i.table = some g → s.swapBounds p i g = false →
         t.parts = (s.pauseTable p i.table i.key).parts) ∧
       (i.opcode ≠ opFirnLoad → i.isSwap = false → t = s.updPort p fun _ => t.ports[p]) ∧
       t = { s with ports := t.ports, parts := t.parts }) ∧
   ∀ (s : State) (p : Port) (k : Nat) (i : Item), s.item? p k = some i →
     Runs (.speculativeRead p k) s fun t => OnlyPart p s t ∧
       t.parts[p] = { s.parts[p] with cnt := t.parts[p].cnt } ∧
       ∀ c : PCnt, c ≠ .specReadBytes → t.parts[p].cnt[c.ix] = s.parts[p].cnt[c.ix]) ∧
  ((∀ (s : State) (p : Port) (k : Nat) (i : Item), s.item? p k = some i → i.orphan = false → s.canStage p i = true →
     s.stagingTiles p k = [] →
     exec (.itemComplete p k) s = .next (s.updPort p fun q => { q with
       items := q.items.map fun j => if j.key == k then { j with st := .staged } else j, staged := q.staged ++ [k] })) ∧
   ∀ (s : State) (p : Port) (k : Nat) (i : Item) (tile : Nat) (args : PassArgs), s.item? p k = some i →
     i.cont = some (tile, args) → i.st = .completing → s.tileRoom (tix tile) = true →
     Runs (.continuation p k) s fun t =>
       t.tiles[tix tile].queue = s.tiles[tix tile].queue ++
         [{ port := p, key := k, pipeline := i.pipeline, args := args, window := none, frame := none }] ∧
       (t.item? p k).map (fun j => (j.cont, j.stepsLeft)) = some (none, i.stepsLeft + 1) ∧
       (∀ r, r ≠ p → t.ports[r] = s.ports[r]) ∧ (∀ x, x ≠ tix tile → t.tiles[x] = s.tiles[x]) ∧ SameMemory s t ∧
       t = { s with ports := t.ports, parts := t.parts, tiles := t.tiles, clusters := t.clusters })

/-- COMPLETION_BURST with one staged completion and a CQ with room: its 16 bytes, laid out as Table 13.4 with the write phase
and MORE 0, stand at the CQ tail, which advances and inverts the phase when it wraps to 0; the item leaves; every other byte
of the hosts' memories reads as before (R309, R310). They leave as a strongly ordered write (22 R491). -/
def Obligations.CompletionIsWrittenAtTheTail : Prop :=
  ∀ (s : State) (p : Port) (f : Func) (n : Nat) (i : Item), s.host.wf = true → s.asleepFn p f = false →
    s.stagedOf p f n = [i] → (s.qp p f n).st = .enabled → (s.qp p f n).cqFailed = false → 0 < (s.qp p f n).cqFree →
    let q := s.qp p f n
    let addr := q.cqBase.toNat + 16 * q.cqTail
    let bytes := leBytes 4 i.token ++ leBytes 1 i.status.code ++ leBytes 1 (if q.phase then 1 else 0) ++
      leBytes 2 (i.engine.ty.code * 256 + i.engine.idx % 256) ++ leBytes 4 i.r0.toNat ++ leBytes 4 i.r1.toNat
    addr + 16 ≤ 2 ^ 64 →
    Runs (.completionBurst p f n) s fun t =>
      t.hostGet p addr 16 = bytes ∧
      (∀ a, a < p.val * 2 ^ 64 + addr ∨ p.val * 2 ^ 64 + addr + 16 ≤ a → t.host.get a = s.host.get a) ∧
      t.qp p f n = { q with
        cqTail := (q.cqTail + 1) % q.cqSize, phase := if (q.cqTail + 1) % q.cqSize = 0 then !q.phase else q.phase } ∧
      (∀ j ∈ t.ports[p].items, j.key ≠ i.key) ∧ i.key ∉ t.ports[p].staged ∧
      (i.irq = false → t.msgs = (s.sendWrites p f addr 16 false).msgs) ∧ (∀ r, r ≠ p → t.ports[r] = s.ports[r]) ∧
      t = { s with ports := t.ports, host := t.host, msgs := t.msgs, arrivals := t.arrivals }

/-! ## Sleep (16) -/

/-- An idle cluster in RUN enters IDLE when its counter reaches HYST_IDLE: it and each of its units take the oper state with
a new generation, and no event is posted (R370, R375). In IDLE it starts entry to a SLEEP_FLOOR below IDLE unless HYST_FLOOR
is 0xFFFF_FFFF (R370). A shared unit that holds no item enters IDLE, and a decode or compression unit OFF (R367).
SLEEP_ENTRY_DONE: the cluster and its units take the state entered; entry to RETAIN or IDLE without a trigger meanwhile
changes nothing else but its voltage (17 R393), and a trigger meanwhile starts a thaw (R368, R375, Table 16.8). THAW_DONE: a
cluster that is in service and for which nothing waits reaches RUN at its target setting; requests that waited for it are
taken (R373); from OFF every byte of its slabs reads 0 and from OFF and RETAIN its tiles' registers are lost, from IDLE
nothing is; every other cluster's slabs and tiles are as before (R368, R398). The value 0 of a lost register is the model's
(log 3). A shared unit reaches RUN. -/
def Obligations.DomainsSleepAndThaw : Prop :=
  ((∀ (s : State) (c : Cluster), s.clusterOper c.val = .run → s.clusterIdle c = true → s.clusters[c].entering = none →
     Runs (.hystIdleExpiry c) s fun t => TakesOper (domainOf c) .idle s t ∧ OnlyWords (domainOf c) s t) ∧
   (∀ (s : State) (c : Cluster), s.clusterOper c.val = .idle → s.clusterIdle c = true → s.clusters[c].entering = none →
     s.clusters[c].thawing = none →
     let r := s.powerRecord c
     ((r.sleepFloor = 0 ∨ r.sleepFloor = 1) → r.hystFloor ≠ 0xFFFFFFFF → exec (.hystFloorExpiry c) s =
       .next (s.updCluster c fun x => { x with entering := some (if r.sleepFloor = 0 then .off else .retain) })) ∧
     (2 ≤ r.sleepFloor ∨ r.hystFloor = 0xFFFFFFFF → exec (.hystFloorExpiry c) s = .next s)) ∧
   (∀ (s : State) (u : UnitId), u.valid = true → u.ty = .decode ∨ u.ty = .compress ∨ u.ty = .gather →
     (s.ledgerWord u).oper = .run → s.unitHolds u = false →
     Runs (.unitIdleEntry u) s fun t => TakesOper [u] .idle s t ∧ OnlyWords [u] s t) ∧
   ∀ (s : State) (u : UnitId), u.valid = true → u.ty = .decode ∨ u.ty = .compress → (s.ledgerWord u).oper = .idle →
     s.unitHolds u = false → (∀ x ∈ s.unitSleep, x.1 ≠ u.slot) →
     Runs (.unitOffEntry u) s fun t => TakesOper [u] .off s t ∧ OnlyWords [u] s t) ∧
  (∀ (s : State) (c : Cluster) (o : Oper), s.clusters[c].entering = some o → o.down = false →
     Runs (.sleepEntryDone (.cluster c)) s fun t =>
       TakesOper (domainOf c) o s t ∧ t.clusters[c].entering = none ∧ t.clusters[c].rethaw = false ∧
       (∀ d, d ≠ c → t.clusters[d] = s.clusters[d]) ∧ SameMemory s t ∧ t.ports = s.ports ∧
       (let mv := if o = .off then 0 else if o = .retain then 450 else s.power.volts[c]
        t.power = { s.power with volts := s.power.volts.set c mv }) ∧
       (s.clusters[c].rethaw = true → s.clusters[c].thawing = none → s.mayThaw c = true → o ≠ .run →
         (s.ledgerWord ⟨.cluster, c.val⟩).oper.down = false → t.clusters[c].thawing = some o) ∧
       (o ≠ .off → s.clusters[c].rethaw = false →
         OnlyWords (domainOf c) { s with clusters := t.clusters, power := t.power } t)) ∧
  ((∀ (s : State) (c : Cluster) (o : Oper), s.clusters[c].thawing = some o → s.mayThaw c = true →
     Runs (.thawDone (.cluster c)) s fun t =>
       t.clusters[c] = { s.clusters[c] with thawing := none } ∧
       ∀ tile : Tile, tile.val / 8 = c.val → t.tiles[tile].held = []) ∧
   (∀ (s : State) (c : Cluster) (o : Oper), s.slab.wf = true → s.clusters[c].thawing = some o → s.mayThaw c = true →
     (∀ tile : Tile, tile.val / 8 = c.val → s.tiles[tile].held = []) → (∀ p : Port, s.ports[p].windows = []) →
     Runs (.thawDone (.cluster c)) s fun t =>
       TakesOper (domainOf c) .run s t ∧ t.clusters[c] = { s.clusters[c] with thawing := none } ∧
       t.power.running[c] = t.targetSetting c ∧ t.power.volts[c] = settingVolts (t.targetSetting c) ∧
       (∀ d, d ≠ c → t.clusters[d] = s.clusters[d] ∧ t.power.running[d] = s.power.running[d] ∧
         t.power.volts[d] = s.power.volts[d]) ∧
       (o = .off → ∀ tile off, tile / 8 = c.val → off < slabBytes → t.slab.get (slabKey tile off) = 0) ∧
       (∀ tile off, tile / 8 ≠ c.val → off < slabBytes → t.slab.get (slabKey tile off) = s.slab.get (slabKey tile off)) ∧
       (o ≠ .off → t.slab = s.slab ∧ t.slabUe = s.slabUe ∧ t.parts = s.parts) ∧
       (o ≠ .off → o ≠ .retain → t.tiles = s.tiles) ∧
       (∀ tile : Tile, tile.val / 8 ≠ c.val → t.tiles[tile] = s.tiles[tile]) ∧
       t = { s with
         slab := t.slab, slabUe := t.slabUe, parts := t.parts, tiles := t.tiles, clusters := t.clusters
         ledger := t.ledger, ledgerChanges := t.ledgerChanges
         power := { s.power with running := t.power.running, volts := t.power.volts } }) ∧
   ∀ (s : State) (u : UnitId), u.valid = true → (∃ x ∈ s.unitSleep, x.1 = u.slot) →
     Runs (.thawDone (.unit u)) s fun t => TakesOper [u] .run s t ∧ (∀ x ∈ t.unitSleep, x.1 ≠ u.slot) ∧
       OnlyWords [u] { s with unitSleep := t.unitSleep } t)

/-! ## Power and heat (17) -/

/-- CAP_EVALUATION, while the cap loop runs: the cap setting becomes the highest whose estimate fits the effective cap, the
lowest when none does, and ends the brake setting; no cluster in RUN runs above its target (R396, R397, R400).
OP_FREQUENCY_SWITCH: a cluster in RUN takes the lowest of its MAX_OP, the cap setting and its thermal setting, and its
voltage (R366, R393, R396). PMBUS_TELEMETRY: READ_VOUT and READ_IOUT go to the rails that are on, the readings are stored,
package power is their sum, and above the effective cap the cap setting falls one step; a rail whose transactions failed
three times sets FAULTED in its units (R390, R392, R394, R397). PMBUS_STATUS_POLL: a faulty rail sets FAULTED in every unit
that it feeds (R392); which bits of STATUS_WORD are fault bits is presumed (log 15). A rail without a fault changes nothing
but the message. PWRBRK_FALL forces the brake setting, every cluster in RUN at setting 0, and limits the effective cap to
half the cap; its limit lifts again; VRHOT_FALL starts a limit at the effective cap, which falls 25 W a step to 140 W and
rises 25 W a step until it binds no longer (R397, R400, R401). Events aside, only power changes. -/
def Obligations.CapRailsAndPinsLimitPower : Prop :=
  ((∀ (s : State) (a : Activity), s.capLoopRuns = true → Runs (.capEvaluation a) s fun t =>
     t.power.brake = false ∧ t.power.capSetting ≤ 9 ∧
     (t.power.capSetting ≠ 0 → s.estimate a t.power.capSetting ≤ 1000 * s.power.effCap) ∧
     (∀ n, t.power.capSetting < n → n ≤ 9 → 1000 * s.power.effCap < s.estimate a n) ∧
     Settled t ∧
     t = { s with power := { s.power with
       capSetting := t.power.capSetting, brake := false, running := t.power.running, volts := t.power.volts } }) ∧
   ∀ (s : State) (c : Cluster), s.clusterOper c.val = .run →
     let setting := if s.power.brake then 0
       else min (6 + min (s.powerRecord c).maxOp 3) (min s.power.capSetting s.power.thermal[c])
     exec (.opFrequencySwitch c) s =
       .next { s with power := { s.power with
         running := s.power.running.set c setting, volts := s.power.volts.set c (settingVolts setting) } }) ∧
  ((∀ (s : State) (r : List RailReading), s.porN = true → s.boot.fwRunning = true → r.length = 9 →
     (∀ x ∈ r, x.failed = false) →
     let mw := (r.map fun x => x.mv * x.da / 10).sum
     Runs (.pmbusTelemetry r) s fun t =>
       t.power.pkg = mw ∧ (∀ k : Fin 9, (r[k.val]?).map (fun x => (x.mv, x.da)) = some t.power.rails[k]) ∧
       (s.capLoopRuns = true → 1000 * s.power.effCap < mw → t.power.capSetting = s.power.capSetting - 1) ∧
       (mw ≤ 1000 * s.power.effCap → t.power.capSetting = s.power.capSetting ∧ t.power.running = s.power.running) ∧
       t.power.cap = s.power.cap ∧ t.power.throt = s.power.throt ∧
       t.msgs = s.msgs ++ (List.range s.boot.railsOn).flatMap (fun n =>
         [.pmbus (0x40 + n) .readVout, .pmbus (0x40 + n) .readIout]) ∧ OnlyPower { s with msgs := t.msgs } t) ∧
   (∀ (s : State) (r : List RailReading) (n : Nat) (x : RailReading), s.porN = true → s.boot.fwRunning = true →
     n < 6 → n < s.boot.railsOn → r[3 + n]? = some x → x.failed = true → Runs (.pmbusTelemetry r) s fun t =>
       ∀ u ∈ railUnits (0x40 + n), (t.ledgerWord u).oper = .faulted ∧ (t.ledgerWord u).fault.getLsbD 5 = true) ∧
   (∀ (s : State) (addr : Nat) (r : RailStatus), s.porN = true → 0x40 ≤ addr → addr < 0x40 + s.boot.railsOn →
     railFaulty r = true → Runs (.pmbusStatusPoll addr r) s fun t =>
       (∀ u ∈ railUnits addr, (t.ledgerWord u).oper = .faulted ∧ (t.ledgerWord u).fault.getLsbD 5 = true) ∧
       SameMemory s t ∧ t.power = s.power) ∧
   ∀ (s : State) (addr : Nat) (r : RailStatus), railFaulty r = false → exec (.pmbusStatusPoll addr r) s =
     .next (if s.porN = true ∧ 0x40 ≤ addr ∧ addr < 0x40 + s.boot.railsOn then
       { s with msgs := s.msgs ++ [.pmbus addr .statusWord] } else s)) ∧
  (∀ s : State,
     let low (x : Power) : Nat := min x.cap (min (x.pwrbrkLimit.getD x.cap) (x.vrhotLimit.getD x.cap))
     Runs .pwrbrkFall s (fun t =>
       t.power.brake = true ∧ t.power.pwrbrkLimit = some (s.power.cap / 2) ∧ t.power.effCap = low t.power ∧
       (∀ c : Cluster, s.clusterOper c.val = .run → t.power.running[c] = 0) ∧
       OnlyPosted { s with pwrbrkN := false, power := t.power } t) ∧
     Runs .pwrbrkLift s (fun t =>
       t.power = { s.power with pwrbrkLimit := none, effCap := low t.power } ∧
       OnlyPosted { s with pwrbrkN := true, power := t.power } t) ∧
     (∀ hot, Runs (.vrhotFall hot) s fun t =>
       t.power = { s.power with vrhotLimit := some s.power.effCap } ∧ t.moraineSeq = s.moraineSeq + BitVec.ofNat 32 hot.length ∧
       t.msgs = s.msgs ++ (List.range s.boot.railsOn).map (fun n => .pmbus (0x40 + n) .statusWord) ∧
       t = { s with vrhotN := false, power := t.power, moraine := t.moraine, moraineSeq := t.moraineSeq, msgs := t.msgs }) ∧
     (∀ l, s.power.vrhotLimit = some l → s.vrhotN = false → 140 ≤ l → Runs .vrhotLimitStep s fun t =>
       t.power = { s.power with vrhotLimit := some (max 140 (l - 25)), effCap := low t.power } ∧
       OnlyPosted { s with power := t.power } t) ∧
     (∀ l, s.power.vrhotLimit = some l → Runs .vrhotRecoveryStep s fun t =>
       let other := min s.power.cap (s.power.pwrbrkLimit.getD s.power.cap)
       t.power = { s.power with
         vrhotLimit := if other ≤ l + 25 then none else some (l + 25), effCap := low t.power } ∧
       OnlyPosted { s with vrhotN := true, power := t.power } t))

/-- SENSOR_SAMPLE stores the 28 die sensors; a cluster, mesh or Orlys sensor at THROT or above is throttled, at THROT - 3 °C
or below it is not (R402, R403); at 115 °C the device trips (R405). HBM_SENSOR_READ stores the stacks' sensors: at 95 °C or
above a stack is limited to half its bandwidth, at 90 °C or below it is not, and at 105 °C the device trips (R402, R404,
R405). THERMAL_STEP_DOWN: while its own sensor, or a mesh or Orlys sensor, reads THROT or above, a cluster's thermal setting
falls one step; THERMAL_STEP_UP: while all of them read THROT - 3 °C or below, it rises one step, to 9 at most (R403).
THERMAL_TRIP at the trip point: THERMTRIP_n low, every fast domain OFF, or IDLE where it has no OFF (log 110), slabs, tiles
and keys lost, one TRIP entry (R405). A stack above 85 °C refreshes at twice its rate (R404). -/
def Obligations.SensorsAndThermalStepsThrottle : Prop :=
  ((∀ (s : State) (ts : List Int), ts.length = 28 → Runs (.sensorSample ts) s fun t =>
     (∀ (n : Fin 36) x, ts[n.val]? = some x → t.power.temps[n] = x) ∧
     (∀ n x, n < 16 ∨ 24 ≤ n → ts[n]? = some x →
       (10 * (s.power.throt : Int) ≤ x → n ∈ t.power.throttled) ∧
       (x ≤ 10 * (s.power.throt : Int) - 30 → n ∉ t.power.throttled)) ∧
     ((∃ x ∈ ts, 1150 ≤ x) → t.power.tripped = true) ∧
     ((∀ x ∈ ts, x < 1150) → OnlyPosted { s with power := t.power } t ∧ t.power.tripped = s.power.tripped)) ∧
   ∀ (s : State) (ts : List Int), ts.length = 8 → Runs (.hbmSensorRead ts) s fun t =>
     (∀ (k : Fin 8) x, ts[k.val]? = some x →
       t.power.temps[28 + k.val] = x ∧ (950 ≤ x → t.power.hbmHalf.getLsbD k.val = true) ∧
       (x ≤ 900 → t.power.hbmHalf.getLsbD k.val = false) ∧ t.power.hbmRefresh.getLsbD k.val = decide (850 < x)) ∧
     ((∃ x ∈ ts, 1050 ≤ x) → t.power.tripped = true) ∧
     ((∀ x ∈ ts, x < 1050) → OnlyPosted { s with power := t.power } t ∧ t.power.tripped = s.power.tripped)) ∧
  ((∀ (s : State) (c : Cluster),
     let sensors : List (Fin 36) := [⟨c.val, by omega⟩, 24, 25, 26, 27]
     ((∃ n ∈ sensors, 10 * (s.power.throt : Int) ≤ s.power.temps[n]) → Runs (.thermalStepDown c) s fun t =>
       t.power.thermal = s.power.thermal.set c (s.power.thermal[c] - 1) ∧ Settled t ∧
       t = { s with power := { s.power with
         thermal := t.power.thermal, running := t.power.running, volts := t.power.volts } }) ∧
     ((∀ n ∈ sensors, s.power.temps[n] < 10 * (s.power.throt : Int)) → exec (.thermalStepDown c) s = .next s) ∧
     ((∀ n ∈ sensors, s.power.temps[n] ≤ 10 * (s.power.throt : Int) - 30) → Runs (.thermalStepUp c) s fun t =>
       t.power.thermal = s.power.thermal.set c (min 9 (s.power.thermal[c] + 1)) ∧ Settled t ∧
       t = { s with power := { s.power with
         thermal := t.power.thermal, running := t.power.running, volts := t.power.volts } }) ∧
     ((∃ n ∈ sensors, 10 * (s.power.throt : Int) - 30 < s.power.temps[n]) → exec (.thermalStepUp c) s = .next s)) ∧
   ∀ (s : State) (n : Nat) (x : Int), s.power.tripped = false → (if n < 28 then 1150 else 1050) ≤ x →
     Runs (.thermalTrip n x) s fun t =>
       t.thermtripN = false ∧ t.power.tripped = true ∧ t.slab = [] ∧ t.hbm = [] ∧ t.host = s.host ∧
       (∀ p : Port, t.parts[p].keyGen = s.parts[p].keyGen + 1) ∧
       (∀ u : UnitId, u.valid = true → (t.ledgerWord u).oper =
         if fastUnit u = true ∧ (s.ledgerWord u).oper.down = false then (if u.ty = .gather then .idle else .off)
         else (s.ledgerWord u).oper) ∧ t.tiles = State.reset.tiles ∧
       (t.moraine.getLast?.map (·.kind)) = some 5 ∧ t.power.cap = s.power.cap)

/-! ## Host ports (22) -/

/-- A port link reset by PERST_n, hot reset, link loss or a failed IDE check of a Secure stream: every function's epoch
increments, once for a reset and a scrub that meet (Table 3.8), and its queue pairs are at their reset values, no item of
the port is left that would post a completion, the link is down, VFs, IDE and SPDM are gone; no memory changes; with
RETAIN_ON_LINK_RESET the partition keeps its image, without it a scrub is under way or waits for an apply (R90, R463, R464,
R499, R509, R518). FLR of the PF acts on every function of the port, of a VF on that VF alone: the epochs increment, items
end, queue pairs, counters and PORT_ERR are at their reset values; of a VF, no other function changes (R463, R497, R516,
R518). VF_ENABLE takes NumVFs VFs into being unless NumVFs is above 7 without ARI; cleared, it takes them away (R495). -/
def Obligations.ResetsEndFunctionsAndPorts : Prop :=
  (∀ (s : State) (p : Port) (c : Instr),
     c = .perstAssert p ∨ c = .hotReset p ∨ c = .linkDown p ∨ (c = .ideCheckFailed p ∧ s.ports[p].ideSecure = true) →
     Runs c s fun t =>
       (∀ f, (t.fn p f).epoch = (s.fn p f).epoch +
         if s.parts[p].place.any (·.retain) = false ∧ s.parts[p].scrubBumped = true then 0 else 1) ∧
       (∀ f n, t.qp p f n = QueuePair.reset) ∧
       (∀ i ∈ t.ports[p].items, i.orphan = true) ∧ t.ports[p].linkUp = false ∧ t.ports[p].vfEnable = false ∧
       t.ports[p].ideRx = .none ∧ t.ports[p].ideTx = .none ∧ t.ports[p].spdm = .none ∧
       (c = .perstAssert p → t.ports[p].perstN = false) ∧ (c ≠ .perstAssert p → t.ports[p].perstN = s.ports[p].perstN) ∧
       (c = .linkDown p → (t.fn p 0).portErr.getLsbD 6 = true) ∧ SameMemory s t ∧ t.time = s.time ∧
       (∀ r, r ≠ p → t.parts[r] = s.parts[r] ∧ t.ports[r].items = s.ports[r].items) ∧
       (s.parts[p].place.any (·.retain) = true →
         t.parts[p].image = s.parts[p].image ∧ t.parts[p].pstate = s.parts[p].pstate) ∧
       (s.parts[p].place.any (fun r => !r.retain) = true →
         t.parts[p].op.any (·.kind == .scrub) = true ∨ t.parts[p].scrubNext.isSome = true)) ∧
  ((∀ (s : State) (p : Port), Runs (.flr p 0) s fun t =>
     (∀ f, (t.fn p f).epoch = (s.fn p f).epoch + 1) ∧ (∀ f n, t.qp p f n = QueuePair.reset) ∧
     (∀ i ∈ t.ports[p].items, i.orphan = true) ∧ (t.fn p 0).portErr = 0 ∧ (t.fn p 0).cnt = Vector.replicate 7 0 ∧
     t.ports[p].vfEnable = false ∧ t.ports[p].linkUp = s.ports[p].linkUp ∧ SameMemory s t ∧
     ∀ r, r ≠ p → t.ports[r] = s.ports[r] ∧ t.parts[r] = s.parts[r]) ∧
   (∀ (s : State) (p : Port) (f : Func), f ≠ 0 → s.fnExists p f = true → Runs (.flr p f) s fun t =>
     (t.fn p f).epoch = (s.fn p f).epoch + 1 ∧ (∀ n, t.qp p f n = QueuePair.reset) ∧
     (∀ i ∈ t.ports[p].items, i.fn = f → i.orphan = true) ∧ (t.fn p f).portErr = 0 ∧
     (t.fn p f).cnt = Vector.replicate 7 0 ∧ (∀ g, g ≠ f → t.fn p g = s.fn p g) ∧ SameMemory s t ∧
     ∀ r, r ≠ p → t.ports[r] = s.ports[r] ∧ t.parts[r] = s.parts[r]) ∧
   (∀ (s : State) (p : Port), s.ports[p].numVfs ≤ 7 ∨ s.ports[p].ari = true →
     exec (.vfEnable p true) s = .next (s.updPort p fun q => { q with vfEnable := true })) ∧
   (∀ (s : State) (p : Port), 7 < s.ports[p].numVfs → s.ports[p].ari = false → exec (.vfEnable p true) s = .next s) ∧
   ∀ (s : State) (p : Port), s.ports[p].vfEnable = true → Runs (.vfEnable p false) s fun t =>
     t.ports[p].vfEnable = false ∧ (t.fn p 0).epoch = (s.fn p 0).epoch ∧
     (∀ f : Func, f ≠ 0 → f.val ≤ s.ports[p].numVfs → (t.fn p f).epoch = (s.fn p f).epoch + 1) ∧
     (∀ f : Func, f ≠ 0 → f.val ≤ s.ports[p].numVfs → ∀ n, t.qp p f n = QueuePair.reset) ∧ SameMemory s t)

/-- PORT_CTRL returns to its reset value at PERST_n assertion, at a hot reset and at FLR of the PF; FLR of a VF does not change
it (R515). -/
def Obligations.PortCtrlResets : Prop :=
  ∀ (s : State) (p : Port),
    (∀ c ∈ [Instr.perstAssert p, .hotReset p, .flr p 0],
      Runs c s fun t => t.ports[p].cto = PortState.reset.cto ∧ t.readReg p 0 0x18 = 2) ∧
    ∀ f : Func, f ≠ 0 → Runs (.flr p f) s fun t => t.ports[p].cto = s.ports[p].cto

/-- D3HOT_ENTRY: the function sleeps and none of its queue pairs stays ENABLED; D3HOT_EXIT wakes it (R498). The link trains
to the width and rate given once PERST_n is high and the PHY is up, with the clocking of Common Clock Configuration (R489,
R503); L1 and its enabled substates are entered with ASPM L1 enabled and left again (R501); HSTOP_n follows its pin (R287).
A configuration request to a function that exists is answered and takes effect at once, as long as no vector waits with its
Pending Bit: identification reads, NumVFs up to VF_COUNT while VF Enable is 0, BAR4's size at the next Memory Space Enable,
MSI-X enables; a vector that waits is signalled once nothing masks it (R444, R487, R494 to R496). -/
def Obligations.PowerStatesAndConfiguration : Prop :=
  (∀ (s : State) (p : Port) (f : Func),
     (s.fnExists p f = true → (s.fn p f).d3 = false → Runs (.d3hotEntry p f) s fun t =>
       (t.fn p f).d3 = true ∧ (∀ n, (t.qp p f n).st ≠ .enabled) ∧ (∀ g, g ≠ f → t.fn p g = s.fn p g) ∧
       t.ports[p].items = s.ports[p].items ∧ t = { s with ports := t.ports, msgs := t.msgs }) ∧
     (s.fnExists p f = true → (s.fn p f).d3 = true →
       exec (.d3hotExit p f) s = .next (s.updFn p f fun x => { x with d3 := false })) ∧
     (∀ lanes rate flit, s.porN = true → s.ports[p].phyUp = true → lanes ∈ [16, 8, 4] → 1 ≤ rate → rate ≤ 6 →
       exec (.linkUp p lanes rate flit) s = .next (s.updPort p fun q => { q with
         perstN := true, linkUp := true, lanes := lanes, rate := rate, flit := flit || rate == 6, linkPm := .l0
         clkreqN := false, commonClock := (s.fn p 0).commonClock })) ∧
     (s.ports[p].linkUp = true → (s.fn p 0).aspmL1 = true →
       exec (.l1Entry p 0) s = .next (s.updPort p fun q => { q with linkPm := .l1, clkreqN := false }) ∧
       ((s.fn p 0).l11 = true →
         exec (.l1Entry p 1) s = .next (s.updPort p fun q => { q with linkPm := .l11, clkreqN := true })) ∧
       ((s.fn p 0).l12 = true →
         exec (.l1Entry p 2) s = .next (s.updPort p fun q => { q with linkPm := .l12, clkreqN := true }))) ∧
     (s.ports[p].linkPm ≠ .l0 →
       exec (.l1Exit p) s = .next (s.updPort p fun q => { q with linkPm := .l0, clkreqN := false })) ∧
     exec (.hstopFall p) s = .next (s.updPort p fun q => { q with hstopN := false }) ∧
     exec (.hstopRise p) s = .next (s.updPort p fun q => { q with hstopN := true })) ∧
  ((∀ (s : State) (p : Port) (f : Func), s.fnExists p f = true → (∀ e ∈ (s.fn p f).msix, e.pending = false) →
     let gives (r : CfgReq) (t : State) : Prop := exec (.configurationRequest p f r) s = .next t
     gives (.read (.header 0)) { s with msgs := s.msgs ++ [.config p f (if f = 0 then 0x70071E7C else 0x70171E7C)] } ∧
     gives (.read (.header 8)) { s with msgs := s.msgs ++ [.config p f 0x12000010] } ∧
     (∀ n, f = 0 → s.ports[p].vfEnable = false → n ≤ s.ports[p].shape.vfCount →
       gives (.numVfs n) (s.updPort p fun q => { q with numVfs := n })) ∧
     (∀ n, s.ports[p].shape.vfCount < n → gives (.numVfs n) s) ∧
     (∀ n, f = 0 → s.ports[p].shape.bar4 = true → n ∈ [16, 32, 64] →
       gives (.bar4Size n) (s.updPort p fun q => { q with bar4Next := some n })) ∧
     (∀ n, f = 0 → (s.fn p f).memEnable = false → s.ports[p].bar4Next = some n → gives (.memSpaceEnable true)
       ((s.updFn p 0 fun x => { x with memEnable := true }).updPort p fun q => { q with bar4Mib := n, bar4Next := none })) ∧
     (∀ on, s.msixSize p f ≠ 0 → gives (.msixEnable on) (s.updFn p f fun x => { x with msixEnable := on })) ∧
     (∀ on, gives (.ptmEnable on) (s.updFn p f fun x => { x with ptmEnable := on })) ∧
     (∀ n ∈ [128, 256, 512], gives (.maxPayload n) (s.updFn p f fun x => { x with mps := n })) ∧
     (∀ on, f = 0 → gives (.aspmL1 on) (s.updFn p f fun x => { x with aspmL1 := on })) ∧
     (∀ on, f = 0 → gives (.commonClock on) (s.updFn p f fun x => { x with commonClock := on })) ∧
     (∀ a b, f = 0 → gives (.l1Substates a b) (s.updFn p f fun x => { x with l11 := a, l12 := b })) ∧
     (∀ v, gives (.aerSeverity v) (s.updFn p f fun x => { x with aerSeverity := v }) ∧
       gives (.aerStatusClear v) (s.updFn p f fun x => { x with aerStatus := x.aerStatus &&& ~~~v })) ∧
     gives (.powerState 1) s ∧ gives (.powerState 2) s ∧
     gives .pmeStatusClear (s.updFn p f fun x => { x with pmeStatus := false })) ∧
   ∀ (s : State) (p : Port) (f : Func) (e : MsixEntry), s.fnExists p f = true → s.msixSize p f ≠ 0 →
     (s.fn p f).msix = [e] → e.pending = true → e.mask = false → (s.fn p f).msixEnable = true →
     Runs (.configurationRequest p f (.msixFunctionMask false)) s fun t =>
       t.msgs = s.msgs ++ [.msix p f e.vector e.addr e.data] ∧ (t.fn p f).msix = [{ e with pending := false }])

/-- HOST_READ_COMPLETION: good bytes are those the item uses; a poisoned or ECRC-failed read is re-issued twice and then ends
the item UNCORRECTABLE; Unsupported Request and Completer Abort end it BOUNDS; COMPLETION_TIMEOUT ends it HOST_TIMEOUT; with
Result0 the offset and Result1 the cause; a completion without its item is discarded and counted (R457, R458, R460, R462,
R558). A failed read is in the function's AER status (22 R504). No memory changes, but for the earlier rows of a SELECT or
SAMPLE, which stand (09 R234, log 100). -/
def Obligations.HostReadsDeliverOrEnd : Prop :=
  ∀ (s : State) (p : Port) (f : Func) (tok : BitVec 32) (off : Nat),
    (s.readOwner p f tok.toNat = none → Runs (.hostReadCompletion p f tok off .poisoned) s fun t =>
      (t.fn p f).cnt[FCnt.dmaLateDiscard.ix] = (s.fn p f).cnt[FCnt.dmaLateDiscard.ix] + 1 ∧
      (t.fn p f).portErr.getLsbD 5 = true ∧ t.ports[p].items = s.ports[p].items ∧ SameMemory s t) ∧
    ∀ i, s.readOwner p f tok.toNat = some i → off < 2 ^ 32 → ItemsOk s →
      let seen := ((i.reissued.find? (·.1 == off)).map (·.2)).getD 0
      let Fails (c : Instr) (st : Status) (cause : BitVec 32) : Prop := Runs c s fun t =>
        (i.opcode ≠ opSelect → i.opcode ≠ opSample → SameMemory s t) ∧
        ∃ j, t.item? p i.key = some j ∧ j.st = .completing ∧ j.status = st ∧ j.r0 = BitVec.ofNat 32 off ∧ j.r1 = cause
      (∀ addr bytes, exec (.hostReadCompletion p f tok off (.ok addr bytes)) s =
        .next (s.updItem p i.key fun j => { j with delivered := j.delivered.puts (addr % 2 ^ 64) bytes })) ∧
      (seen < 2 → ∀ x ∈ [(HostRead.poisoned, AerError.poisoned), (.ecrc, .ecrc)],
        Runs (.hostReadCompletion p f tok off x.1) s fun t => SameMemory s t ∧
          (t.fn p f).aerStatus = (s.fn p f).aerStatus ||| BitVec.ofNat 32 (2 ^ aerBit x.2) ∧
          t.ports[p].items = s.ports[p].items.map fun j => if j.key = i.key then { j with
            reissued := (off, seen + 1) :: j.reissued.filter (·.1 != off) } else j) ∧
      (2 ≤ seen → Fails (.hostReadCompletion p f tok off .poisoned) .uncorrectable 2 ∧
        Fails (.hostReadCompletion p f tok off .ecrc) .uncorrectable 3) ∧
      Fails (.hostReadCompletion p f tok off .unsupportedRequest) .bounds 4 ∧
      Fails (.hostReadCompletion p f tok off .completerAbort) .bounds 5 ∧
      Fails (.completionTimeout p f tok off) .hostTimeout 1

/-- The DOE of a port whose link is up: KEY_EXCHANGE opens an SPDM session that FINISH secures or ends; in a secured session
KEY_PROG, K_SET_GO and K_SET_STOP program, activate and drop the keys of one direction and QUERY changes nothing; DOE_ABORT
discards a partial exchange and keeps an established session (R507 to R509). The bytes of the answers are free (log 10);
that of KEY_EXCHANGE is signed (R423). MEASUREMENT_REQUEST: block 2 is the firmware that was booted; block 4 is the floor
applied, or before step 12 the verified default floor; block 5 the partition's digest and version as they stand, whatever
change is under way; the signature that follows is free (R423, R424, Table 18.4). Nothing else changes but the message and
the counter of free values. -/
def Obligations.DoeSessionsAndMeasurements : Prop :=
  (∀ (s : State) (p : Port), s.doeUp p = true →
     let answered (t : State) (kind : Nat) : State := { t with msgs := t.msgs ++ [.doe p (standardBytes kind 4)] }
     Runs (.keyExchange p) s (fun t =>
       (∃ sig, t.msgs = s.msgs ++ [.doe p (standardBytes 3 4 ++ sig)]) ∧
       t = { s.updPort p (fun q => { q with spdm := .exchanging }) with msgs := t.msgs, free := t.free }) ∧
     (s.ports[p].spdm = .exchanging →
       exec (.finish p true) s = .next (answered (s.updPort p fun q => { q with spdm := .secured }) 4) ∧
       exec (.finish p false) s = .next (answered (s.updPort p fun q => { q with spdm := .none }) 4) ∧
       exec (.doeAbort p) s = .next (s.updPort p fun q => { q with spdm := .none })) ∧
     (s.ports[p].spdm = .secured →
       exec (.doeAbort p) s = .next s ∧
       Runs (.query p) s (fun t => t = answered s 5) ∧
       exec (.kSetStop p true) s = .next (answered (s.updPort p fun q => { q with ideRx := .none }) 8) ∧
       exec (.kSetStop p false) s = .next (answered (s.updPort p fun q => { q with ideTx := .none }) 8) ∧
       (s.ports[p].ideRx ≠ .active →
         exec (.keyProg p true) s = .next (answered (s.updPort p fun q => { q with ideRx := .programmed }) 6)) ∧
       (s.ports[p].ideTx ≠ .active →
         exec (.keyProg p false) s = .next (answered (s.updPort p fun q => { q with ideTx := .programmed }) 6)) ∧
       (s.ports[p].ideRx ≠ .none →
         exec (.kSetGo p true) s = .next (answered (s.updPort p fun q => { q with ideRx := .active }) 7)) ∧
       (s.ports[p].ideTx ≠ .none →
         exec (.kSetGo p false) s = .next (answered (s.updPort p fun q => { q with ideTx := .active }) 7)))) ∧
  (∀ (s : State) (p : Port), s.doeUp p = true →
     let Shows (idx : Nat) (body : List Byte) : Prop := Runs (.measurementRequest p idx) s fun t =>
       (∃ sig, t.msgs = s.msgs ++ [.doe p (body ++ sig)]) ∧ t = { s with msgs := t.msgs, free := t.free }
     Shows 2 (2 :: s.boot.running.elim (List.replicate 48 0) fun m => m.digest) ∧
     (s.boot.ready = true → Shows 4 (4 :: s.floorDigest)) ∧
     (s.boot.ready = false → s.boot.fatal = false → ∀ fl, s.boot.defaultFloor = some fl → Shows 4 (4 :: fl.digest)) ∧
     Shows 5 (5 :: s.parts[p].digest ++ leBytes 8 s.parts[p].version.toNat) ∧
     Shows 6 (6 :: leBytes 1 s.floorSel.toNat ++ leBytes 1 s.orderCode.gbPerStack ++ leBytes 1 p.val))

/-! ## Batch queues (12) -/

/-- QUEUE_MARK, QUEUE_REWIND and QUEUE_RELEASE of an enabled queue, from the PF or the consuming function, have the effects and
results of Table 12.7; from any other function they complete UNSUPPORTED (R286). No memory, no other queue and no other port
changes but by events. -/
def Obligations.QueueOperationsMoveReadAndRelease : Prop :=
  ∀ (s : State) (p : Port) (k m : Nat) (i : Item), i.fld 16 1 = m → m < 64 → (s.bq p m).enabled = true →
    let q := s.bq p m
    let mine := i.fn = 0 ∨ i.fn.val = q.consumer
    let Ends (c : Instr) (st : Status) (r0 r1 : Nat) (P : State → Prop) : Prop := Runs c s fun t =>
      Completed p k st r0 r1 t ∧ SameMemory s t ∧ OtherQueuesKept p m s t ∧ P t
    (s.serving p k opQueueMark = some i → mine →
      Ends (.queueMark p k) .ok (q.read % 2 ^ 32) (q.read / 2 ^ 32) fun t => t.bq p m = { q with mark := some q.read }) ∧
    (s.serving p k opQueueRewind = some i → mine →
      (∀ d, q.mark = some d → q.rel ≤ d → (∀ c, q.copying = some c → c.1 < d) →
        Ends (.queueRewind p k) .ok (q.read - d) 0 fun t =>
          t.bq p m = { q with read := d, unpopped := q.unpopped.filter fun e => e.1 < d }) ∧
      (∀ d c, q.mark = some d → q.rel ≤ d → q.copying = some c → d ≤ c.1 → exec (.queueRewind p k) s = .next s) ∧
      ((∀ d, q.mark = some d → d < q.rel) → Ends (.queueRewind p k) .stateStale (q.rel % 2 ^ 32) 0 fun t =>
        t.bq p m = q)) ∧
    (s.serving p k opQueueRelease = some i → mine →
      let rel := max q.rel (i.fld 24 8)
      (i.fld 24 8 ≤ q.read → Runs (.queueRelease p k) s fun t =>
        Completed p k .ok ((t.bq p m).tail - rel) 0 t ∧ SameMemory s t ∧ OtherQueuesKept p m s t ∧
        (t.bq p m).rel = rel ∧ (t.bq p m).read = q.read ∧
        (q.waits false = false → q.waits true = false → (t.bq p m).tail = q.tail) ∧
        (t.bq p m).mark = q.mark.filter fun d => decide (rel ≤ d)) ∧
      (q.read < i.fld 24 8 → Ends (.queueRelease p k) .stateStale (q.read % 2 ^ 32) 0 fun t => t.bq p m = q)) ∧
    (¬mine →
      (s.serving p k opQueueMark = some i → Ends (.queueMark p k) .unsupported 0 0 fun t => t.bq p m = q) ∧
      (s.serving p k opQueueRewind = some i → Ends (.queueRewind p k) .unsupported 0 0 fun t => t.bq p m = q) ∧
      (s.serving p k opQueueRelease = some i → Ends (.queueRelease p k) .unsupported 0 0 fun t => t.bq p m = q))

/-- BQ_RELEASE by the consuming function raises REL to UPTO, refused with cause 13 beyond READ (R286), and a bank that
waited for a slot takes the freed one (Table 12.8; TAIL counts it then, log 17); a write of BQ_WM takes watermarks that fit
the record and refuses others with cause 12 (R522); the host ring of an enabled queue with a ring is not changed, nor is one
above 4,096 slots taken, with cause 11 (R521). BQ_WANT adds its low 16 bits to the credits, saturating at 65,535 (R287); in
PUSH_IDLE with nothing to deliver, credits, a ring and HSTOP_n high it delivers one IDLE pack, which takes one credit and
leaves READ unchanged (R288). -/
def Obligations.QueueRegistersAndCredits : Prop :=
  (∀ (s : State) (p : Port) (m : Nat), s.ready = true → m < 64 →
     let q := s.bq p m
     (∀ (f : Func) (upto : BitVec 64), s.fnExists p f = true → q.consumer = f.val → q.enabled = true →
       (upto.toNat ≤ q.read → Runs (.bqRelease p f m upto) s fun t =>
         (t.bq p m).rel = max q.rel upto.toNat ∧ (t.bq p m).read = q.read ∧
         (q.waits false = false → q.waits true = false → (t.bq p m).tail = q.tail) ∧
         (q.otherBank.closedSeq = some q.tail → q.fillBank.closedSeq = none → q.tail - max q.rel upto.toNat < s.bqDepth p m →
           (t.bq p m).tail = q.tail + 1) ∧
         (t.bq p m).mark = q.mark.filter (fun d => decide (max q.rel upto.toNat ≤ d)) ∧ SameMemory s t ∧
         OtherQueuesKept p m s t) ∧
       (q.read < upto.toNat →
         exec (.bqRelease p f m upto) s = .next (s.setBq p m fun b => { b with cause := 13 }))) ∧
     ∀ v : BitVec 64,
       let hi := v.toNat % 2 ^ 16
       let lo := v.toNat / 2 ^ 16 % 2 ^ 16
       let hy := v.toNat / 2 ^ 32 % 2 ^ 16
       let fit := lo < hi ∧ hi ≤ s.bqDepth p m ∧ hy < hi ∧ lo + hy < s.bqDepth p m
       (fit → Runs (.bqWm p m v) s fun t => (t.bq p m).wmHigh = hi ∧ (t.bq p m).wmLow = lo ∧ (t.bq p m).wmHyst = hy ∧
         (q.enabled = true → hi ≤ q.fillCount → (t.bq p m).qhi = true) ∧
         (q.enabled = true → q.fillCount ≤ lo → (t.bq p m).qlo = true) ∧ (t.bq p m).read = q.read ∧
         OtherQueuesKept p m s t) ∧
       (¬fit → exec (.bqWm p m v) s = .next (s.setBq p m fun b => { b with cause := 12 })) ∧
       (s.fnExists p 0 = true →
         let base := 0x20000 + 0x80 * m
         let n := v.toNat % 2 ^ 13
         let locked := q.enabled = true ∧ q.ringSize ≠ 0
         let aligned : BitVec 64 := BitVec.ofNat 64 (v.toNat / 4096 * 4096)
         let refused : State := s.setBq p m fun b => { b with cause := 11 }
         (locked → exec (.registerWrite p 0 (base + 0x08) .w8 v) s = .next refused ∧
           exec (.registerWrite p 0 (base + 0x10) .w8 v) s = .next refused) ∧
         (4096 < n → exec (.registerWrite p 0 (base + 0x10) .w8 v) s = .next refused) ∧
         (¬locked → exec (.registerWrite p 0 (base + 0x08) .w8 v) s =
           .next (s.setBq p m fun b => { b with ringBase := aligned })) ∧
         (¬locked → n ≤ 4096 → exec (.registerWrite p 0 (base + 0x10) .w8 v) s =
           .next (s.setBq p m fun b => { b with ringSize := n })))) ∧
  (∀ (s : State) (p : Port) (f : Func) (m : Nat) (v : BitVec 64), s.ready = true → s.fnExists p f = true → m < 64 →
     (s.bq p m).enabled = true → (s.bq p m).consumer = f.val ∨ f = 0 →
     let q := s.bq p m
     let credits := min 65535 (q.credits + v.toNat % 65536)
     let idles := q.mode = 0 ∧ q.read = q.tail ∧ 0 < credits ∧ q.ringSize ≠ 0 ∧ s.ports[p].hstopN = true ∧
       s.asleepFn p q.fn = false
     (¬idles → Runs (.bqWant p f m v) s fun t =>
       t.bq p m = { q with credits := credits } ∧ SameMemory s t ∧ OtherQueuesKept p m s t) ∧
     (idles → s.host.wf = true → q.ringBase.toNat + 4096 * 16777216 ≤ 2 ^ 64 → s.slotBytes p m ≤ 16777216 →
       q.ringSize ≤ 4096 → Runs (.bqWant p f m v) s fun t =>
         let slot := s.hostSlot p m (q.delivered % q.ringSize)
         t.bq p m = { q with credits := credits - 1, delivered := q.delivered + 1 } ∧
         t.parts[p].cnt[PCnt.batchIdle.ix] = s.parts[p].cnt[PCnt.batchIdle.ix] + 1 ∧
         t.hostGet p slot 8 = leBytes 4 0x4B424154 ++ leBytes 2 1 ++ leBytes 2 1 ∧
         t.hostGet p (slot + 8) 8 = leBytes 8 q.tail ∧
         (∀ a, a < p.val * 2 ^ 64 + slot ∨ p.val * 2 ^ 64 + slot + 64 ≤ a → t.host.get a = s.host.get a) ∧
         t.slab = s.slab ∧ t.hbm = s.hbm ∧ OtherQueuesKept p m s t))

/-- In PULL a delivery sends its pack and raises no interrupt. BQ_POP returns and removes the oldest delivered and unpopped
pack, as VALID, the host slot and the low 48 bits of SEQUENCE, and the not-valid tag when there is none (R289). -/
def Obligations.PullPopsDeliveredPacks : Prop :=
  ∀ (s : State) (p : Port) (m : Nat), s.ready = true → m < 64 →
    (s.bq p m).enabled = true → (s.bq p m).pull = true →
    (∀ (f : Func) e rest, s.fnExists p f = true → (s.bq p m).consumer = f.val → (s.bq p m).unpopped = e :: rest →
      exec (.bqPop p f m .w8) s = .next { s.setBq p m (fun b => { b with unpopped := rest }) with
        rdata := .reg (BitVec.ofNat 64 (2 ^ 63 + e.2 % 2 ^ 12 * 2 ^ 48 + e.1 % 2 ^ 48)) }) ∧
    (∀ f : Func, (s.bq p m).unpopped = [] → exec (.bqPop p f m .w8) s = .next { s with rdata := .reg 0 }) ∧
    ∀ seq slot l, (s.bq p m).copying = some (seq, slot) → (s.bq p m).layout = some l →
      Runs (.deliveryComplete p m) s fun t => (∀ q f, (t.fn q f).msix = (s.fn q f).msix) ∧
        (∃ ms, t.msgs = s.msgs ++ ms ∧ ∀ x ∈ ms, ∃ a n r, x = .memWrite p (s.bq p m).fn a n r) ∧
        (t.bq p m).unpopped = (s.bq p m).unpopped ++ [(seq, slot)]

/-- BQ_CTRL: a write that sets ENABLE of a disabled queue whose checks pass enables it empty, with the layout read and its
sequence numbers, credits and marks cleared; one whose checks fail records the cause and changes nothing else; on an enabled
queue a change is refused with cause 10 (R271, R520, R523, R474). A write that clears ENABLE discards the queue's contents
once a copy in progress has completed (R520). -/
def Obligations.EnableStartsAnEmptyQueue : Prop :=
  ∀ (s : State) (p : Port) (m : Nat) (v : BitVec 64), s.ready = true → m < 64 →
    let q := s.bq p m
    let ctrl := bqCtrlValue q.ctrl v
    (ctrl.toNat % 2 = 1 → q.enabled = false →
      (∀ c l, s.bqEnableCheck p m { q with ctrl := ctrl } = (c, some l) → Runs (.bqEnable p m v) s fun t =>
        let b := t.bq p m
        b.enabled = true ∧ b.ctrl = ctrl ∧ b.cause = 0 ∧ b.layout = some l ∧ b.rel = 0 ∧ b.read = 0 ∧ b.tail = 0 ∧
        b.mark = none ∧ b.credits = 0 ∧ b.delivered = 0 ∧ b.unpopped = [] ∧ b.arriving = [] ∧
        b.fillBank.ordinals = [] ∧ b.otherBank.closedSeq = none ∧ t.hbm = s.hbm ∧ t.host = s.host ∧
        (l.shuffled = false → t.slab = s.slab) ∧ OtherQueuesKept p m s t) ∧
      (∀ c, s.bqEnableCheck p m { q with ctrl := ctrl } = (c, none) →
        exec (.bqEnable p m v) s = .next (s.setBq p m fun b => { b with cause := c }))) ∧
    (ctrl.toNat % 2 = 1 → q.enabled = true → ctrl ≠ q.ctrl →
      exec (.bqEnable p m v) s = .next (s.setBq p m fun b => { b with cause := 10 })) ∧
    (q.enabled = true → Runs (.bqDisable p m) s fun t =>
      (t.bq p m).enabled = false ∧ (t.bq p m).layout = none ∧ (t.bq p m).tail = 0 ∧ (t.bq p m).credits = 0 ∧
      (t.bq p m).unpopped = [] ∧ (t.bq p m).copying = none ∧ t.slab = s.slab ∧ t.hbm = s.hbm ∧
      (q.copying = none → t.host = s.host) ∧ OtherQueuesKept p m s t)

/-- DELIVERY: with credits, READ below TAIL, a ring, HSTOP_n high and the consumer awake, the copy of the pack of READ to host
slot (delivery count mod BQ_RING_SIZE) begins: READ and the delivery count rise by 1 and one credit is taken (R287).
DELIVERY_COMPLETE: the pack's bytes in HBM stand in the host slot (R287). -/
def Obligations.DeliveryCopiesThePackOfRead : Prop :=
  (∀ (s : State) (p : Port) (m : Nat) (l : Layout), (s.bq p m).enabled = true → (s.bq p m).layout = some l →
    let q := s.bq p m
    0 < q.credits → q.read < q.tail → q.ringSize ≠ 0 → s.ports[p].hstopN = true → s.asleepFn p q.fn = false →
    q.copying = none → q.unwritten q.read = false → s.hbmBad p (s.slotAt p m l q.read).1 (s.slotAt p m l q.read).2 l.packBytes = false →
    Runs (.delivery p m) s fun t =>
      t.bq p m = { q with
        copying := some (q.read, q.delivered % q.ringSize), read := q.read + 1, delivered := q.delivered + 1
        credits := q.credits - 1 } ∧ SameMemory s t ∧ OtherQueuesKept p m s t) ∧
  ∀ (s : State) (p : Port) (m seq slot : Nat) (l : Layout), s.host.wf = true → (s.bq p m).copying = some (seq, slot) →
    (s.bq p m).layout = some l → 64 ≤ l.packBytes → s.hostSlot p m slot + l.packBytes ≤ 2 ^ 64 →
    Runs (.deliveryComplete p m) s fun t =>
      t.hostGet p (s.hostSlot p m slot) l.packBytes =
        s.hbmGet p (s.slotAt p m l seq).1 (s.slotAt p m l seq).2 l.packBytes ∧
      (∀ a, a < p.val * 2 ^ 64 + s.hostSlot p m slot ∨ p.val * 2 ^ 64 + s.hostSlot p m slot + l.packBytes ≤ a →
        t.host.get a = s.host.get a) ∧
      (t.bq p m).copying = none ∧ t.slab = s.slab ∧ t.hbm = s.hbm ∧ OtherQueuesKept p m s t

/-- BATCH_CLOSE, once no earlier item of the queue's pipeline lacks its completion and the fill bank is open: an empty bank
completes IDLE with Result1 TAIL; otherwise the bank closes with its SEQUENCE, which its pack's header in the slab holds, and
the item completes OK with the ordinals closed and SEQUENCE, and TAIL rises by 1 where a slot is free (R281, R282, R284; a full
queue's TAIL rises when a slot is freed, log 17). BANK_SWAP: a closed fill bank swaps with a drained other bank (R281).
PACK_SLOT_WRITE: the pack of a closed bank that TAIL counts is written to slot SEQUENCE mod DEPTH of the ring in HBM, and the
bank is free (R283). SHUFFLE_EPOCH_RESET: once the old epoch's bank
has closed, the bitmap is cleared, the position is 0, the pipeline's context is in force, and emission goes on (R276). -/
def Obligations.BanksCloseAndDrain : Prop :=
  (∀ (s : State) (p : Port) (k m : Nat) (i : Item) (l : Layout), s.serving p k opBatchClose = some i → i.fld 16 1 = m →
     m < 64 → (s.bq p m).enabled = true → (s.bq p m).layout = some l → (s.bq p m).fillBank.closedSeq = none →
     (∀ j ∈ s.earlier p i, j.seq.isSome = true → j.pipeline ≠ l.pipeline) →
     let q := s.bq p m
     (q.fillBank.ordinals = [] → Runs (.batchClose p k) s fun t =>
       Completed p k .idle 0 (q.tail % 2 ^ 32) t ∧ OnlyPort p s t) ∧
     (q.fillBank.ordinals ≠ [] → s.slab.wf = true → Runs (.batchClose p k) s fun t =>
       Completed p k .ok q.fillBank.ordinals.length (q.nextSeq % 2 ^ 32) t ∧
       (t.bq p m).fillBank = { q.fillBank with closedSeq := some q.nextSeq } ∧
       (t.bq p m).otherBank = q.otherBank ∧ (t.bq p m).rel = q.rel ∧
       (q.otherBank.closedSeq = none →
         (t.bq p m).tail = if q.fillCount < s.bqDepth p m then q.tail + 1 else q.tail) ∧
       t.parts[p].cnt[PCnt.batchClosed.ix] = s.parts[p].cnt[PCnt.batchClosed.ix] + 1 ∧
       t.slabGet q.tile (s.bankBase p m l q.fill + 8) 8 = leBytes 8 q.nextSeq ∧
       t.hbm = s.hbm ∧ t.host = s.host ∧ OtherQueuesKept p m s t)) ∧
  ((∀ (s : State) (p : Port) (m : Nat), (s.bq p m).enabled = true → (s.bq p m).fillBank.closedSeq.isSome = true →
     (s.bq p m).otherBank.closedSeq = none → Runs (.bankSwap p m) s fun t =>
       (t.bq p m).fill = !(s.bq p m).fill ∧ (t.bq p m).otherBank = (s.bq p m).fillBank ∧
       ((s.bq p m).arriving = [] → (s.bq p m).layout.any (·.shuffled) = false →
         (t.bq p m).fillBank = Bank.empty ∧ SameMemory s t) ∧ t.host = s.host ∧ OtherQueuesKept p m s t) ∧
   (∀ (s : State) (p : Port) (m seq : Nat) (l : Layout), s.hbm.sorted = true → (s.bq p m).enabled = true →
     (s.bq p m).layout = some l → (s.bq p m).otherBank.closedSeq = some seq → seq < (s.bq p m).tail →
     let q := s.bq p m
     let base := s.bankBase p m l (!q.fill)
     let slot := s.slotAt p m l seq
     s.slabBad q.tile base l.packBytes = false →
     Runs (.packSlotWrite p m) s fun t =>
       t.hbmGet p slot.1 slot.2 l.packBytes = s.slabGet q.tile base l.packBytes ∧
       (∀ a, a < hbmKey p slot.1 slot.2 ∨ hbmKey p slot.1 slot.2 + l.packBytes ≤ a → t.hbm.find? a = s.hbm.find? a) ∧
       (t.bq p m).tail = q.tail ∧ (t.bq p m).otherBank = Bank.empty ∧ (t.bq p m).fillBank = q.fillBank ∧
       t.slab = s.slab ∧ t.host = s.host ∧ OtherQueuesKept p m s t) ∧
   ∀ (s : State) (p : Port) (m : Nat) (l : Layout), (s.bq p m).enabled = true → (s.bq p m).layout = some l →
     (s.bq p m).epochPending = true →
     (s.bq p m).fillBank.closedSeq.isSome = true ∨ (s.bq p m).fillBank.ordinals = [] →
     exec (.shuffleEpochReset p m) s = .next
       (((s.slabZero (s.bq p m).tile l.bitmapOffset 8388608).setBq p m fun b =>
         { b with pos := 0, epochPending := false, ctx := some (s.ctxOf p l.pipeline) }).emit p m))

/-- SAMPLE_ARRIVAL: the assembly tile takes the first vector of receive queue 3 and its credit goes back to the sender; a
sample for a disabled queue is discarded and counted; under ARRIVAL and FORWARD, a whole one-tensor sample takes the next
ordinal, and its slice stands at that index of the tensor in the fill bank (R272 to R274, R277). -/
def Obligations.SamplesTakeTheNextOrdinal : Prop :=
  ∀ (s : State) (p : Port) (tile : Tile) (pk : RxPacket) (rest : List RxPacket), s.tilePart tile.val = some p →
    s.queuesAt p tile.val ≠ [] → (∀ m ∈ s.queuesAt p tile.val, (s.bq p m).holding = false) →
    s.clusterOper (tile.val / 8) = .run → (s.ledgerWord ⟨.tile, tile.val⟩).oper ≠ .fenced →
    s.tiles[tile].rxq[(3 : Fin 4)] = pk :: rest →
    let taken := (s.updTile tile fun x => { x with rxq := x.rxq.set (3 : Fin 4) rest }).creditOwed (tileStop tile.val) pk
    let m := field pk.data 7 1
    let q := s.bq p m
    Runs (.sampleArrival tile) s (fun t =>
      t.tiles[tile].rxq = taken.tiles[tile].rxq ∧ (∀ o, o ≠ tile → t.tiles[o] = s.tiles[o]) ∧
      (∃ ms, t.msgs = taken.msgs ++ ms) ∧ t.host = s.host) ∧
    (s.continues p tile.val pk = none → s.tiles[tile].dropping = [] → m < 64 → q.enabled = false →
      Runs (.sampleArrival tile) s fun t => SameMemory s t ∧ (∀ n, t.bq p n = s.bq p n) ∧
        t.parts[p].cnt[PCnt.batchBadSample.ix] = s.parts[p].cnt[PCnt.batchBadSample.ix] + 1) ∧
    ∀ (l : Layout) (e : LayoutEntry), s.continues p tile.val pk = none → s.tiles[tile].dropping = [] → m < 64 →
      q.enabled = true → q.layout = some l →
      q.tile = tile.val → l.shuffled = false → l.packed = false → l.tensors = [e] → q.arriving = [] →
      pk.data.length = 1024 → field pk.data 6 1 = 0 → field pk.data 8 4 = 0 → zeros pk.data 25 7 = true →
      l.need 0 ≤ 992 → q.fillBank.ordinals.length + 1 < l.s → q.fillBank.closedSeq = none →
      s.slab.wf = true →
      let j := q.fillBank.ordinals.length
      let per := e.sampleLen * e.posBytes
      Runs (.sampleArrival tile) s fun t =>
        (t.bq p m).fillBank.ordinals = q.fillBank.ordinals ++
          [{ sample := field pk.data 0 6, void := false, frame := pk.frame, row := j, col := 0, len := 1 }] ∧
        (t.bq p m).arriving = [] ∧ t.hbm = s.hbm ∧
        t.slabGet q.tile (s.bankBase p m l q.fill + l.tensorOffset 0 + j * per) per = slice pk.data 32 per

/-! ## Start-up (19, 18) -/

/-- Assertion of POR_n stops the device: slabs, HBM, tiles, ports and partitions are lost, while flash, ledger words, moraine
log, sensor readings, trip latch and the hosts' memory stay; removal of power loses the ledger's words, the log and the latch
too (R427, R448, R449, Table 19.6). Release samples the straps, clears the time base, takes the pending banks and the default
cap and THROT and counts a warm start (R377, R394, R405, R416, R443); the test access port is in Test-Logic-Reset (25 R553). -/
def Obligations.PowerOnResetLosesAndKeeps : Prop :=
  (∀ s : State,
    let Lost (t : State) : Prop :=
      t.porN = false ∧ t.slab = [] ∧ t.hbm = [] ∧ t.tiles = State.reset.tiles ∧ t.ports = State.reset.ports ∧
      (∀ p : Port, t.parts[p] = { Partition.reset with keyGen := s.parts[p].keyGen + 1 }) ∧ t.boot.ready = false ∧
      t.time = TimeBase.reset ∧ t.commitQ = [] ∧ t.flash = s.flash ∧ t.host = s.host ∧ t.pending = s.pending
    Runs .porAssert s (fun t => Lost t ∧ t.ledger = s.ledger ∧ t.moraine = s.moraine ∧ t.moraineSeq = s.moraineSeq ∧
      t.starts = s.starts ∧ t.thermtripN = s.thermtripN ∧ t.power.temps = s.power.temps ∧
      t.power.tripped = s.power.tripped) ∧
    Runs .removalOfPower s fun t => Lost t ∧ (∀ k : Fin 219, t.ledger[k] = LedgerWord.reset) ∧ t.moraine = [] ∧
      t.moraineSeq = 0 ∧ t.starts = 0 ∧ t.thermtripN = true ∧ t.power.tripped = false ∧ t.boot.cold = true) ∧
  ∀ (s : State) (sel : BitVec 3) (src : Bool), s.porN = false → Runs (.porRelease sel src) s fun t =>
    t.porN = true ∧ t.floorSel = sel ∧ t.bootSrc = src ∧ t.time = TimeBase.reset ∧ t.thermtripN = true ∧
    t.power.cap = 300 ∧ t.power.throt = 95 ∧ t.power.tripped = false ∧ t.power.brake = !s.pwrbrkN ∧
    (s.pwrbrkN = true → s.vrhotN = true → t.power.effCap = 300) ∧
    t.flash = { s.flash with
      fwActive := s.flash.fwPending.getD s.flash.fwActive, fwPending := none
      floorActive := s.flash.floorPending.getD s.flash.floorActive, floorPending := none } ∧
    t.starts = (if s.boot.cold then s.starts else s.starts + 1) ∧
    t.tap = { s.tap with ir := 1, dr := .idcode, drive := .functional } ∧
    t = { s with
      porN := t.porN, floorSel := t.floorSel, bootSrc := t.bootSrc, time := t.time, thermtripN := t.thermtripN
      flash := t.flash, power := t.power, starts := t.starts, tap := t.tap }

/-- The steps of the start-up timeline up to the floor check: the AON clock; the ledger's words, cold or kept with a new
generation; the bank that authenticates, tried in order, or recovery; the bank of DEFAULT_FLOOR that verifies, tried in order,
or a floor of absent records, whose shapes the ports present (R416, R417, R427, R440 to R443). The steps of the timeline from
the rails to t0: the rails one by one in the order of Table 17.3, a missing one logged and none after it; HBM stacks in pairs,
one that fails FAULTED; runtime modules that match their manifest; PHYs; then DEFAULT_FLOOR's records and owners take force
and the device is ready (R71, R388, R391, R443). -/
def Obligations.BootBringsUpBanksRailsAndFloor : Prop :=
  (∀ s : State, s.porN = true → s.power.tripped = false →
     exec .aonClockStart s = .next { s with boot := { s.boot with aonClock := true } } ∧
     (s.boot.aonClock = true → s.boot.ledgerInit = false → Runs .ledgerInit s fun t =>
       t.boot = { s.boot with ledgerInit := true, cold := false } ∧ t.ledgerChanges = 0 ∧
       t = { s with ledger := t.ledger, ledgerChanges := 0, boot := t.boot } ∧
       ∀ k : Fin 219, t.ledger[k] = if s.boot.cold then LedgerWord.reset else { LedgerWord.reset with
         gen := nextGen s.ledger[k].gen, fault := s.ledger[k].fault, drainTo := s.ledger[k].drainTo
         admin := if s.ledger[k].admin = .draining then s.ledger[k].drainTo else s.ledger[k].admin }) ∧
     (s.boot.ledgerInit = true → s.boot.fwRunning = false → s.boot.recovery = false →
       let first : Fin 2 := if s.bootSrc then s.flash.fwActive + 1 else s.flash.fwActive
       (s.flash.fw[first].boots = true → exec .bootAuthenticate s =
         .next { s with boot := { s.boot with
           fwRunning := true, bank := first.val, fallback := false, running := s.flash.fw[first].info } }) ∧
       (s.flash.fw[first].boots = false → s.flash.fw[first + 1].boots = true → Runs .bootAuthenticate s fun t =>
         t.boot = { s.boot with
           fwRunning := true, bank := (first + 1).val, fallback := true, running := s.flash.fw[first + 1].info } ∧
         OneLogged 2 s t) ∧
       (s.flash.fw[first].boots = false → s.flash.fw[first + 1].boots = false → Runs .bootAuthenticate s fun t =>
         t.boot = { s.boot with recovery := true } ∧ OneLogged 2 s t)) ∧
     (s.boot.fwRunning = true → s.boot.floorChecked = false →
       let first := s.flash.floorActive
       let Takes (f : Option FloorImage) (fell : Bool) : Prop := Runs .defaultFloorVerify s fun t =>
         t.boot = { s.boot with floorChecked := true, defaultFloor := f, floorFallback := fell } ∧ t.parts = s.parts ∧
         (∀ p : Port, t.ports[p] = { s.ports[p] with shape := shapeOf (f.bind fun x => x.places[p]) }) ∧
         (fell = false → t.moraine = s.moraine) ∧ (fell = true → OneLogged 2 s t)
       let image (b : Fin 2) : FloorImage := parseFloor (s.flash.floor[b].take (imgTotal s.flash.floor[b]))
       (s.floorBankOk first = true → Takes (some (image first)) false) ∧
       (s.floorBankOk first = false → s.floorBankOk (first + 1) = true → Takes (some (image (first + 1))) true) ∧
       (s.floorBankOk first = false → s.floorBankOk (first + 1) = false → Takes none false))) ∧
  (∀ s : State, s.porN = true → s.power.tripped = false →
     (s.boot.fwRunning = true → s.boot.railMissing = none → s.railDue = true →
       let addr := 0x40 + s.boot.railsOn
       let asked := s.msgs ++ [.pmbus addr .voutMode, .pmbus addr (.operation true), .pmbus addr .readVout]
       let Missing (a : RailAnswer) : Prop := Runs (.railSwitchOn a) s fun t =>
         t.boot = { s.boot with railMissing := some addr } ∧ t.msgs = asked ∧ t.ledger = s.ledger ∧ OneLogged 4 s t
       (∀ m : BitVec 8, m.toNat < 32 → Runs (.railSwitchOn (.regulates m)) s fun t =>
         t.boot = { s.boot with railsOn := s.boot.railsOn + 1 } ∧ t.msgs = asked ∧ SameMemory s t ∧ t.ports = s.ports ∧
         t.parts = s.parts ∧ ∀ x ∈ railsRun (s.boot.railsOn + 1), TakesOper [x.1] x.2 s t) ∧
       (∀ m : BitVec 8, 32 ≤ m.toNat → Missing (.regulates m)) ∧ Missing .noAck ∧ Missing .pecFailed ∧
       Missing .outOfTolerance) ∧
     (∀ x, s.boot.railMissing = some x → ∀ ok, exec (.railSwitchOn ok) s = .next s) ∧
     (∀ pair : Fin 4, 5 ≤ s.boot.railsOn → s.boot.hbmPairs = pair.val →
       exec (.hbmInit pair true true) s = .next { s with boot := { s.boot with hbmPairs := pair.val + 1 } } ∧
       ∀ lo hi, Runs (.hbmInit pair lo hi) s fun t => t.boot.hbmPairs = pair.val + 1 ∧ SameMemory s t ∧
         (lo = false → t.boot.hbmFailed.getLsbD (2 * pair.val) = true ∧
           (t.ledgerWord ⟨.hbm, 2 * pair.val⟩).oper = .faulted ∧
           (t.ledgerWord ⟨.hbm, 2 * pair.val⟩).fault.getLsbD 3 = true) ∧
         (hi = false → t.boot.hbmFailed.getLsbD (2 * pair.val + 1) = true ∧
           (t.ledgerWord ⟨.hbm, 2 * pair.val + 1⟩).oper = .faulted)) ∧
     (s.boot.fwRunning = true → s.boot.floorChecked = true →
       s.boot.running.any (·.modulesOk) = true →
       exec .runtimeModulesStart s = .next { s with boot := { s.boot with modules := true } }) ∧
     (∀ p : Port, s.boot.floorChecked = true → 2 ≤ s.boot.railsOn →
       exec (.phyBringup p) s = .next (s.updPort p fun q => { q with phyUp := true })) ∧
     (s.boot.modules = true → s.boot.railsOn = 6 → s.boot.ready = false → s.boot.fatal = false →
       let f := s.boot.defaultFloor.getD FloorImage.absent
       Runs .defaultFloorApply s fun t =>
         t.boot = { s.boot with ready := true } ∧ t.floorVersion = f.version ∧ t.floorDigest = f.digest ∧
         (∀ p : Port, t.parts[p].place = f.places[p] ∧ (f.places[p] = none → t.parts[p].pstate = .notReady) ∧
           (s.parts[p].place = none → f.places[p].isSome = true →
             t.parts[p].pstate = .empty ∧ t.parts[p].keyGen = s.parts[p].keyGen + 1)) ∧
         (∀ u : UnitId, u.valid = true → (t.ledgerWord u).owner = ownerIn f.places u) ∧ t.host = s.host))

/-! ## Kyvel commands (18) -/

/-- LEDGER_READ answers OK with the word. LEDGER_ADMIN with the word's present generation moves the admin state by Table
18.5 and answers OK with the new word; with another generation it answers STATE_STALE with the present word and changes
none; a unit of another partition is BOUNDS (R428 to R430). A drain ends once the unit holds no item (R429), where a
compression unit that drains unwraps for no item (log 82). FAULT_CLEAR of management, on a unit in MAINTENANCE under its
present generation, starts the self-test and is answered when it ends; a PF is refused UNSUPPORTED. Without failing bits the
fault summary clears; with failing bits it holds them and SELF_TEST and the unit is FAULTED (R431). -/
def Obligations.LedgerMovesAndSelfTests : Prop :=
  ((∀ (s : State) (src : MgmtSrc) (req : List Byte) (u : UnitId), unitOfCode (field req 0 1) (field req 2 2) = some u →
     let word := leBytes 8 (s.ledgerWord u).word.toNat
     (kyServed s 0x01 req src → exec (.ledgerRead src req) s = .next
       (kyAnswered (s.thawUnit u true) 0x01 .ok (leBytes 8 (s.seenWord (srcPf src) u).toNat) src)) ∧
     (kyServed s 0x02 req src → ∀ a, adminTarget (field req 8 1) = some a →
       (s.mayCommand src u = false → exec (.ledgerAdmin src req) s = .next (kyAnswered s 0x02 .bounds [] src)) ∧
       (s.mayCommand src u = true → (s.ledgerWord u).gen.toNat ≠ field req 4 4 →
         exec (.ledgerAdmin src req) s = .next (kyAnswered (s.thawUnit u true) 0x02 .stateStale word src)) ∧
       (s.mayCommand src u = true → (s.ledgerWord u).gen.toNat = field req 4 4 → Runs (.ledgerAdmin src req) s fun t =>
         let w := s.ledgerWord u
         let drains := s.ledgerMod u fun w => { w with admin := .draining, drainTo := a }
         (t.ledgerWord u).admin = (match w.admin, a with
           | .inService, .inService => .inService
           | .inService, _ => if drains.unitEmpty u then a else .draining
           | .draining, .inService => .inService
           | .draining, _ => .draining
           | _, _ => a) ∧
         (w.admin = .inService → a ≠ .inService → (t.ledgerWord u).drainTo = a) ∧
         (∀ v : UnitId, v.valid = true → v ≠ u → (t.ledgerWord v).admin = (s.ledgerWord v).admin) ∧
         KySays 0x02 .ok (leBytes 8 (t.ledgerWord u).word.toNat) t src ∧ SameMemory s t))) ∧
   ∀ (s : State) (u : UnitId), u.valid = true → (s.ledgerWord u).admin = .draining →
     (s.unitEmpty u = true → Runs (.adminDrainEnd u) s fun t => (t.ledgerWord u).admin = (s.ledgerWord u).drainTo ∧
       (∀ v : UnitId, v.valid = true → v ≠ u → (t.ledgerWord v).admin = (s.ledgerWord v).admin) ∧ SameMemory s t) ∧
     (s.unitEmpty u = false → exec (.adminDrainEnd u) s = .next s)) ∧
  ((∀ (s : State) (src : MgmtSrc) (req : List Byte) (u : UnitId), unitOfCode (field req 0 1) (field req 2 2) = some u →
     kyServed s 0x03 req src → field req 8 1 = 0 →
     (∀ p, src = .mbx p → exec (.faultClear src req) s = .next (kyAnswered s 0x03 .unsupported [] src)) ∧
     (∀ tr, src = .mgmt tr → (s.ledgerWord u).gen.toNat = field req 4 4 → (s.ledgerWord u).admin = .maintenance →
       (s.ledgerWord u).selfTest = none → Runs (.faultClear src req) s fun t =>
         t.ledgerWord u = { s.ledgerWord u with selfTest := some src } ∧ t.msgs = s.msgs ∧ SameMemory s t) ∧
     ∀ tr, src = .mgmt tr → ((s.ledgerWord u).gen.toNat ≠ field req 4 4 ∨ (s.ledgerWord u).admin ≠ .maintenance) →
       exec (.faultClear src req) s = .next
         (kyAnswered (s.thawUnit u true) 0x03 .stateStale (leBytes 8 (s.ledgerWord u).word.toNat) src)) ∧
   ∀ (s : State) (u : UnitId) (bits : BitVec 16) (src : MgmtSrc), u.valid = true → (s.ledgerWord u).selfTest = some src →
     Runs (.selfTestDone u bits) s fun t =>
       (t.ledgerWord u).selfTest = none ∧ (t.ledgerWord u).admin = (s.ledgerWord u).admin ∧
       (bits = 0 → (t.ledgerWord u).fault = 0 ∧ (t.ledgerWord u).ceCount = 0 ∧
         ((s.ledgerWord u).oper = .fenced → (t.ledgerWord u).oper = .fenced)) ∧
       (bits ≠ 0 → (t.ledgerWord u).oper = .faulted ∧ (t.ledgerWord u).fault = bits &&& 0x3FFF ||| 0x40) ∧
       (∀ v : UnitId, v.valid = true → v ≠ u → t.ledgerWord v = s.ledgerWord v) ∧
       KySays 0x03 .ok (leBytes 8 (t.ledgerWord u).word.toNat) t src ∧ SameMemory s t)

/-- POWER_READ, FW_INFO and MORAINE_READ answer OK with their data and change nothing; POWER_SET stores values within their
ranges, keeps a value for 0, and refuses the whole for one out of range (R394, R395); TIME_ADJ of the time owner is queued
for the next crystal edge (R379); PART_SCRUB of the floor owner starts a scrub, whose end answers (R82). A mailbox command waits
while one that arrived earlier is served (R418). -/
def Obligations.ManagementReadsAndSets : Prop :=
  ∀ (s : State) (src : MgmtSrc) (req : List Byte),
    let x := s.power
    (kyServed s 0x06 req src → exec (.powerRead src req) s = .next (kyAnswered s 0x06 .ok
      (leBytes 2 x.cap ++ leBytes 1 x.throt ++ [0] ++ leBytes 2 x.effCap ++ [0, 0] ++ leBytes 4 x.pkg) src)) ∧
    (∀ p q : Port, src = .mbx p → s.ports[q].mbx.st = .busy → s.ports[q].mbx.arrival < s.ports[p].mbx.arrival →
      s.boot.fatal = false → exec (.powerRead src req) s = .next s ∧ exec (.powerSet src req) s = .next s ∧
        exec (.partScrub src req) s = .next s) ∧
    (kyServed s 0x09 req src → exec (.fwInfo src req) s = .next (kyAnswered s 0x09 .ok s.fwData src)) ∧
    (kyServed s 0x07 req src →
      let asked := s.moraine.filter fun e => decide ((e.seq - BitVec.ofNat 32 (field req 0 4)).toNat < field req 4 2) &&
        (srcPf src).elim true fun p => e.part == p.val || e.part == 0xFF
      exec (.moraineRead src req) s = .next (kyAnswered s 0x07 .ok ((asked.take 64).flatMap Moraine.bytes) src)) ∧
    (kyServed s 0x05 req src → (∀ p, srcPf src = some p → s.floorOwnerPort = some p) →
      let w := field req 0 2
      let th := field req 2 1
      let good := (w = 0 ∨ 150 ≤ w ∧ w ≤ 750) ∧ (th = 0 ∨ 70 ≤ th ∧ th ≤ 100)
      let cap := if w = 0 then x.cap else w
      let pwr := x.pwrbrkLimit.map fun _ => cap / 2
      (good → Runs (.powerSet src req) s fun t =>
        t.power = { x with
          cap := cap, throt := if th = 0 then x.throt else th, pwrbrkLimit := pwr
          effCap := min cap (min (pwr.getD cap) (x.vrhotLimit.getD cap)) } ∧
        KySays 0x05 .ok (leBytes 2 t.power.cap ++ leBytes 1 t.power.throt ++ [0] ++ leBytes 2 t.power.effCap ++ [0, 0] ++
          leBytes 4 t.power.pkg) t src ∧ t.ledger = s.ledger ∧ SameMemory s t) ∧
      (¬good → exec (.powerSet src req) s = .next (kyAnswered s 0x05 .badDescriptor [] src))) ∧
    (∀ tr, src = .mgmt tr → kyServed s 0x08 req src → s.isTimeOwner .mgmt = true → field req 0 8 / 2 ^ 60 ≤ 5 →
      Runs (.timeAdj src req) s fun t =>
        t.time = { s.time with writes := s.time.writes ++ [BitVec.ofNat 64 (field req 0 8)] } ∧
        t = { s with time := t.time, msgs := t.msgs } ∧ KySays 0x08 .ok (leBytes 8 (t.timeStatus false).toNat) t src) ∧
    (∀ tr p, src = .mgmt tr → kyServed s 0x04 req src → (s.floorLoader src).isSome = true → field req 0 1 = p →
      ∀ h : p < 6, s.parts[(⟨p, h⟩ : Port)].place.isSome = true → s.parts[(⟨p, h⟩ : Port)].op = none →
      Runs (.partScrub src req) s fun t =>
        t.parts[(⟨p, h⟩ : Port)].op.any (fun o => o.kind == .scrub && o.phase == .draining) = true ∧
        t.parts[(⟨p, h⟩ : Port)].scrubAskers = s.parts[(⟨p, h⟩ : Port)].scrubAskers ++ [.kyvel tr] ∧
        (∀ r : Port, r.val ≠ p → t.parts[r] = s.parts[r] ∧ t.ports[r] = s.ports[r]) ∧ SameMemory s t)

/-- FLOOR_BEGIN of the floor owner opens its session with a number above 0, LIMIT while one is open; FLOOR_CHUNK at the end of
the bytes loaded appends up to 1,024 bytes; FLOOR_COMMIT with the applied floor's version puts the session in the commit queue
by its arrival and is answered when the commit ends, with another it answers STATE_STALE and changes nothing (R51 to R53,
R422, R428). In a mailbox the three are UNSUPPORTED (R421). -/
def Obligations.FloorSessionsOverManagement : Prop :=
  (∀ (s : State) (p : Port) (req : List Byte),
    (kyServed s 0x10 req (.mbx p) → exec (.floorBegin (.mbx p) req) s = .next (kyAnswered s 0x10 .unsupported [] (.mbx p))) ∧
    (kyServed s 0x11 req (.mbx p) → exec (.floorChunk (.mbx p) req) s = .next (kyAnswered s 0x11 .unsupported [] (.mbx p))) ∧
    (kyServed s 0x12 req (.mbx p) → exec (.floorCommit (.mbx p) req) s = .next (kyAnswered s 0x12 .unsupported [] (.mbx p)))) ∧
  ∀ (s : State) (tr : Transport) (req : List Byte) (ld : Loader), s.floorLoader (.mgmt tr) = some ld → s.ready = true →
    (kyServed s 0x10 req (.mgmt tr) → zeros req 6 2 = true → field req 4 1 = 1 → field req 5 1 = 0xFF →
      sizeOk (field req 0 4) = true → s.ownsFloor ld = true →
      (s.session? ld = none → Runs (.floorBegin (.mgmt tr) req) s fun t =>
        (∃ z, t.session? ld = some z ∧ z.no ≠ 0 ∧ z.floor = true ∧ z.target = 0xFF ∧ z.size = field req 0 4 ∧
          z.digest = padTo 48 (slice req 8 48) ∧ z.bytes = [] ∧ z.st = .open ∧
          KySays 0x10 .ok (leBytes 4 z.no.toNat ++ leBytes 4 0) t (.mgmt tr)) ∧
        t.commitQ = s.commitQ ∧ SameMemory s t) ∧
      ((s.session? ld).isSome = true → exec (.floorBegin (.mgmt tr) req) s =
        .next (kyAnswered s 0x10 .limit (leBytes 4 0 ++ leBytes 4 0) (.mgmt tr)))) ∧
    (kyServed s 0x11 req (.mgmt tr) → ∀ z, s.session? ld = some z → z.st = .open → z.no.toNat = field req 0 4 →
      field req 4 4 = z.bytes.length → 8 < req.length → req.length ≤ 1032 → z.bytes.length + (req.length - 8) ≤ z.size →
      exec (.floorChunk (.mgmt tr) req) s = .next (kyAnswered
        (s.setSession ld (some { z with bytes := z.bytes ++ req.drop 8 })) 0x11 .ok
        (leBytes 4 (z.bytes.length + (req.length - 8)) ++ leBytes 4 z.no.toNat) (.mgmt tr))) ∧
    (kyServed s 0x12 req (.mgmt tr) → field req 4 1 ≤ 3 → zeros req 5 3 = true →
      (∀ z, s.session? ld = some z → z.st = .open → z.no.toNat = field req 0 4 →
        (s.expects ld z.floor (BitVec.ofNat 64 (field req 8 8)) = true → Runs (.floorCommit (.mgmt tr) req) s fun t =>
          t.session? ld = some { z with st := .queued } ∧ t.arrivals = s.arrivals + 1 ∧
          t.commitQ = placeCommit {
            arrival := s.arrivals, kind := .session ld, asker := .kyvel tr, abortInFlight := field req 4 1 % 2 = 1
            verifyOnly := field req 4 1 / 2 % 2 = 1, expect := BitVec.ofNat 64 (field req 8 8) } s.commitQ ∧
          t.verified = s.verified ∧ SameMemory s t) ∧
        (s.expects ld z.floor (BitVec.ofNat 64 (field req 8 8)) = false → exec (.floorCommit (.mgmt tr) req) s =
          .next (kyAnswered s 0x12 .stateStale
            (leBytes 4 ((s.currentVersion ld z.floor).toNat % 2 ^ 32) ++
              leBytes 4 ((s.currentVersion ld z.floor).toNat / 2 ^ 32)) (.mgmt tr)))) ∧
      ((∀ z, s.session? ld = some z → z.no.toNat ≠ field req 0 4) → exec (.floorCommit (.mgmt tr) req) s =
        .next (kyAnswered s 0x12 .stateStale
          (leBytes 4 ((s.session? ld).elim 0 fun z => z.no.toNat) ++ leBytes 4 0xFFFFFFFF) (.mgmt tr))))

/-! ## MCTP and PLDM (18) -/

/-- The MCTP control commands answer on their transport and only SetEndpointID changes the state; the PLDM base commands
answer OK and only SetTID does; any other PLDM command is ERROR_UNSUPPORTED_PLDM_CMD (R409 to R411). The standards' own
codes are presumed and their other bytes free (log 10). GetSensorReading answers with the sensor's value as Table 18.2 names
it: package power, effective cap, cap, THROT, rails, temperatures, operating points; state sensors give the time base's and
the trip latch; the PDR commands answer; a poll returns and removes the oldest management event (R412, R413). Numeric
effecters 0x101 and 0x102 are the cap and THROT: a read answers with the value, a write in range stores it and adjusts the
effective cap, a write out of range is ERROR_INVALID_DATA and changes nothing (R394, R414). -/
def Obligations.ManagementStandardsAnswer : Prop :=
  (∀ (s : State) (tr : Transport),
     let sent (m : Msg) : State := { s with msgs := s.msgs ++ [m] }
     (s.transportUp tr = true →
       (∀ e : Byte, e ≠ 0 → e ≠ 0xFF →
         exec (.setEndpointId tr e) s = .next { sent (.mctp tr 0 [0, e, 0]) with eid := e }) ∧
       exec (.setEndpointId tr 0) s = .next (sent (.mctp tr 2 [])) ∧
       exec (.getEndpointId tr) s = .next (sent (.mctp tr 0 [s.eid, 0, 0])) ∧
       exec (.getEndpointUuid tr) s = .next (sent (.mctp tr 0 (standardBytes 10 16))) ∧
       exec (.getMctpVersionSupport tr) s = .next (sent (.mctp tr 0 (standardBytes 11 5))) ∧
       exec (.getMessageTypeSupport tr) s = .next (sent (.mctp tr 0 [3, 0x00, 0x01, 0x7F])) ∧
       exec (.getVendorDefinedMessageSupport tr) s =
         .next (sent (.mctp tr 0 ([0xFF, 1, 0x00, 0x00, 0xB7, 0xA4] ++ standardBytes 12 2)))) ∧
     (s.transportUp tr = false → exec (.getEndpointId tr) s = .next s) ∧
     (pldmServed s tr false true → s.boot.recovery = false →
       exec (.getTid tr) s = .next (sent (.pldm tr 0 [s.tid])) ∧
       (∀ t : Byte, t ≠ 0 → t ≠ 0xFF → exec (.setTid tr t) s = .next { sent (.pldm tr 0 []) with tid := t }) ∧
       exec (.getPldmTypes tr) s = .next (sent (.pldm tr 0 [0x25, 0, 0, 0, 0, 0, 0, 0])) ∧
       (∀ ty ∈ [(0 : Byte), 2, 5],
         exec (.getPldmVersion tr ty) s = .next (sent (.pldm tr 0 (standardBytes (16 + ty.toNat) 9))) ∧
         Runs (.getPldmCommands tr ty) s fun t => ∃ m, t = sent (.pldm tr 0 (leBytes 32 m)) ∧
           ∀ c, c < 256 → (m.testBit c = true ↔ (ty.toNat, c) ∈ pldmCommands)) ∧
       ∀ ty cmd : Byte, (ty.toNat, cmd.toNat) ∉ pldmCommands →
         exec (.pldmUnsupported tr ty cmd) s = .next (sent (.pldm tr 5 [])))) ∧
  (∀ (s : State) (tr : Transport), pldmServed s tr false true → s.boot.recovery = false →
     let sent (m : Msg) : State := { s with msgs := s.msgs ++ [m] }
     let reads (id : Nat) (v : Int) : Prop := exec (.getSensorReading tr (BitVec.ofNat 16 id)) s =
       .next (sent (.pldm tr 0 ([5, 0, 0] ++ standardBytes 13 3 ++ leBytes 4 (ofSigned 32 v))))
     let state (id : Nat) (v : Nat) : Prop := exec (.getStateSensorReadings tr (BitVec.ofNat 16 id)) s =
       .next (sent (.pldm tr 0 ([1, 0] ++ leBytes 1 v ++ standardBytes 14 2)))
     let x := s.power
     reads 1 (x.pkg / 100) ∧ reads 2 x.effCap ∧ reads 4 x.cap ∧ reads 5 x.throt ∧
     (∃ v, reads 3 v ∧ (∀ k : Fin 36, k < 28 → x.temps[k] ≤ v) ∧ ∃ k : Fin 36, k < 28 ∧ x.temps[k] = v) ∧
     (∀ k : Fin 9, reads (0x10 + k.val) x.rails[k].1 ∧ reads (0x20 + k.val) x.rails[k].2) ∧
     (∀ k : Fin 36, if k < 28 then reads (0x40 + k.val) x.temps[k] else reads (0x60 + (k.val - 28)) x.temps[k]) ∧
     (s.boot.ready = true → ∀ c : Cluster,
       reads (0x80 + c.val) (if s.clusterOper c.val = .run then settingMhz x.running[c] else 0) ∧
       reads (0x90 + c.val) (settingDuty x.running[c])) ∧
     (s.boot.ready = false → ∀ c : Cluster, reads (0x80 + c.val) 0 ∧ reads (0x90 + c.val) 0) ∧
     state 0xA0 (s.time.valid.toNat + 2 * s.time.locked.toNat + 4 * s.time.holdover.toNat) ∧
     state 0xA1 (if s.thermtripN then 0 else 1) ∧
     exec (.getSensorReading tr 0x30) s = .next (sent (.pldm tr 0x80 [])) ∧
     exec (.getPdrRepositoryInfo tr) s =
       .next (sent (.pldm tr 0 ([0] ++ standardBytes 15 26 ++ leBytes 4 95 ++ standardBytes 8 9))) ∧
     (∀ h, h ≤ 95 → ∃ x, pdrs[max 1 h - 1]? = some x ∧ exec (.getPdr tr h) s = .next (sent (.pldm tr 0 (pdrAnswer (max 1 h) x)))) ∧
     (∀ h, 95 < h → exec (.getPdr tr h) s = .next (sent (.pldm tr 0x82 []))) ∧
     (s.mgmtQueue = [] → exec (.pollForPlatformEventMessage tr) s = .next (sent (.pldm tr 0 [s.tid, 0, 0]))) ∧
     ∀ w rest, s.mgmtQueue = w :: rest → Runs (.pollForPlatformEventMessage tr) s fun t => t.mgmtQueue = rest ∧
       (∃ bs, t.msgs = s.msgs ++ [.pldm tr 0 (bs ++ [0xF0] ++ leBytes 4 8 ++ leBytes 8 w.toNat)]) ∧
       t = { s with mgmtQueue := rest, msgs := t.msgs }) ∧
  (∀ (s : State) (tr : Transport), pldmServed s tr false false → s.boot.recovery = false →
     let sent (code : Nat) (bs : List Byte) : State := { s with msgs := s.msgs ++ [.pldm tr code bs] }
     exec (.getNumericEffecterValue tr 0x101) s = .next (sent 0 ([2, 0] ++ leBytes 2 s.power.cap ++ leBytes 2 s.power.cap)) ∧
     exec (.getNumericEffecterValue tr 0x102) s =
       .next (sent 0 ([2, 0] ++ leBytes 2 s.power.throt ++ leBytes 2 s.power.throt)) ∧
     ∀ v : Nat,
       (150 ≤ v ∧ v ≤ 750 → Runs (.setNumericEffecterValue tr 0x101 v) s fun t =>
         let pwr := s.power.pwrbrkLimit.map fun _ => v / 2
         t.power = { s.power with
           cap := v, pwrbrkLimit := pwr, effCap := min v (min (pwr.getD v) (s.power.vrhotLimit.getD v)) } ∧
         t.msgs.getLast? = some (.pldm tr 0 []) ∧ t.ledger = s.ledger ∧ SameMemory s t) ∧
       (70 ≤ v ∧ v ≤ 100 → Runs (.setNumericEffecterValue tr 0x102 v) s fun t =>
         t.power.throt = v ∧ t.power.cap = s.power.cap ∧ t.msgs.getLast? = some (.pldm tr 0 []) ∧ t.ledger = s.ledger ∧
         SameMemory s t) ∧
       (v < 150 ∨ 750 < v → exec (.setNumericEffecterValue tr 0x101 v) s = .next (sent 2 [])) ∧
       (v < 70 ∨ 100 < v → exec (.setNumericEffecterValue tr 0x102 v) s = .next (sent 2 [])))

/-- Firmware update: the update runs IDLE, LEARN COMPONENTS, READY XFER, DOWNLOAD, VERIFY, APPLY and back; its bytes are
asked for 1,024 at a time; the inactive bank is invalid from UpdateComponent on and holds the component, valid and pending,
once applied; the P7 asks for data and reports transfer, verification and application; activation waits for POR_n (R415,
R416). States and codes are DSP0267's, presumed (log 10). -/
def Obligations.FirmwareUpdateFillsTheInactiveBank : Prop :=
  ∀ (s : State) (tr : Transport), s.transportUp tr = true →
    let u := s.fu
    let fu (g : FwUpdate) : State := { s with fu := g }
    let Asked (c : Instr) (g : State) (bs : List Byte) : Prop :=
      pldmServed s tr true false → exec c s = .next { g with msgs := s.msgs ++ [.pldm tr 0 bs] }
    let asks (g : State) (cmd : Nat) (bs : List Byte) : State := { g with msgs := s.msgs ++ [.pldmRequest tr cmd bs] }
    let inactive (b : Fin 2) : Fin 2 := if b = 0 then 1 else 0
    Asked (.queryDeviceIdentifiers tr) s (standardBytes 7 4 ++ leBytes 4 0xB7A4) ∧
    (pldmServed s tr true false → Runs (.getFirmwareParameters tr) s fun t =>
      ∃ bs, bs.length = 36 ∧ t = { s with msgs := s.msgs ++ [.pldm tr 0 bs] }) ∧
    Asked (.getStatus tr) s (leBytes 1 u.st.code ++ standardBytes 6 10) ∧
    (u.st = .idle → Asked (.requestUpdate tr) (fu { FwUpdate.reset with st := .learnComponents }) []) ∧
    (u.st = .learnComponents → Asked (.passComponentTable tr 1) (fu { u with st := .readyXfer }) [0, 0]) ∧
    (u.st = .readyXfer → (∀ size, size ≤ 16777216 → Asked (.updateComponent tr 1 size)
        { fu { FwUpdate.reset with st := .download, size := size } with
          flash := { s.flash with
            fw := s.flash.fw.set (inactive s.flash.fwActive) { valid := false, info := none, raw := [] }, fwPending := none } }
        [0, 0]) ∧
      (∀ size, size ≤ 65536 → s.boot.recovery = false → Asked (.updateComponent tr 2 size)
        { fu { FwUpdate.reset with st := .download, floorComp := true, size := size } with
          flash := { s.flash with
            floor := s.flash.floor.set (inactive s.flash.floorActive) []
            floorValid := s.flash.floorValid.set (inactive s.flash.floorActive) false, floorPending := none } }
        [0, 0]) ∧
      Asked (.activateFirmware tr false) (fu FwUpdate.reset) [0, 0]) ∧
    (∀ bs, s.boot.fatal = false → u.st = .download → bs.length = min 1024 (u.size - u.bytes.length) → bs ≠ [] →
      exec (.requestFirmwareData tr bs) s = .next (asks (fu { u with bytes := u.bytes ++ bs }) 0x15
        (leBytes 4 u.bytes.length ++ leBytes 4 bs.length))) ∧
    (s.boot.fatal = false → u.st = .download → u.size ≤ u.bytes.length → exec (.transferComplete tr) s =
      .next (asks { fu { u with st := .verify, verdict := none } with
        arrivals := s.arrivals + 1
        commitQ := placeCommit {
          arrival := s.arrivals, kind := .firmware u.floorComp, asker := .nobody, abortInFlight := false, verifyOnly := false
          expect := BitVec.allOnes 64 } s.commitQ } 0x16 [0])) ∧
    (∀ m, s.boot.fatal = false → u.st = .verify → u.verdict.isSome = true →
      (u.passes m = true → exec (.verifyComplete tr m) s =
        .next (asks (fu { u with st := .apply, info := some m }) 0x17 [0])) ∧
      (u.passes m = false → Runs (.verifyComplete tr m) s fun t => t.fu = { u with st := .readyXfer } ∧ OneLogged 2 s t ∧
        t.msgs = s.msgs ++ [.pldmRequest tr 0x17 [1]] ∧
        (u.floorComp = true → t.flash.floorValid[inactive s.flash.floorActive] = false ∧ t.flash.fw = s.flash.fw) ∧
        (u.floorComp = false → t.flash.fw[inactive s.flash.fwActive].valid = false ∧
          t.flash.fw[s.flash.fwActive] = s.flash.fw[s.flash.fwActive]))) ∧
    (s.boot.fatal = false → u.st = .apply → u.floorComp = false → exec (.applyComplete tr) s =
      .next (asks { fu { u with st := .readyXfer } with
        flash := { s.flash with
          fw := s.flash.fw.set (inactive s.flash.fwActive) { valid := true, info := u.info, raw := u.bytes }
          fwPending := some (inactive s.flash.fwActive) } } 0x18 [0, 0, 0])) ∧
    (s.boot.fatal = false → u.st = .apply → u.floorComp = true → exec (.applyComplete tr) s =
      .next (asks { fu { u with st := .readyXfer } with
        flash := { s.flash with
          floor := s.flash.floor.set (inactive s.flash.floorActive) u.bytes
          floorValid := s.flash.floorValid.set (inactive s.flash.floorActive) true
          floorPending := some (inactive s.flash.floorActive) } } 0x18 [0, 0, 0])) ∧
    let kept := s.commitQ.filter fun c => match c.kind with
      | .firmware _ => false
      | .session _ => true
    (u.st = .download ∨ u.st = .verify ∨ u.st = .apply →
      Asked (.cancelUpdateComponent tr) { fu { FwUpdate.reset with st := .readyXfer } with commitQ := kept } []) ∧
    (u.st ≠ .idle → Asked (.cancelUpdate tr) { fu FwUpdate.reset with commitQ := kept } [0, 0, 0, 0, 0, 0, 0, 0, 0])

/-! ## Images, partitions and the floor (02, 03) -/

/-- IMAGE_BEGIN opens the port's session with a number above 0, LIMIT while one is open; IMAGE_CHUNK at the end of the bytes
loaded appends the host's bytes; at another offset it is IMAGE_INVALID and ends the session; IMAGE_COMMIT puts the session in
the commit queue and stays in service; a session that is not the port's open one is STATE_STALE (R51 to R54, Table 2.18). -/
def Obligations.ImageSessionsOpenFillAndQueue : Prop :=
  ∀ (s : State) (p : Port) (k : Nat) (i : Item), i.orphan = false →
    (s.portItem p k opImageBegin = some i → i.fld 20 1 = 2 → i.fld 21 1 = p.val → sizeOk (i.fld 16 4) = true →
      s.parts[p].place.isSome = true → ∀ d, s.readPlace p i (.host (i.fld 24 8)) 48 = .bytes d →
      (s.parts[p].session = none → Runs (.imageBegin p k) s fun t =>
        ∃ z, t.parts[p].session = some z ∧ z.no ≠ 0 ∧ z.floor = false ∧ z.size = i.fld 16 4 ∧ z.digest = d ∧ z.bytes = [] ∧
          z.st = .open ∧ CompletedAtPort p k .ok z.no.toNat 0 t) ∧
      (s.parts[p].session.isSome = true → Runs (.imageBegin p k) s fun t => CompletedAtPort p k .limit 0 0 t ∧
        OnlyPort p s t)) ∧
    (s.portItem p k opImageChunk = some i → ∀ bs, s.readPlace p i (.host (i.fld 16 8)) (i.fld 24 4) = .bytes bs →
      (∀ z, s.parts[p].session = some z → z.st = .open → z.no.toNat = i.fld 28 4 →
        (i.fld 32 8 = z.bytes.length → z.bytes.length + bs.length ≤ z.size → Runs (.imageChunk p k) s fun t =>
          t.parts[p].session = some { z with bytes := z.bytes ++ bs } ∧
          CompletedAtPort p k .ok (z.bytes.length + bs.length) z.no.toNat t) ∧
        (i.fld 32 8 ≠ z.bytes.length ∨ z.size < z.bytes.length + bs.length → Runs (.imageChunk p k) s fun t =>
          t.parts[p].session = none ∧ CompletedAtPort p k .imageInvalid 0xFFFF0016 0xFFFFFFFF t)) ∧
      (s.parts[p].session = none → Runs (.imageChunk p k) s fun t =>
        CompletedAtPort p k .stateStale 0 0xFFFFFFFF t ∧ OnlyPort p s t)) ∧
    (s.portItem p k opImageCommit = some i → s.chunksOut p i = false →
      (∀ z, s.parts[p].session = some z → z.st = .open → z.no.toNat = i.fld 16 4 → Runs (.imageCommit p k) s fun t =>
        t.parts[p].session = some { z with st := .queued } ∧ (t.item? p k).map (·.st) = some .inService ∧
        t.commitQ = placeCommit {
          arrival := i.arrival.getD s.arrivals, kind := .session (.port p), asker := .item p k, abortInFlight := i.flag 5
          verifyOnly := i.flag 4, expect := BitVec.ofNat 64 (i.fld 24 8) } s.commitQ ∧ SameMemory s t) ∧
      (s.parts[p].session = none → Runs (.imageCommit p k) s fun t =>
        CompletedAtPort p k .stateStale 0 0xFFFFFFFF t ∧ OnlyPort p s t))

/-- COMMIT_VERIFY takes the commit that arrived first: with the expected version and an image that passes every check the
session is VERIFYING, one that fails a check ends with IMG_ERROR set, and one of another version is OPEN again, which is the
model's reading (R55 to R57, log 81). At the point of no return a
VERIFY_ONLY commit ends its session and changes no structure; a PART image makes its partition APPLYING and the drain begins;
a FLOOR image waits for FLOOR_APPLY (R58, R59, R63). -/
def Obligations.CommitsVerifyThenTakeEffect : Prop :=
  (∀ (s : State) (p : Port) (c : Commit) (rest : List Commit) (z : Session), s.verified = none → s.commitQ = c :: rest →
    c.kind = .session (.port p) → s.parts[p].session = some z → z.floor = false →
    let fits := c.expect = BitVec.allOnes 64 ∨ c.expect = s.parts[p].version
    s.commitDue c = false →
    (fits → s.verify (.port p) z = none → Runs .commitVerify s fun t =>
      t.verified = some (.part p (parsePart z.bytes) c) ∧ t.commitQ = rest ∧
      t.parts[p].session = some { z with st := .verifying } ∧ t.parts[p].image = s.parts[p].image ∧ SameMemory s t) ∧
    (fits → ∀ f, s.verify (.port p) z = some f → Runs .commitVerify s fun t =>
      t.verified = none ∧ t.parts[p].session = none ∧
      t.parts[p].imgError = BitVec.ofNat 64 ((f.sub + f.sec * 2 ^ 16) + f.off % 2 ^ 32 * 2 ^ 32) ∧
      t.parts[p].image = s.parts[p].image ∧ t.parts[p].pstate = s.parts[p].pstate ∧ SameMemory s t) ∧
    (¬fits → Runs .commitVerify s fun t => t.verified = none ∧ t.parts[p].session = some { z with st := .open } ∧
      t.parts[p].imgError = s.parts[p].imgError ∧ t.parts[p].image = s.parts[p].image ∧ SameMemory s t)) ∧
  (∀ (s : State) (p : Port) (im : PartImage) (c : Commit), s.verified = some (.part p im c) → c.kind = .session (.port p) →
    (c.verifyOnly = true → Runs .pointOfNoReturn s fun t => t.verified = none ∧ t.parts[p].session = none ∧
      t.parts[p].image = s.parts[p].image ∧ t.parts[p].pstate = s.parts[p].pstate ∧ SameMemory s t) ∧
    (c.verifyOnly = false → s.refusing p = false → ItemsOk s → Runs .pointOfNoReturn s fun t =>
      t.verified = none ∧ t.parts[p].session = none ∧ t.parts[p].pstate = .applying ∧
      (∃ o, t.parts[p].op = some o ∧ o.kind = .apply ∧ o.phase = .draining ∧ o.image = some im ∧ o.asker = c.asker) ∧
      t.parts[p].image = s.parts[p].image ∧ SameMemory s t)) ∧
  ∀ (s : State) (im : FloorImage) (c : Commit) (ld : Loader), s.verified = some (.floor im c) → c.kind = .session ld →
    c.verifyOnly = false → s.floorChange = none → s.floorHeard ld = true → Runs .pointOfNoReturn s fun t =>
      t.verified = none ∧ (t.floorChange.map fun f => (f.image, f.commit, f.started)) = some (im, c, false) ∧
      t.floorVersion = s.floorVersion ∧ (∀ r : Port, t.parts[r].place = s.parts[r].place) ∧ SameMemory s t

/-- PARTITION_DRAINED, once no scoreboard entry is left: an apply or unload fences every NI of the partition; a scrub
increments the epochs of the port, discards the session, and destroys the partition's key and what HBM held; a Budget drain is
done (R59, R62, R79). FENCE, FENCE_ACK and UNFENCE move one NI; with the last acknowledgement, each a message to Orlys, routes
and quotas are written (R343), and a route over a link that has been fenced meanwhile fails the partition (R342). Nothing goes
on in a device that has tripped (17 R407). -/
def Obligations.DrainsAndFences : Prop :=
  (∀ (s : State) (p : Port) (o : PartOp), s.parts[p].op = some o → o.phase = .draining → s.entriesLeft p = false →
    s.power.tripped = false →
    (o.kind = .apply ∨ o.kind = .unload → Runs (.partitionDrained p) s fun t =>
      t.parts[p].op.map (fun x => (x.kind, x.phase)) = some (o.kind, .fencing) ∧
      (∃ ms, t.msgs = ms ++ (s.partStops p).map fun d => deviceFlit 0 0x10 orlysStop d p.val s.deviceYX) ∧
      t.parts[p].image = s.parts[p].image ∧ t.hbm = s.hbm ∧ t.host = s.host) ∧
    (o.kind = .scrub → o.bumped = false → o.asker = .nobody → s.hbm.sorted = true → Runs (.partitionDrained p) s fun t =>
      t.parts[p].op.map (fun x => (x.kind, x.phase)) = some (.scrub, .zeroing) ∧ t.parts[p].session = none ∧
      (∀ f, (t.fn p f).epoch = (s.fn p f).epoch + 1) ∧ t.parts[p].keyGen = s.parts[p].keyGen + 1 ∧
      (∀ a, t.hbm.find? a =
        if hbmKey p 0 0 ≤ a ∧ a < hbmKey p 0 0 + 2 ^ 40 then none else s.hbm.find? a) ∧ t.host = s.host) ∧
    (o.kind = .budget →
      exec (.partitionDrained p) s = .next (s.updPart p fun x => { x with op := some { o with phase := .done } }))) ∧
  ∀ (s : State) (p : Port) (o : PartOp) (stop : Stop), s.parts[p].op = some o →
    (o.phase = .fencing → stop.val ∈ s.partStops p →
      (stop.val ∉ s.parts[p].fenced →
        exec (.fence p stop) s = .next (s.updPart p fun x => { x with fenced := x.fenced ++ [stop.val] })) ∧
      (stop.val ∈ s.parts[p].fenced → s.parts[p].quiet stop.val = true → stop.val ∉ o.acks → s.power.tripped = false →
        let acks := o.acks ++ [stop.val]
        let sent : State := { s with msgs := s.msgs ++ [deviceFlit 1 0x90 stop.val orlysStop p.val s.deviceYX] }
        let routes := o.image.elim [] fun im => im.routes
        ((∃ d ∈ s.partStops p, d ∉ acks) →
          exec (.fenceAck p stop) s = .next (sent.updPart p fun x => { x with op := some { o with acks := acks } })) ∧
        ((∀ d ∈ s.partStops p, d ∈ acks) →
          ((∀ r ∈ routes, ∀ l ∈ s.linksFenced, r.crosses l = false) →
            exec (.fenceAck p stop) s = .next (sent.updPart p fun x => { x with
              op := some { o with acks := acks, phase := if o.kind = .apply then .writing else .zeroing }
              routes := routes, quota := o.image.elim [] quotaOf })) ∧
          ((∃ r ∈ routes, ∃ l ∈ s.linksFenced, r.crosses l = true) → o.kind ≠ .scrub →
            Runs (.fenceAck p stop) s fun t => t.parts[p].pstate = .failed ∧ t.parts[p].op = none ∧ SameMemory s t)))) ∧
    let s1 := s.updPart p fun x => { x with op := none }
    (s.parts[p].pstate ≠ .failed → exec (.unfence p stop) s1 =
      .next (s1.updPart p fun x => { x with fenced := x.fenced.filter fun d => d != stop.val }))

/-- STRUCTURE_WRITE_DONE of an apply: the image is in force with its digest and version, contexts are at their reset values,
CONST data stands and the partition is LOADED (R59, R60, R526). IMAGE_UNLOAD drains the partition; at the end of the zeroing no
image is left, the partition's slabs read 0 and it is EMPTY; a scrub's end also clears its batch queues and counters (R62,
R79). -/
def Obligations.AppliesUnloadsAndScrubsEnd : Prop :=
  (∀ (s : State) (p : Port) (o : PartOp) (im : PartImage), s.parts[p].op = some o → o.image = some im → o.kind = .apply →
    o.phase = .writing → s.clustersUp p = true → s.parts[p].scrubNext = none → s.power.tripped = false →
    Runs (.structureWriteDone p) s fun t =>
      t.parts[p].image = some im ∧ t.parts[p].digest = im.digest ∧ t.parts[p].version = im.version ∧
      t.parts[p].pstate = .loaded ∧ t.parts[p].op = none ∧ t.parts[p].ctx = Vector.replicate 256 RimeCtx.reset ∧
      t.slab = (im.consts.foldl (fun a k => a.writeConst k) s).slab ∧ t.hbm = s.hbm ∧ t.host = s.host ∧
      t.parts[p].place = s.parts[p].place ∧ Settled t) ∧
  (∀ (s : State) (p : Port) (k : Nat) (i : Item), s.portItem p k opImageUnload = some i → i.orphan = false → ItemsOk s →
    s.parts[p].pstate ≠ .notReady → s.parts[p].op = none → s.refusing p = false →
    let v := s.parts[p].version
    (i.fld 16 8 = 2 ^ 64 - 1 ∨ i.fld 16 8 = v.toNat → Runs (.imageUnload p k) s fun t =>
      (∃ o, t.parts[p].op = some o ∧ o.kind = .unload ∧ o.phase = .draining ∧ o.asker = .item p k) ∧
      t.parts[p].image = s.parts[p].image ∧ SameMemory s t) ∧
    (i.fld 16 8 ≠ 2 ^ 64 - 1 → i.fld 16 8 ≠ v.toNat → Runs (.imageUnload p k) s fun t =>
      CompletedAtPort p k .stateStale (v.toNat % 2 ^ 32) (v.toNat / 2 ^ 32) t ∧ OnlyPort p s t)) ∧
  ∀ (s : State) (p : Port) (o : PartOp), s.slab.wf = true → s.parts[p].op = some o → o.phase = .zeroing →
    (∀ c : Cluster, s.ownsCluster p c.val = true → s.clusters[c].thawing = none) → s.power.tripped = false →
    (o.kind = .unload ∨ o.kind = .scrub) → s.parts[p].place.isSome = true → Runs (.slabZeroingDone p) s fun t =>
      t.parts[p].image = none ∧ t.parts[p].version = 0 ∧ t.parts[p].digest = List.replicate 48 0 ∧
      t.parts[p].pstate = .empty ∧ t.parts[p].op = none ∧
      (∀ tile off, s.ownsCluster p (tile / 8) = true → tile < 128 → off < slabBytes →
        t.slab.get (slabKey tile off) = 0) ∧
      (∀ tile off, s.ownsCluster p (tile / 8) = false → off < slabBytes →
        t.slab.get (slabKey tile off) = s.slab.get (slabKey tile off)) ∧
      (o.kind = .scrub → (∀ m : Fin 64, t.parts[p].bq[m] = BatchQueue.reset) ∧ t.parts[p].cnt = Vector.replicate 37 0 ∧
        t.parts[p].imgError = 0) ∧ t.hbm = s.hbm ∧ t.host = s.host

/-- FLOOR_APPLY, once no partition is applying: each port takes the class of its most severe changed field, and the partitions
to be scrubbed or rechecked drain (R63, R87, R88). FLOOR_WRITE_DONE, once they have: the new records, version, digest and
owners are in force (R88, R443). -/
def Obligations.FloorsApplyThenTakeForce : Prop :=
  (∀ (s : State) (f : FloorChange), s.floorChange = some f → f.started = false → s.applying = false →
    Runs .floorApply s fun t =>
      (t.floorChange.map fun x => (x.image, x.started)) = some (f.image, true) ∧
      (∀ (p : Port) (x : FloorChange), t.floorChange = some x →
        x.classes[p] = floorClassOf s.parts[p].place f.image.places[p]) ∧
      (∀ p : Port, t.parts[p].place = s.parts[p].place ∧
        (floorClassOf s.parts[p].place f.image.places[p] = .scrub →
          s.parts[p].op = none → t.parts[p].op.any (·.kind == .scrub) = true)) ∧
      t.floorVersion = s.floorVersion ∧ SameMemory s t) ∧
  ∀ (s : State) (f : FloorChange), s.floorChange = some f → s.floorDrained f = true →
    Runs .floorWriteDone s fun t =>
      t.floorChange = none ∧ t.floorVersion = f.image.version ∧ t.floorDigest = f.image.digest ∧
      (∀ p : Port, t.parts[p].place = f.image.places[p] ∧ (f.classes[p] ≠ .budget →
        (s.parts[p].place = none → f.image.places[p].isSome = true → t.parts[p].pstate = .empty) ∧
        (f.image.places[p] = none → t.parts[p].pstate = .notReady))) ∧
      (∀ u : UnitId, u.valid = true → (t.ledgerWord u).owner = ownerIn f.image.places u) ∧ t.host = s.host

/-! ## Engines (05 to 11) -/

/-- AGE_TICK sweeps the tiles that TILES names and completes OK, or PARTIAL where a bucket was skipped, with the ways
removed, which CNT_AGE_REMOVED counts, and the ways left: each occupied way of a bucket that can be read ages by TICKS,
saturating at 255, and one whose age reaches TTL becomes a tombstone; no other slab and no other memory changes (R140, R141,
Table 5.5). The invalidations of a home table need their quotas; an entry that is none of an ageing table ends the item
BAD_DESCRIPTOR at 16 and nothing is swept. EPOCH_SET writes its pipeline's context, from the one before with ADVANCE, and
completes with the epoch and word k0 (R243); with no enabled shuffled queue on the pipeline nothing else changes. -/
def Obligations.AgeTicksAndEpochs : Prop :=
  (∀ (s : State) (p : Port) (k : Nat) (i : Item), memoriesOk s = true → s.serving p k opAgeTick = some i →
    let n := i.fld 16 1
    let named := (List.range 128).filter fun t => (i.fld 32 16).testBit t
    (∀ t ∈ named, s.clusterOper (t / 8) = .run ∧ s.slabBad t (64 * n) 64 = false ∧
      let e := TabEntry.of n (s.slabGet t (64 * n) 64)
      e.kind = 2 ∧ e.ageing = true ∧ e.flow = i.flow ∧ e.wf = true ∧
      (e.isHome = true → ∀ b, b < e.count → (s.parts[p].snoops t i.key n b e.members (List.range 128)).isSome = true)) →
    Runs (.ageTick p k) s fun t =>
      (∃ st removed left, (st = .ok ∨ st = .partialDone) ∧ Completed p k st removed left t ∧
        t.parts[p].cnt[PCnt.ageRemoved.ix] = s.parts[p].cnt[PCnt.ageRemoved.ix] + BitVec.ofNat 64 removed) ∧
      (∀ x ∈ named,
        let e := TabEntry.of n (s.slabGet x (64 * n) 64)
        ∀ b w, b < e.count → w < 8 → s.slabBad x (e.keyAt b 0) 64 = false → s.slabBad x (e.ageAt b 0) 8 = false →
          let key := s.slabGet x (e.keyAt b w) 8
          let age := s.slabGet x (e.ageAt b w) 1
          let older := min (leNat age + i.fld 18 2) 255
          (tombstone ≤ leNat key → t.slabGet x (e.keyAt b w) 8 = key ∧ t.slabGet x (e.ageAt b w) 1 = age) ∧
          (leNat key < tombstone → t.slabGet x (e.ageAt b w) 1 = leBytes 1 older ∧
            t.slabGet x (e.keyAt b w) 8 = if e.ttl ≤ older then leBytes 8 tombstone else key)) ∧
      StoresOnly p (named.map fun t => (.slab t 0, slabBytes)) s t ∧ EngineOnly s t) ∧
  (∀ (s : State) (p : Port) (k : Nat) (i : Item), s.serving p k opAgeTick = some i →
    let n := i.fld 16 1
    let named := (List.range 128).filter fun t => (i.fld 32 16).testBit t
    let entry (t : Nat) : TabEntry := TabEntry.of n (s.slabGet t (64 * n) 64)
    (∀ t ∈ named, s.clusterOper (t / 8) = .run ∧ s.slabBad t (64 * n) 64 = false) →
    (∀ t ∈ named, (entry t).kind = 2 → (entry t).ageing = true → (entry t).flow = i.flow) →
    (∃ t ∈ named, (entry t).kind ≠ 2 ∨ (entry t).ageing = false) →
    Runs (.ageTick p k) s fun t => Completed p k .badDescriptor 16 0 t ∧ OnlyPort p s t) ∧
  ∀ (s : State) (p : Port) (k : Nat) (i : Item), s.serving p k opEpochSet = some i →
    let pipe : Fin 256 := Fin.ofNat 256 i.pipeline
    let old := s.parts[p].ctx[pipe]
    let c := if i.flag 4 then RimeCtx.make old.seed (old.epoch + 1) old.shuffleN
      else RimeCtx.make (BitVec.ofNat 64 (i.fld 16 8)) (BitVec.ofNat 32 (i.fld 24 4)) (i.fld 32 8)
    Runs (.epochSet p k) s fun t =>
      t.parts[p].ctx = s.parts[p].ctx.set pipe c ∧ Completed p k .ok c.epoch.toNat c.k0.toNat t ∧ t.hbm = s.hbm ∧
      t.host = s.host ∧
      ((∀ m, m < 64 → ((s.bq p m).enabled && (s.bq p m).layout.any fun l => l.shuffled && l.pipeline == i.pipeline) = false) →
        t.parts[p] = { s.parts[p] with ctx := t.parts[p].ctx } ∧ SameMemory s t ∧
        t = { s with ports := t.ports, parts := t.parts })

/-- GATHER stores the rows of its positions at DST and the masks at MASK and nothing else; it completes OK, PARTIAL, STOPPED in
STRICT mode, or UNCORRECTABLE (R201 to R210). One valid position of a table without firn slots: the row that its index names
in the cold table, as R204 lays it out, and empty masks. -/
def Obligations.GatherStoresRowsAndMasks : Prop :=
  ∀ (s : State) (p : Port) (k : Nat) (i : Item) (c : GatherRec) (g : GatherRun), memoriesOk s = true →
    s.servingNow p k opGather = some i → s.gatherRec p i.table = some c → i.snap.find? (·.table == i.table) = some g →
    s.rangesOk p (i.gatherRanges c) = true → AllRun s → i.fld 46 1 ≤ 2 →
    let sp := i.fld 45 1
    let n := i.fld 40 4
    let dst := place3 (bitsOf sp 2 2) (i.fld 24 8)
    let mask := place3 (bitsOf sp 4 2) (i.fld 32 8)
    Runs (.gather p k) s (fun t => EndsWith p k [.ok, .partialDone, .stopped, .uncorrectable] t ∧
      StoresOnly p [(dst, (n - 1) * i.fld 48 4 + i.outRow c), (mask, 16 * ceilDiv (n - i.fld 52 4) 64)] s t ∧
      EngineOnly s t) ∧
    ∀ (r e : Nat) (row : List Byte), n = 1 → i.fld 52 4 = 0 → c.firnSlots = 0 → r < g.rows → r < 0xFFFFFFFF → e < 2 ^ 58 →
      s.readPlace p i (place3 (bitsOf sp 0 2) (i.fld 16 8)) 4 = .bytes (leBytes 4 r) →
      s.readPlace p i (dirPlace g (r % 8) (r / 8 + 1)) 8 = .bytes (leBytes 8 e) →
      s.readPlace p i (rowPlace g c (r % 8) (r / 8 + 1)) (rowElems c.classCold c.rowWidth) = .bytes row →
      let out := i.outputRow c { cls := c.classCold, half := c.coldFp16, elems := row, scale := e % 2 ^ 16 }
      Runs (.gather p k) s fun t => Completed p k .ok 0 0 t ∧
        SameMemory ((s.writePlace p dst out).writePlace p mask (List.replicate 16 0)) t

/-- FIRN_LOAD stores only in the inactive half's slots and the table's directory entries. Where its list, its rows and the
directory can be read it completes OK with the rows placed and the half: the half is valid, slot n holds the row of list entry
n and its index, or the unused mark, and the entry of a row that the list names once says IN and its slot. FIRN_SWAP swaps the
active halves of every table it names, or none: STATE_STALE with the lowest that cannot swap (R191, R193 to R195). TABLE_REPLACE
WRITE copies its source to the stack, refuses a live region, and is BOUNDS past the partition's range; SWAP is BOUNDS there too,
else it pauses the table, then gives it the new descriptor with both halves invalid and both index lists empty (R199, R200). -/
def Obligations.FirnSetsAndTablesReplace : Prop :=
  (∀ (s : State) (p : Port) (k : Nat) (i : Item) (c : GatherRec) (g : GatherRun), memoriesOk s = true → AllRun s →
    s.servingNow p k opFirnLoad = some i → s.gatherRec p i.table = some c → s.gatherRun p i.table = some g →
    s.rangesOk p (i.firnRanges c) = true → s.halfHeld p i.table k = false →
    let bytes := rowElems c.classHot c.rowWidth + rowScale c.classHot
    let slots := (List.range c.firnSlots).flatMap fun n =>
      let z := firnSlot c (s.tilesOf p) (!g.active) n
      [(Place3.slab z.tile z.row, bytes), (Place3.slab z.tile z.index, 4)]
    let dirs := (List.range 8).map fun st => (Place3.hbm st (g.dirPage * 4096), 8 * (g.rows / 8 + 2))
    Runs (.firnLoad p k) s fun t => EndsWith p k [.ok, .uncorrectable] t ∧ StoresOnly p (slots ++ dirs) s t ∧
      EngineOnly s t ∧
      (∀ j, t.item? p k = some j → j.status = .ok → t.halfValid p i.table (!g.active) = true) ∧
      ∀ lb rows,
        let m := i.fld 32 4
        let listed (n : Nat) : Nat := field lb (4 * n) 4
        let placed := (List.range m).filter fun n => placeable g (listed n)
        s.readPlace p i (place3 (bitsOf (i.fld 37 1) 2 2) (i.fld 24 8)) (4 * m) = .bytes lb →
        s.readPlace p i (place3 (bitsOf (i.fld 37 1) 0 2) (i.fld 16 8)) (m * Machine.slotBytes c) = .bytes rows →
        (∀ r, r < g.rows → s.readPlace p i (rowDir g r) 8 ≠ .ue) → s.tilesOf p ≠ [] →
        64 * c.firnBase + 2 * halfBytes c (s.tilesOf p).length ≤ slabBytes →
        Completed p k .ok placed.length (!g.active).toNat t ∧
        (∀ n, n < c.firnSlots →
          let z := firnSlot c (s.tilesOf p) (!g.active) n
          (n ∈ placed → t.slabGet z.tile z.index 4 = leBytes 4 (listed n) ∧
            t.slabGet z.tile z.row bytes = slice rows (n * Machine.slotBytes c) bytes) ∧
          (n ∉ placed → t.slabGet z.tile z.index 4 = leBytes 4 0xFFFFFFFF)) ∧
        ∀ n ∈ placed, (∀ n' ∈ placed, listed n' = listed n → n' = n) →
          ∃ e, t.readPlace p i (rowDir g (listed n)) 8 = .bytes (leBytes 8 e) ∧ entryIn e (!g.active) = true ∧
            entrySlot e (!g.active) = n % 2 ^ 20) ∧
  (∀ (s : State) (p : Port) (k : Nat) (i : Item), s.serving p k opFirnSwap = some i →
    let named := (List.range 256).filter fun t => (i.fld 16 32).testBit t
    ((∀ t ∈ named, s.swapOffends p t = false) → Runs (.firnSwap p k) s fun t => Completed p k .ok named.length 0 t ∧
      t.parts[p] = { s.parts[p] with gtab := s.parts[p].gtab.map fun g =>
        if g.table ∈ named then { g with active := !g.active } else g } ∧
      t = { s with ports := t.ports, parts := t.parts }) ∧
    ∀ x ∈ named, s.swapOffends p x = true → (∀ y ∈ named, y < x → s.swapOffends p y = false) →
      Runs (.firnSwap p k) s fun t => Completed p k .stateStale x 0xFFFFFFFF t ∧ OnlyPort p s t) ∧
  ∀ (s : State) (p : Port) (k : Nat) (i : Item) (c : GatherRec), s.serving p k opTableReplace = some i →
    s.gatherRec p i.table = some c → s.itsTurn p i = true →
    let n := i.fld 32 4
    let src := place3 (bitsOf (i.fld 38 1) 0 2) (i.fld 16 8)
    let dst := Place3.hbm (i.fld 37 1) (i.fld 24 8)
    (i.isSwap = false → s.writesLive p i c = true → Runs (.tableReplaceWrite p k) s fun t =>
      Completed p k .badDescriptor 24 0 t ∧ OnlyPort p s t) ∧
    (i.isSwap = false → s.writesLive p i c = false → s.inBounds p dst n = true → s.inBounds p src n = true →
      ∀ bs, s.readPlace p i src n = .bytes bs → Runs (.tableReplaceWrite p k) s fun t =>
        Completed p k .ok n 0 t ∧ SameMemory (s.writePlace p dst bs) t) ∧
    (i.isSwap = false → s.writesLive p i c = false → (s.inBounds p dst n && s.inBounds p src n) = false →
      Runs (.tableReplaceWrite p k) s fun t => Completed p k .bounds 0 0 t ∧ OnlyPort p s t) ∧
    (i.isSwap = true → s.swapBounds p i c = true → Runs (.tableReplaceSwap p k) s fun t =>
      Completed p k .bounds 0 0 t ∧ OnlyPort p s t) ∧
    (i.isSwap = true → s.swapBounds p i c = false → exec (.tableReplaceSwap p k) s =
      .next (s.updPart p fun x => { x with gtab := x.gtab.map fun g =>
        if g.table = i.table ∧ g.pause = none then { g with pause := some k } else g })) ∧
    ∀ g, memoriesOk s = true → s.gatherRun p i.table = some g → g.pause = some k → s.tableBusy p i.table = false →
      Runs (.swap p k) s fun t => EndsWith p k [.ok] t ∧
        t.gatherRun p i.table = some { g with
          dataPage := i.fld 40 4, dirPage := i.fld 44 4, rows := i.fld 48 8, validA := false, validB := false
          pause := none } ∧
        (∀ h n, n < c.firnSlots →
          let z := firnSlot c (s.tilesOf p) h n
          t.slabGet z.tile z.index 4 = leBytes 4 0xFFFFFFFF) ∧
        StoresOnly p ([false, true].flatMap fun h => (List.range c.firnSlots).map fun n =>
          let z := firnSlot c (s.tilesOf p) h n
          (Place3.slab z.tile z.index, 4)) s t ∧ EngineOnly s t

/-- SELECT and SAMPLE store their rows at DST, SELECT its summaries at SUMMARY with its flag set, and nothing else (R214 to
R230). One row that can be read: SELECT writes the entries it selects in their order and completes OK, or PARTIAL when more
qualify than K; SAMPLE writes one record and completes OK, or PARTIAL where the row has no candidate (R221, R224, R228,
R230). -/
def Obligations.SelectAndSampleStoreRows : Prop :=
  ∀ (s : State) (p : Port) (k : Nat) (i : Item), memoriesOk s = true → s.rangesOk p i.rowRanges = true →
    (∀ r ∈ i.rowRanges, s.awake r.2.1 = true) →
    let stored := (i.rowRanges.filter fun r => r.1 != 16).map (·.2)
    let rows := i.fld 54 2
    (s.servingNow p k opSelect = some i →
      Runs (.select p k) s (fun t => EndsWith p k [.ok, .partialDone, .uncorrectable] t ∧ StoresOnly p stored s t ∧
        EngineOnly s t) ∧
      ∀ bs, rows = 1 → i.flag 6 = false →
        s.readPlace p i (i.sourceRow 0) (rowBytesOf (i.flag 5) (i.fld 52 1) (i.fld 40 4)) = .bytes bs →
        let x := i.selects (rowElemsOf (i.flag 5) (i.fld 52 1) (i.fld 40 4) (i.fld 60 4) bs)
        let more := i.fld 44 4 < x.2
        Runs (.select p k) s fun t => SameMemory (s.writePlace p i.dstPlace (x.1.flatMap Elem.entry)) t ∧
          (more → Completed p k .partialDone 0 1 t) ∧ (¬more → Completed p k .ok 1 (min x.1.length 0xFFFFFFFF) t)) ∧
    (s.servingNow p k opSample = some i →
      Runs (.sample p k) s (fun t => EndsWith p k [.ok, .partialDone, .uncorrectable] t ∧ StoresOnly p stored s t ∧
        EngineOnly s t) ∧
      ∀ bs, rows = 1 →
        s.readPlace p i (i.sourceRow 0) (rowBytesOf (i.flag 5) (i.fld 38 1) (i.fld 32 4)) = .bytes bs →
        let x := i.sampleOf (i.ctx.getD (s.ctxOf p i.pipeline)) 0 (rowElemsOf (i.flag 5) (i.fld 38 1) (i.fld 32 4) 0 bs)
        Runs (.sample p k) s fun t =>
          SameMemory (s.writePlace p i.dstPlace ((x.getD Sampled.none).record)) t ∧
          (∀ y, x = some y → Completed p k .ok 1 y.idx t) ∧ (x = none → Completed p k .partialDone 0 1 t))

/-- COMPRESS and FLUSH write what their stream has newly emitted at DST, LIMIT with the bound where the destination cannot hold
BOUND bytes; DECOMPRESS writes the output newly decoded, LIMIT when it fills its destination; the stream is kept for the
next item or closed by the last (R173, R176, R178 to R182). -/
def Obligations.CodecItemsWriteTheirStream : Prop :=
  ∀ (s : State) (p : Port) (k : Nat) (i : Item) (x : Stream), memoriesOk s = true →
    s.rangesOk p i.codecRanges = true → (∀ r ∈ i.codecRanges, s.awake r.2.1 = true) →
    let last := bitsOf (i.fld 43 1) 1 1 = 1
    let n := i.fld 32 4
    let cap := i.fld 36 4
    let dst := i.codecDst
    let ctx := hbmKey p (i.fld 48 8 / 2 ^ 37) (i.fld 48 8 % 2 ^ 37)
    let Wrote (out : List Byte) (y : Stream) (closed : Prop) (t : State) : Prop :=
      let w := s.writePlace p dst out
      t.slab = w.slab ∧ t.host = w.host ∧ (∀ a, a < ctx ∨ ctx + ctxBytes ≤ a → t.hbm.find? a = w.hbm.find? a) ∧
      (i.stream? = none → t.parts[p].streams = s.parts[p].streams) ∧
      (∀ a, i.stream? = some a → (closed → t.streamAt p i = none) ∧ (¬closed → t.streamAt p i = some y))
    (s.servingNow p k opCompress = some i → s.streamFor p i true = .ok x →
      let bound := boundOf x (x.held + n) (i.fld 43 1 % 2 = 1) last
      (i.flag 4 = false → cap < bound → Runs (.compress p k) s fun t =>
        Completed p k .limit 0 (min bound 0xFFFFFFFF) t ∧ OnlyPort p s t) ∧
      ∀ src, s.readPlace p i i.codecSrc n = .bytes src → (i.flag 4 = false → bound ≤ cap) →
        let y := x.compressItem src last
        (i.flag 4 = true → min cap (n - 1) < y.1.length → Runs (.compress p k) s fun t =>
          Completed p k .noGain 0 n t ∧ StoresOnly p [(dst, cap)] s t) ∧
        (i.flag 4 = false ∨ y.1.length ≤ min cap (n - 1) → Runs (.compress p k) s fun t =>
          Completed p k .ok y.1.length y.2.held t ∧ Wrote y.1 y.2 last t)) ∧
    (s.servingNow p k opFlush = some i → s.streamFor p i true = .ok x →
      (cap < flushBound x → Runs (.flush p k) s fun t =>
        Completed p k .limit 0 (min (flushBound x) 0xFFFFFFFF) t ∧ OnlyPort p s t) ∧
      (flushBound x ≤ cap → Runs (.flush p k) s fun t =>
        Completed p k .ok x.flushItem.1.length 0 t ∧ Wrote x.flushItem.1 x.flushItem.2 False t)) ∧
    (s.servingNow p k opDecompress = some i → s.streamFor p i false = .ok x →
      ∀ src, s.readPlace p i i.codecSrc n = .bytes src →
        let d := decodeFormat x.format x.dict (x.input ++ src)
        let out := d.out.drop x.written
        let y : Stream := { x with input := x.input ++ src, written := x.written + out.length }
        (cap < out.length → Runs (.decompress p k) s fun t => ∃ used, Completed p k .limit cap used t ∧
          Wrote (out.take cap) { x with input := x.input ++ src.take used, written := x.written + cap } False t) ∧
        (out.length ≤ cap → (d.verdict = .ended ∨ d.verdict = .more ∧ ¬last) → Runs (.decompress p k) s fun t =>
          Completed p k .ok out.length n t ∧ Wrote out y (last ∧ d.verdict = .ended) t) ∧
        (out.length ≤ cap → (d.verdict = .malformed ∨ d.verdict = .more ∧ last) → Runs (.decompress p k) s fun t =>
          (∃ off, Completed p k .malformed out.length off t) ∧ Wrote out y True t))

/-- INGEST_RECORDS and INGEST_COLUMNS open their input, UNSUPPORTED where its codec is. DECODE_RECORD: a kept record takes its
lane and is counted; a rejected one's lane is empty and its 16-byte entry enters the reject list while that has room; a
group that is full is written, a vector for each column, and nothing else is stored (R149, R154, R157, R158, R163 to R165). A
window's passes are dispatched to its tiles; one that has finished leaves (R159). -/
def Obligations.IngestDecodesRecordsIntoLanes : Prop :=
  (∀ (s : State) (p : Port) (k op : Nat) (i : Item) (plan : Plan) (c : Instr), s.serving p k op = some i → i.ingest = none →
    s.planOf p i = some plan → s.itsTurn p i = true →
    (i.unwraps = true → ∃ u, s.unwrapUnit = some u ∧ s.running u = true ∧ s.hasTurn p u = true) →
    (op = opIngestRecords ∧ c = .ingestRecords p k ∨ op = opIngestColumns ∧ c = .ingestColumns p k) →
    ((s.unwrap p i).open plan = none → Runs c s fun t => Completed p k .unsupported 0 0 t ∧ SameMemory s t) ∧
    ∀ g, (s.unwrap p i).open plan = some g → g.ready = false → g.lanes = [] → Runs c s fun t => SameMemory s t ∧
      (g.ended = none → (t.item? p k).map (fun j => (j.st, j.ingest)) = some (.inService, some g)) ∧
      (g.ended = some .whole → g.rejected = 0 → Completed p k .ok g.kept 0 t) ∧
      (∀ off, g.ended = some (.malformed off) → Completed p k .malformed g.place (min off 0xFFFFFFFF) t)) ∧
  (∀ (s : State) (p : Port) (k : Nat) (i : Item) (plan : Plan) (g g1 : IngestRun) (taken : Taken),
    s.ingesting p k = some (i, plan, g) → g.ended = none → g.ready = false → s.itsTurn p i = true →
    (i.unwraps = true → ∃ u, s.unwrapUnit = some u ∧ s.running u = true ∧ s.hasTurn p u = true) →
    g.take { plan := plan, nodes := plan.nodes, symbols := g.symbols } = (taken, g1) →
    (∀ l, taken = .kept l →
      let g3 : IngestRun := { g1 with lanes := g1.lanes ++ [plan.validLane ++ l], place := g1.place + 1, kept := g1.kept + 1 }
      (g3.groupDue plan = false → g3.ended = none → Runs (.decodeRecord p k) s fun t =>
        (t.item? p k).bind (·.ingest) = some { g3 with ready := g3.windowDue plan } ∧ SameMemory s t ∧
        t.parts[p].cnt[PCnt.decodeRecords.ix] = s.parts[p].cnt[PCnt.decodeRecords.ix] + 1) ∧
      (g3.groupDue plan = true → g3.ended = none → (∀ b ∈ g3.busy, b.1 + 2 ≠ g3.window) → AllRun s →
        (∀ d ∈ plan.coldefs, d.arg < 128) →
        Runs (.decodeRecord p k) s fun t => SameMemory (s.writeGroup p plan g3) t ∧
          ((t.item? p k).bind (·.ingest)).map (fun h => (h.lanes, h.groups)) = some ([], g3.groups + 1))) ∧
    ∀ j start, taken = .rejected j (some start) → (i.opcode == opIngestRecords && i.flag 1) = false →
      g.entries < i.fld 36 4 →
      let g3 : IngestRun :=
        { g1 with lanes := g1.lanes ++ [[]], place := g1.place + 1, rejected := g1.rejected + 1, entries := g1.entries + 1 }
      g3.groupDue plan = false → g3.ended = none → Runs (.decodeRecord p k) s fun t =>
        (t.item? p k).bind (·.ingest) = some { g3 with ready := g3.windowDue plan } ∧
        SameMemory (s.hostPut p (i.fld 56 8 + 16 * g.entries)
          (leBytes 5 ((i.fld 40 8 + g.place) % 2 ^ 40) ++ leBytes 1 j.reason ++ leBytes 2 j.ix ++ leBytes 8 start)) t) ∧
  (∀ (s : State) (p : Port) (k : Nat) (i : Item) (plan : Plan) (g : IngestRun), s.ingesting p k = some (i, plan, g) →
    g.ready = true → g.ended = none → (∀ t ∈ s.windowTiles p plan i.pipeline, s.tileRoom (tix t) = true) →
    Runs (.decodeWindowComplete p k) s fun t =>
      (t.item? p k).bind (·.ingest) = some { g with
        ready := false, groups := 0, window := g.window + 1
        busy := g.busy ++ [(g.window, s.windowTiles p plan i.pipeline)] } ∧
      (∀ x ∈ s.windowTiles p plan i.pipeline, ∃ w ∈ t.tiles[tix x].queue, w.key = k ∧ w.port = p ∧
        w.window = some g.window) ∧ SameMemory s t) ∧
  ∀ (s : State) (p : Port) (k w : Nat) (i : Item) (g : IngestRun), s.item? p k = some i → i.ingest = some g →
    (g.busy.find? fun b => b.2.isEmpty) = some (w, []) → i.st = .inService →
    exec (.windowFinished p k) s = .next (s.updItem p k fun j => { j with
      ingest := some { g with busy := g.busy.filter fun b => b.1 != w }
      stepsLeft := if j.st = .completing then j.stepsLeft - 1 else j.stepsLeft })

/-- INGEST_FRAME: a header that breaks R254 completes MALFORMED at the field's offset with nothing stored; a frame whose
planes can be read completes OK, its warped planes one after another at DST and nothing else stored, whether it was flipped
in Result1 bit 0 (R252 to R264). -/
def Obligations.FramesWarpIntoTheirPlanes : Prop :=
  ∀ (s : State) (p : Port) (k : Nat) (i : Item) (m : WarpMesh) (hd : List Byte), memoriesOk s = true → AllRun s →
    s.servingNow p k opIngestFrame = some i → s.warpOf p (i.fld 54 1) = some m →
    let src := place3 (bitsOf (i.fld 55 1) 0 2) (i.fld 16 8)
    s.inBounds p src (i.fld 56 4) = true → s.inBounds p i.dstPlace 1 = true → s.tileRoom (tix i.dstTile) = true →
    s.readPlace p i src 64 = .bytes hd →
    (∀ off, frameFault hd m (i.fld 56 4) = some off → Runs (.ingestFrame p k) s fun t =>
      Completed p k .malformed off 0 t ∧ OnlyPort p s t) ∧
    let ins := planesOf (field hd 6 1) (field hd 8 2) (field hd 10 2)
    let outs := planesOf (field hd 6 1) m.outW m.outH
    let o := (outs.map Plane.outSize).sum
    let ctx := i.ctx.getD (s.ctxOf p i.pipeline)
    (frameFault hd m (i.fld 56 4) = none → s.inBounds p i.dstPlace o = true →
      (∀ x ∈ ins, s.readPlace p i (src.plus (planeOff hd x.no)) (x.extent (planeStride hd x.no)) ≠ .ue) →
      Runs (.ingestFrame p k) s fun t =>
        Completed p k .ok i.r0.toNat ((i.flips ctx).toNat + 2 * (i.frame.any (·.untimed)).toNat) t ∧
        StoresOnly p [(i.dstPlace, o)] s t ∧ t.time = s.time ∧ t.power = s.power)

/-! ## Tiles (04) -/

/-- TILE_PASS starts the oldest pass of an idle tile in RUN with zero registers and masks (R97, R123). PASS_BEAT: while beats
are left, the pass moves on by one beat or nothing of the beat is written (R100, R104); a beat whose bindings load and whose
words run leaves their registers and masks; one I32 ADD adds lane by lane modulo 2^32 (R94, R112); after the last beat
NEXT_PASS starts at beat 0 with registers and masks unchanged, and 0xFF frees the tile and ends the item's pass (R97). -/
def Obligations.PassesStartBeatAndEnd : Prop :=
  (∀ (s : State) (t : Tile) (w : TileWork) (q : List TileWork) (g : TileProg), s.tiles[t].run = none →
    s.tiles[t].queue = w :: q → s.entryPass w.port t.val w.pipeline = some g → s.clusterOper (t.val / 8) = .run →
    s.mayRun ⟨.tile, t.val⟩ = true →
    exec (.tilePass t) s = .next (s.updTile t fun x => { x with
      vr := Vector.replicate 64 0, pm := Vector.replicate 7 0, queue := q, run := some (PassRun.start w g) })) ∧
  ∀ (s : State) (t : Tile) (r : PassRun) (g : TileProg), s.tiles[t].run = some r →
    s.progOf r.work.port t.val r.work.pipeline r.pass = some g → s.clusterOper (t.val / 8) = .run →
    let c := s.beatArgs t r g r.stores
    let x : Beat :=
      { s := s, vr := s.tiles[t].vr, pm := s.tiles[t].pm, cursors := [], staged := s.tiles[t].staging, buffers := r.buffers
        counts := r.counts, spills := [], stored := [] }
    let ws := (g.words.take g.slots).map SWord.of
    (r.beat < r.work.args.b → Runs (.passBeat t) s fun u =>
      (∃ r', u.tiles[t].run = some r' ∧ r'.work = r.work ∧ r'.pass = r.pass ∧ r'.beat = r.beat + 1) ∨ SameMemory s u) ∧
    (r.beat < r.work.args.b → s.packetsReady t g.binds = true → r.started = true → ∀ y z : Beat,
      Beat.loads c r.recent g.binds x = .ok y → Beat.words c 0 0 ws y = .ok z → z.spills = [] → z.stored = [] →
      (∀ b ∈ g.binds, b.kind ≠ 4) → ((z.outputs c r.emitted).flatMap (·.1)).all Emit.inSlab = true →
      Runs (.passBeat t) s fun u => u.tiles[t].vr = z.vr ∧ u.tiles[t].pm = z.pm ∧
        u.slab = (State.stores t.val ((z.outputs c r.emitted).flatMap (·.1)) z.s).slab ∧
        u = { u with hbm := z.s.hbm, host := z.s.host, ports := z.s.ports, ledger := z.s.ledger, free := z.s.free } ∧
        ∃ r', u.tiles[t].run = some r' ∧ r'.beat = r.beat + 1 ∧ r'.work = r.work ∧ r'.counts = z.counts) ∧
    (r.beat < r.work.args.b → r.started = true → g.binds = [] → ∀ w : SWord, ws = [w] → w.wop = some .add → w.fmt = 6 →
      w.sat = false → w.immB = false → w.constB = false → w.pred = 0 → Runs (.passBeat t) s fun u =>
        lanes 32 u.tiles[t].vr[(Fin.ofNat 64 w.dst : Fin 64)] = List.zipWith (fun a b => (a + b) % 2 ^ 32)
          (lanes 32 s.tiles[t].vr[(Fin.ofNat 64 w.srcA : Fin 64)]) (lanes 32 s.tiles[t].vr[(Fin.ofNat 64 w.srcB : Fin 64)]) ∧
        (∀ n : Fin 64, n ≠ Fin.ofNat 64 w.dst → u.tiles[t].vr[n] = s.tiles[t].vr[n]) ∧ u.tiles[t].pm = s.tiles[t].pm ∧
        SameMemory s u) ∧
    (r.beat = r.work.args.b → g.binds = [] → bitsOf g.counts 23 1 = 0 →
      (g.nextPass = 0xFF → Runs (.passBeat t) s fun u =>
        u.tiles[t].run = none ∧ u.tiles[t].queue = s.tiles[t].queue ∧ SameMemory s u ∧
        ∀ i, s.item? r.work.port r.work.key = some i →
          u.item? r.work.port r.work.key = some (i.passOver r.work t.val)) ∧
      ∀ h, g.nextPass ≠ 0xFF → s.progOf r.work.port t.val g.pipeline g.nextPass = some h → Runs (.passBeat t) s fun u =>
        u.tiles[t].run = some (PassRun.start r.work h) ∧ u.tiles[t].vr = s.tiles[t].vr ∧ u.tiles[t].pm = s.tiles[t].pm ∧
        SameMemory s u)

/-! ## The mesh (14) and errors (20) -/

/-- An agent's READ or WRITE takes the buffers and slots of its routes where they are free. Taken at its stop, one of a
range that its partition owns (R83) returns the data or stores it, with its CREDITs and its response along the routes of
R332; one that does not ends in ERROR with BOUNDS and stores nothing (Table 14.10). A member's refetch returns the bucket
(05 R145). One for a sleeping cluster of its partition waits in its buffer, and its thaw is triggered (R345). A packet
enters the receive queue of its tile's stop, or its unit is stored in the stack; past its partition's range it is not, and
the stack is FENCED (R327, 05 R136, R83). INVALIDATE clears the member's valid bit of its bucket and nothing else, and is
acknowledged (05 R144, R145). That a message of an agent other than a tile is granted as it arrives is the model's own (log
107). -/
def Obligations.RequestsReadStoreAndAnswer : Prop :=
  (∀ (s : State) (m : MeshMsg) (p : Port) (d : List Byte) (r : Route),
    s.parts[p].routeOn m.src.val 0 m.dst.val m.vc.val 0 = some r → quotaFree s.parts[p] r true →
    s.stopAsleep m.src.val = none →
    (∃ a, s.readArrives p m = some a ∧ SameMemory s a ∧ a.tiles = s.tiles ∧
      a.parts[p].quota = quotaTaken r true s.parts[p].quota) ∧
    ∀ rd, s.parts[p].dataRoute m = some rd → quotaFree s.parts[p] rd false →
      ∃ a, s.writeArrives p m d = some a ∧ SameMemory s a ∧ a.tiles = s.tiles ∧
        a.parts[p].quota = quotaTaken rd false (quotaTaken r true s.parts[p].quota)) ∧
  (∀ (s a : State) (m : MeshMsg) (p : Port) (rb : Route), msgPort m = some p → a.parts[p].routeAt m.dst.val 1 m.src.val = some rb →
    let n := m.arg.toNat
    let credit := creditFlit p rb m.dst.val 0 m.vc.val
    let failed (st : Status) : Msg := answerFlit p rb m.dst.val 0x85 m.tag st.code
    let say (t : State) (ms : List Msg) : State := { t with msgs := a.msgs ++ ms }
    let refetch (z : Send) : Bool := msgCarries m 0 z && z.bucket?.isSome
    (s.arrive p m.tag refetch = none → s.readArrives p m = some a →
      (takesNow a p m.dst.val →
        (a.meshTarget p m n = none → exec (.read m) s = .next (say a [credit, failed .bounds])) ∧
        (∀ t off, a.meshTarget p m n = some (.slab t off) → a.slabBad t off n = true →
          exec (.read m) s = .next (say a [credit, failed .uncorrectable])) ∧
        (∀ k off, a.meshTarget p m n = some (.hbm k off) → a.hbmBad p k off n = true →
          exec (.read m) s = .next (say a [credit, failed .uncorrectable])) ∧
        ∀ rd, a.parts[p].routeAt m.dst.val 3 m.src.val = some rd →
          let sends (bs : List Byte) : State :=
            { say a [credit, .packet (datPacket rd.route m.dst.val p.val true m.tag bs)] with rdata := .bytes bs }
          (∀ t off, a.meshTarget p m n = some (.slab t off) → a.slabBad t off n = false →
            exec (.read m) s = .next (sends (a.slabGet t off n))) ∧
          ∀ k off, a.meshTarget p m n = some (.hbm k off) → a.hbmBad p k off n = false →
            exec (.read m) s = .next (sends (a.hbmGet p k off n))) ∧
      ∀ t c, tileAtStop m.dst.val = some t → a.stopAsleep m.dst.val = some c → a.ownsCluster p c.val = true →
        exec (.read m) s = .next (waitsAsleep a p t c (.read m none))) ∧
    (∀ z tab b t, s.arrive p m.tag refetch = some (z, a) → z.bucket? = some (tab, b) → tileAtStop m.dst.val = some t →
      (takesNow a p m.dst.val →
        (∀ h, a.granule t (64 * tab) 64 = .error h → exec (.read m) s = .next (say a [credit, failed .uncorrectable])) ∧
        ∀ w, a.granule t (64 * tab) 64 = .ok w →
          (∀ st, a.bucketBytes t (TabEntry.of tab w) b = .error (.fail st) →
            exec (.read m) s = .next (say a [credit, failed st])) ∧
          ∀ bs rd, a.bucketBytes t (TabEntry.of tab w) b = .ok bs → a.parts[p].routeAt m.dst.val 3 m.src.val = some rd →
            exec (.read m) s = .next
              { say a [credit, .packet (datPacket rd.route m.dst.val p.val true m.tag bs)] with rdata := .bytes bs }) ∧
      ∀ c, a.stopAsleep m.dst.val = some c → a.ownsCluster p c.val = true →
        exec (.read m) s = .next (waitsAsleep a p t c (.read m (some (tab, b))))) ∧
    ∀ (d : List Byte) rd, s.writeArrives p m d = some a → a.parts[p].dataRoute m = some rd →
      let freed := creditFlit p rb m.dst.val 3 (routeVc rd.route)
      (takesNow a p m.dst.val →
        (a.meshTarget p m n = none → exec (.write m d) s = .next (say a [freed, credit, failed .bounds])) ∧
        ∀ x, a.meshTarget p m n = some x → d.length = n → exec (.write m d) s = .next
          (say (a.writePlace p x d) [freed, credit, answerFlit p rb m.dst.val 0x82 m.tag 0])) ∧
      ∀ t c, tileAtStop m.dst.val = some t → a.stopAsleep m.dst.val = some c → a.ownsCluster p c.val = true →
        exec (.write m d) s = .next (waitsAsleep a p t c (.write m d))) ∧
  (∀ (s a : State) (m : MeshMsg) (p : Port) (q : Fin 4) (d : List Byte), msgPort m = some p →
    let bs := padTo 1024 (d.take 1024)
    let fits := pushArrives m q.val bs
    (∀ (z : Option Send) t, (z = none ∧ s.arrive p m.tag fits = none ∧ s.packetArrives p m q.val bs = some a) ∨
        (∃ y, z = some y ∧ s.arrive p m.tag fits = some (y, a)) →
      tileAtStop m.dst.val = some t → a.ownsCluster p (t / 8) = true → m.src.val ∈ a.partStops p →
      let landed : State := { a with tiles := a.tiles.set (tix t) { a.tiles[tix t] with
        rxq := a.tiles[tix t].rxq.set q (a.tiles[tix t].rxq[q] ++
          [{ part := m.part, src := m.src.val, vc := m.vc.val, frame := z.bind (·.frame), data := bs }]) } }
      exec (.datPush m q d) s = .next
        (if a.clusterOper (t / 8) = .run then landed else landed.startThaw (Fin.ofNat 16 (t / 8)))) ∧
    ∀ rb, a.parts[p].routeAt m.dst.val 1 m.src.val = some rb → tileAtStop m.dst.val = none →
      let freed := creditFlit p rb m.dst.val 3 m.vc.val
      (s.arrive p m.tag fits = none → s.packetArrives p m q.val bs = some a →
        exec (.datPush m q d) s = .next { a with msgs := a.msgs ++ [freed] }) ∧
      ∀ z st off, s.arrive p m.tag fits = some (z, a) → z.kind = .spill st off →
        (a.inBounds p (.hbm st off) 1024 = true →
          exec (.datPush m q d) s = .next { a.hbmPut p st off bs with msgs := a.msgs ++ [freed] }) ∧
        (a.inBounds p (.hbm st off) 1024 = false → st < 8 → Runs (.datPush m q d) s fun u =>
          SameMemory a u ∧ (u.ledgerWord ⟨.hbm, st⟩).oper = .fenced ∧ u.msgs.getLast? = some freed)) ∧
  ∀ (s a : State) (p : Port) (x y : Stop) (tab : Byte) (b t : Nat) (z : Send), tileAtStop y.val = some t →
    s.ownsCluster p (t / 8) = true →
    s.arrive p 0 (fun z => z.src == x.val && z.dst == y.val && z.kind == .snoop tab.toNat b) = some (z, a) →
    (takesNow a p y.val → ∀ rb, a.parts[p].routeAt y.val 1 x.val = some rb → Runs (.invalidate p x y tab b) s fun u =>
      u.parts[p].replicaValid t tab.toNat b = false ∧
      (∀ t' n' k', (t', n', k') ≠ (t, tab.toNat, b) → u.parts[p].replicaValid t' n' k' = a.parts[p].replicaValid t' n' k') ∧
      u = { a.updPart p fun _ => { a.parts[p] with replicas := u.parts[p].replicas } with
        msgs := a.msgs ++ [creditFlit p rb y.val 2 z.vc, answerFlit p rb y.val 0x83 (Config.unusedTag 0x83) 0] }) ∧
    ∀ c, a.stopAsleep y.val = some c → a.ownsCluster p c.val = true →
      exec (.invalidate p x y tab b) s = .next (waitsAsleep a p t c (.invalidate x.val z.vc tab.toNat b))

/-- RESERVATION_GRANT lets a message take its pair's counters when its NI grants, and changes nothing when it does not; a
beat's message waits for the beat's others, any other leaves; one whose quota is gone leaves and ends its item with BOUNDS
(Table 14.10, Table 14.12, R104). CREDIT gives buffers back; READ_DATA, SNP_ACK, ERROR and WRITE_ACK free a response slot;
READ_DATA of a refetch also stores the bucket and makes it valid, ERROR also ends the item with its status (R337, R338, 05
R145, Table 14.12). -/
def Obligations.GrantsAndResponsesMoveTheCounters : Prop :=
  let less (x : Partition) (z : Send) : List QuotaUse :=
    x.quota.map fun u => if u.of z then { u with slots := u.slots - 1 } else u
  (∀ (s : State) (p : Port) (i : Nat) (z : Send), s.parts[p].waiting[i]? = some z → z.granted = false →
    s.clusterOper (z.tile / 8) = .run →
    let x := s.parts[p]
    ((x.quotaFor z.src z.dst z.network z.vc).isSome = true →
      exec (.reservationGrant p i) s = .next (if x.grantable z then s.updPart p fun _ => { x.takeQuota z with
        waiting := if z.beat then x.waiting.set i { z with granted := true } else x.waiting.eraseIdx i
        flight := if z.beat then x.flight else x.flight ++ [{ z with granted := true }] } else s)) ∧
    (x.quotaFor z.src z.dst z.network z.vc = none → z.src ∉ x.fenced →
      (z.key = none → exec (.reservationGrant p i) s = .next (s.updPart p fun _ => { x with waiting := x.waiting.eraseIdx i })) ∧
      ∀ k, z.key = some k → notRunning s p k z.tile → Runs (.reservationGrant p i) s fun u =>
        u.parts[p] = { x with waiting := x.waiting.eraseIdx i } ∧ SameMemory s u ∧ FailsWith p k .bounds s u)) ∧
  ∀ (s : State) (m : MeshMsg) (p : Port) (d : List Byte), msgPort m = some p →
    let oldest (which : Send → Bool) : Option Send := s.parts[p].flight.find? fun z => msgAnswers m z && which z
    (Runs (.credit m) s fun u => OnlyPart p s u ∧ u.parts[p].quota = s.parts[p].quota.map fun v =>
      if v.src = m.dst.val ∧ v.dst = m.src.val ∧ v.network = m.arg.toNat % 4 ∧ v.vc = m.arg.toNat / 4 % 4
      then { v with taken := v.taken - m.arg.toNat / 16 } else v) ∧
    (∀ z, oldest (fun z => z.kind == .write) = some z →
      Runs (.writeAck m) s fun u => OnlyPart p s u ∧ u.parts[p].quota = less s.parts[p] z) ∧
    (∀ z, oldest (fun z => z.network == 2) = some z →
      Runs (.snpAck m) s fun u => OnlyPart p s u ∧ u.parts[p].quota = less s.parts[p] z) ∧
    (∀ z, oldest (fun _ => true) = some z →
      (z.key = none → Runs (.error m) s fun u => OnlyPart p s u ∧ u.parts[p].quota = less s.parts[p] z) ∧
      ∀ k, z.key = some k → notRunning s p k z.tile → Runs (.error m) s fun u =>
        u.parts[p].quota = less s.parts[p] z ∧ SameMemory s u ∧ FailsWith p k (statusOf m.arg.toNat) s u) ∧
    ∀ z, oldest (fun z => z.bucket?.isSome || z.kind == .read) = some z →
      (z.bucket? = none → Runs (.readData m d) s fun u => OnlyPart p s u ∧ u.parts[p].quota = less s.parts[p] z) ∧
      ∀ n b, z.bucket? = some (n, b) →
        let e := TabEntry.of n (s.slabGet z.tile (64 * n) 64)
        let keys : State := s.slabPut z.tile (e.keyAt b 0) (padTo 64 (d.take 64))
        let at' (i : Nat) : List Byte := padTo 64 ((d.drop i).take 64)
        Runs (.readData m d) s fun u => u.parts[p].quota = less s.parts[p] z ∧
          u.parts[p].replicaValid z.tile n b = true ∧
          u.parts[p].cnt[PCnt.replicaFetch.ix] = s.parts[p].cnt[PCnt.replicaFetch.ix] + 1 ∧
          (e.payload = false → e.ageing = false → SameMemory keys u) ∧
          (e.payload = true → e.ageing = false → SameMemory (keys.slabPut z.tile (e.payAt b 0) (at' 64)) u) ∧
          (e.payload = false → e.ageing = true → SameMemory (keys.slabPut z.tile (granuleOf (e.ageAt b 0)) (at' 64)) u) ∧
          (e.payload = true → e.ageing = true → SameMemory
            ((keys.slabPut z.tile (e.payAt b 0) (at' 64)).slabPut z.tile (granuleOf (e.ageAt b 0)) (at' 128)) u) ∧
          (memoriesOk s = true → StoresOnly p [(.slab z.tile (e.keyAt b 0), 64), (.slab z.tile (e.payAt b 0), 64),
            (.slab z.tile (granuleOf (e.ageAt b 0)), 64)] s u)

/-- A flit that fails its CRC is replayed; its replay that passes counts, with an ERROR_CORRECTED, and the failure of its
eighth replay fences the link: the partitions whose routes cross it lose their messages and reservations and, unless a scrub
runs, are FAILED (R340 to R342). A device route past a fenced link is redrawn, and units that no route reaches are FENCED
(Table 20.8). A detected error changes no memory; it counts, marks, sets its fault bit, and stops what Table 20.2 says. That
corrected errors which follow one another at one granule count once is the model's reading of 20 R455 (log 112). -/
def Obligations.ErrorsFenceFaultAndFail : Prop :=
  (∀ (s : State) (l : Link) (bits : BitVec 1056),
    let n := ((s.replays.find? (·.1 == l)).map (·.2)).getD 0
    let others := s.replays.filter fun r => r.1 != l
    (l ∈ s.linksFenced → exec (.flitCrcError ⟨l, bits⟩) s = .next s) ∧
    (l ∉ s.linksFenced → flitPasses l.net bits = true →
      ((∀ r ∈ s.replays, r.1 ≠ l) → exec (.flitCrcError ⟨l, bits⟩) s = .next s) ∧
      ∀ r ∈ s.replays, r.1 = l → Runs (.flitCrcError ⟨l, bits⟩) s fun u => u.linksFenced = s.linksFenced ∧
        u.parts = s.parts ∧ u.replays = others ∧ u.cntMeshReplay = s.cntMeshReplay + 1 ∧ SameMemory s u ∧
        (u.ledgerWord ⟨.fabric, 0⟩).ceCount = (s.ledgerWord ⟨.fabric, 0⟩).ceCount + 1) ∧
    (l ∉ s.linksFenced → flitPasses l.net bits = false →
      (n < 8 → exec (.flitCrcError ⟨l, bits⟩) s = .next { s with replays := (l, n + 1) :: others }) ∧
      (n = 8 → Runs (.flitCrcError ⟨l, bits⟩) s fun u => u.linksFenced = s.linksFenced ++ [l] ∧ SameMemory s u ∧
        (u.ledgerWord ⟨.fabric, 0⟩).fault = (s.ledgerWord ⟨.fabric, 0⟩).fault ||| 16 ∧ u.replays = others ∧
        (∀ p : Port, (∃ r ∈ s.parts[p].routes, r.crosses l = true) →
          u.parts[p].waiting = [] ∧ u.parts[p].flight = [] ∧ u.parts[p].fenced = s.partStops p ∧
          (∀ v ∈ u.parts[p].quota, v.taken = 0 ∧ v.slots = 0) ∧
          (s.parts[p].op.any (·.kind == .scrub) = false → u.parts[p].pstate = .failed)) ∧
        ∀ p : Port, (∀ r ∈ s.parts[p].routes, r.crosses l = false) → u.parts[p] = s.parts[p]))) ∧
  (∀ s : State, s.devicePasses = false → Runs .deviceRouteRewrite s fun u =>
    u.deviceYX = true ∧ u.parts = s.parts ∧ SameMemory s u ∧
    ∀ d, d < 144 → s.deviceReaches d false = false → s.deviceReaches d true = false →
      ∀ x ∈ unitsAtStop d, (u.ledgerWord x).oper = .fenced) ∧
  (∀ (s : State) (e : ErrorReport), Runs (.errorDetected e) s (SameMemory s)) ∧
  ∀ s : State,
    (∀ (t : Tile) (off : Nat), Runs (.errorDetected (.slab t off true)) s fun u =>
      slabKey t.val off / 64 ∈ u.slabUe ∧ (u.ledgerWord ⟨.tile, t.val⟩).fault.getLsbD 0 = true ∧
      ∀ p : Port, u.parts[p] = { s.parts[p] with gtab := s.parts[p].gtab.map (s.halvesAfterUe p t.val (off / 64 * 64)) }) ∧
    (∀ (t : Tile) (off : Nat), Runs (.errorDetected (.slab t off false)) s fun u =>
      let w := s.ledgerWord ⟨.tile, t.val⟩
      let n := if w.ceLast = some (off / 64) then w.ceCount else w.ceCount + 1
      u.slabUe = s.slabUe ∧ u.parts = s.parts ∧ (u.ledgerWord ⟨.tile, t.val⟩).ceCount = n ∧
      (u.ledgerWord ⟨.tile, t.val⟩).oper = w.oper ∧
      (u.ledgerWord ⟨.tile, t.val⟩).fault = (if n = 1024 ∧ w.selfTest = none then w.fault ||| 2 else w.fault)) ∧
    (∀ x : UnitId, x.valid = true → Runs (.errorDetected (.check x)) s fun u =>
      (u.ledgerWord x).oper = .faulted ∧ (u.ledgerWord x).fault.getLsbD 7 = true) ∧
    (∀ p : Port, s.parts[p].op.any (·.kind == .scrub) = false → Runs (.errorDetected (.partState p)) s fun u =>
      u.parts[p].pstate = .failed ∧ ∀ r : Port, r ≠ p → u.parts[r] = s.parts[r]) ∧
    (∀ (p : Port) (f : Func) (n : Nat), s.hasQp p f n = true → (s.qp p f n).st = .enabled →
      Runs (.errorDetected (.fetch p f n)) s (fun u => (u.qp p f n).st = .error ∧ (u.qp p f n).cause = 10) ∧
      Runs (.errorDetected (.cqWrite p f n)) s fun u => (u.qp p f n).st = .error ∧ (u.qp p f n).cause = 11) ∧
    Runs (.errorDetected .device) s fun u => u.boot.fatal = true ∧ u.commitQ = [] ∧
      ∀ p : Port, u.parts[p].pstate = .failed ∧ u.parts[p].op = none

/-! ## Invariants -/

/-- The machine right after reset is safe, and its queue pairs, items and batch queues are in order; no command waits. -/
def Obligations.ResetIsInOrder : Prop :=
  Safe State.reset ∧ QueuesOk State.reset ∧ ItemsOk State.reset ∧ BatchQueuesOk State.reset ∧ State.reset.pending = []

/-- Every step keeps the memories in canonical form, cap and THROT in their ranges (17 R394, R403), and every ledger generation
other than 0 (18 R425). -/
def Obligations.StepsKeepSafe : Prop := ∀ s t : State, Safe s → step s = .next t → Safe t

/-- Every step keeps heads and tails of queue pairs in their rings (13 R293 to R298), and the items of each port with numbers
of their own (13 R301, R308). -/
def Obligations.StepsKeepQueuesAndItems : Prop :=
  ∀ s t : State, QueuesOk s → ItemsOk s → step s = .next t → QueuesOk t ∧ ItemsOk t

/-- Every step keeps REL ≤ READ ≤ TAIL, a MARK from REL to TAIL, and no more batches than DEPTH in every batch queue (12
R285). -/
def Obligations.StepsKeepBatchQueuesInOrder : Prop := ∀ s t : State, BatchQueuesOk s → step s = .next t → BatchQueuesOk t

/-- Every command completes in every state, and changes nothing of the queue of waiting commands: only a step takes one from
it. -/
def Obligations.CommandsLeaveTheWaitingOnes : Prop := ∀ (c : Instr) (s : State), Runs c s fun t => t.pending = s.pending
end

