-- ==== Sys2Proof/Laws/Memory.lean ====
section
/-! SUPPORT. The laws of the memories: every operation keeps the canonical form; a read after a write gives the value written,
and a write leaves every other address alone. -/

namespace Sys2Proof.Machine

/-! ## The canonical form is kept -/

theorem Mem.all_put (m : Mem) (x : Nat) (v : Byte) (q : Nat × Byte → Bool) (hm : m.all q = true) (hx : q (x, v) = true) :
    (m.put x v).all q = true := by
  induction m with
  | nil => simpa [Mem.put] using hx
  | cons c m ih =>
    obtain ⟨a, b⟩ := c
    simp only [List.all_cons, Bool.and_eq_true] at hm
    unfold Mem.put
    split
    · simp [hx, hm.2]
    · split
      · simp [hx, hm.1, hm.2]
      · simp [hm.1, ih hm.2]

theorem Mem.all_del (m : Mem) (x : Nat) (q : Nat × Byte → Bool) (hm : m.all q = true) : (m.del x).all q = true := by
  induction m with
  | nil => rfl
  | cons c m ih =>
    obtain ⟨a, b⟩ := c
    simp only [List.all_cons, Bool.and_eq_true] at hm
    unfold Mem.del
    split
    · exact hm.2
    · split
      · simp [hm.1, hm.2]
      · simp [hm.1, ih hm.2]

theorem Mem.sorted_cons (c : Nat × Byte) (m : Mem) :
    Mem.sorted (c :: m) = true ↔ m.all (fun d => c.1 < d.1) = true ∧ Mem.sorted m = true := by
  simp [Mem.sorted]

theorem Mem.sorted_put (m : Mem) (x : Nat) (v : Byte) (h : m.sorted = true) : (m.put x v).sorted = true := by
  induction m with
  | nil => rfl
  | cons c m ih =>
    obtain ⟨a, b⟩ := c
    rw [Mem.sorted_cons] at h
    unfold Mem.put
    split
    · rename_i e
      subst e
      exact (Mem.sorted_cons _ _).2 h
    · split
      · rename_i lt
        refine (Mem.sorted_cons _ _).2 ⟨?_, (Mem.sorted_cons _ _).2 h⟩
        simp only [List.all_eq_true, decide_eq_true_eq, List.mem_cons] at h ⊢
        rintro d (rfl | hd)
        · exact lt
        · exact Nat.lt_trans lt (h.1 d hd)
      · rename_i ne lt
        refine (Mem.sorted_cons _ _).2 ⟨Mem.all_put m x v _ h.1 ?_, ih h.2⟩
        simp only [decide_eq_true_eq]
        omega

theorem Mem.sorted_del (m : Mem) (x : Nat) (h : m.sorted = true) : (m.del x).sorted = true := by
  induction m with
  | nil => rfl
  | cons c m ih =>
    obtain ⟨a, b⟩ := c
    have h' := (Mem.sorted_cons _ _).1 h
    unfold Mem.del
    split
    · exact h'.2
    · split
      · exact h
      · exact (Mem.sorted_cons _ _).2 ⟨Mem.all_del m x _ h'.1, ih h'.2⟩

theorem Mem.sorted_filter (m : Mem) (q : Nat × Byte → Bool) (h : m.sorted = true) : Mem.sorted (m.filter q) = true := by
  induction m with
  | nil => rfl
  | cons c m ih =>
    have h' := (Mem.sorted_cons _ _).1 h
    by_cases hc : q c = true
    · rw [List.filter_cons_of_pos hc]
      refine (Mem.sorted_cons _ _).2 ⟨?_, ih h'.2⟩
      simp only [List.all_eq_true, List.mem_filter] at h' ⊢
      exact fun d hd => h'.1 d hd.1
    · rw [List.filter_cons_of_neg hc]
      exact ih h'.2

theorem Mem.sorted_set (m : Mem) (x : Nat) (v : Byte) (h : m.sorted = true) : (m.set x v).sorted = true := by
  unfold Mem.set
  split
  · exact Mem.sorted_del m x h
  · exact Mem.sorted_put m x v h

theorem Mem.sorted_sets (bs : List Byte) : ∀ (m : Mem) (x : Nat), m.sorted = true → (m.sets x bs).sorted = true := by
  induction bs with
  | nil => exact fun m x h => h
  | cons b bs ih => exact fun m x h => ih _ _ (Mem.sorted_set m x b h)

theorem Mem.sorted_puts (bs : List Byte) : ∀ (m : Mem) (x : Nat), m.sorted = true → (m.puts x bs).sorted = true := by
  induction bs with
  | nil => exact fun m x h => h
  | cons b bs ih => exact fun m x h => ih _ _ (Mem.sorted_put m x b h)

theorem Mem.sorted_clear (m : Mem) (lo hi : Nat) (h : m.sorted = true) : (m.clear lo hi).sorted = true :=
  Mem.sorted_filter m _ h

theorem Mem.wf_iff (m : Mem) : m.wf = true ↔ m.sorted = true ∧ m.all (fun c => c.2 != 0) = true := by
  simp [Mem.wf]

/-- A write where an unlisted byte is zero keeps the canonical form. -/
theorem Mem.wf_set (m : Mem) (x : Nat) (v : Byte) (h : m.wf = true) : (m.set x v).wf = true := by
  rw [Mem.wf_iff] at h ⊢
  refine ⟨Mem.sorted_set m x v h.1, ?_⟩
  unfold Mem.set
  split
  · exact Mem.all_del m x _ h.2
  · rename_i ne
    exact Mem.all_put m x v _ h.2 (by simpa using ne)

theorem Mem.wf_sets (bs : List Byte) : ∀ (m : Mem) (x : Nat), m.wf = true → (m.sets x bs).wf = true := by
  induction bs with
  | nil => exact fun m x h => h
  | cons b bs ih => exact fun m x h => ih _ _ (Mem.wf_set m x b h)

theorem Mem.wf_clear (m : Mem) (lo hi : Nat) (h : m.wf = true) : (m.clear lo hi).wf = true := by
  rw [Mem.wf_iff] at h ⊢
  refine ⟨Mem.sorted_clear m lo hi h.1, ?_⟩
  simp only [Mem.clear, List.all_eq_true, List.mem_filter] at h ⊢
  exact fun d hd => h.2 d hd.1

@[simp] theorem Mem.wf_nil : Mem.wf [] = true := rfl
@[simp] theorem Mem.sorted_nil : Mem.sorted [] = true := rfl

/-! ## Reads after writes -/

/-- Below every address listed, nothing is found. -/
theorem Mem.find?_below (m : Mem) (x : Nat) (h : m.all (fun d => x < d.1) = true) : m.find? x = none := by
  cases m with
  | nil => rfl
  | cons c m =>
    obtain ⟨a, b⟩ := c
    simp only [List.all_cons, Bool.and_eq_true, decide_eq_true_eq] at h
    unfold Mem.find?
    rw [if_neg (by omega), if_pos h.1]

theorem Mem.find?_put (m : Mem) (x y : Nat) (v : Byte) : (m.put x v).find? y = if x = y then some v else m.find? y := by
  induction m with
  | nil => simp [Mem.put, Mem.find?]
  | cons c m ih =>
    obtain ⟨a, b⟩ := c
    unfold Mem.put
    split
    · simp only [Mem.find?]
      subst_vars
      split <;> rfl
    · split
      · by_cases e : x = y
        · simp [Mem.find?, e]
        · by_cases l : y < x
          · have : ¬a = y := by omega
            have : y < a := by omega
            simp [Mem.find?, *]
          · simp [Mem.find?, *]
      · by_cases e : x = y
        · subst e
          have n1 : ¬a = x := by omega
          have n2 : ¬x < a := by omega
          simp only [if_true] at ih
          simp [Mem.find?, n1, n2, ih]
        · simp [Mem.find?, ih, e]

theorem Mem.find?_del (m : Mem) (x y : Nat) (h : m.sorted = true) : (m.del x).find? y = if x = y then none else m.find? y := by
  induction m with
  | nil => simp [Mem.del, Mem.find?]
  | cons c m ih =>
    obtain ⟨a, b⟩ := c
    have h' := (Mem.sorted_cons _ _).1 h
    unfold Mem.del
    split
    · rename_i e
      subst e
      by_cases e : a = y
      · subst e
        simp [Mem.find?_below m a h'.1]
      · by_cases l : y < a
        · have : m.all (fun d => y < d.1) = true := by
            simp only [List.all_eq_true, decide_eq_true_eq] at h' ⊢
            exact fun d hd => Nat.lt_trans l (h'.1 d hd)
          simp [Mem.find?, e, l, Mem.find?_below m y this]
        · simp [Mem.find?, e, l]
    · split
      · by_cases e : x = y
        · have : ¬a = y := by omega
          have : y < a := by omega
          simp [Mem.find?, *]
        · simp [e]
      · by_cases e : x = y
        · subst e
          have n1 : ¬a = x := by omega
          have n2 : ¬x < a := by omega
          have := ih h'.2
          simp only [if_true] at this
          simp [Mem.find?, n1, n2, this]
        · simp [Mem.find?, ih h'.2, e]

/-- A read after a write of one byte. -/
theorem Mem.get_set (m : Mem) (x y : Nat) (v : Byte) (h : m.sorted = true) : (m.set x v).get y = if x = y then v else m.get y := by
  unfold Mem.set Mem.get
  by_cases z : v = 0
  · rw [if_pos z, Mem.find?_del m x y h]
    split
    · exact z.symm
    · rfl
  · rw [if_neg z, Mem.find?_put m x y v]
    split <;> rfl

/-- A read after a write of several bytes. -/
theorem Mem.get_sets (bs : List Byte) : ∀ (m : Mem) (x y : Nat), m.sorted = true →
    (m.sets x bs).get y = if x ≤ y then (bs[y - x]?).getD (m.get y) else m.get y := by
  induction bs with
  | nil => intro m x y _; simp [Mem.sets]
  | cons b bs ih =>
    intro m x y h
    rw [Mem.sets, ih _ _ _ (Mem.sorted_set m x b h), Mem.get_set m x y b h]
    by_cases e : x = y
    · subst e
      have : ¬x + 1 ≤ x := by omega
      simp [this]
    · by_cases l : x ≤ y
      · have : x + 1 ≤ y := by omega
        have k : y - x = (y - (x + 1)) + 1 := by omega
        simp [e, l, this, k]
      · have : ¬x + 1 ≤ y := by omega
        simp [e, l, this]

/-- What was listed after bytes were listed, zeros too. -/
theorem Mem.find?_puts (bs : List Byte) : ∀ (m : Mem) (x y : Nat),
    (m.puts x bs).find? y = if x ≤ y then (bs[y - x]?).or (m.find? y) else m.find? y := by
  induction bs with
  | nil => intro m x y; simp [Mem.puts]
  | cons b bs ih =>
    intro m x y
    rw [Mem.puts, ih, Mem.find?_put]
    by_cases e : x = y
    · subst e
      have : ¬x + 1 ≤ x := by omega
      simp [this]
    · by_cases l : x ≤ y
      · have : x + 1 ≤ y := by omega
        have k : y - x = (y - (x + 1)) + 1 := by omega
        simp [e, l, this, k]
      · have : ¬x + 1 ≤ y := by omega
        simp [e, l, this]

/-- Reads after a range is unlisted. -/
theorem Mem.find?_clear (m : Mem) (lo hi y : Nat) (h : m.sorted = true) :
    (m.clear lo hi).find? y = if lo ≤ y ∧ y < hi then none else m.find? y := by
  induction m with
  | nil => simp [Mem.clear, Mem.find?]
  | cons c m ih =>
    obtain ⟨a, b⟩ := c
    have h' := (Mem.sorted_cons _ _).1 h
    have ih := ih h'.2
    by_cases q : lo ≤ a ∧ a < hi
    · have e : Mem.clear ((a, b) :: m) lo hi = Mem.clear m lo hi := by simp [Mem.clear, q.1, q.2]
      rw [e, ih]
      by_cases r : lo ≤ y ∧ y < hi
      · simp [r]
      · have ne : ¬a = y := fun e => r (e ▸ q)
        by_cases l : y < a
        · have : m.all (fun d => y < d.1) = true := by
            simp only [List.all_eq_true, decide_eq_true_eq] at h' ⊢
            exact fun d hd => Nat.lt_trans l (h'.1 d hd)
          simp [Mem.find?, r, ne, l, Mem.find?_below m y this]
        · simp [Mem.find?, r, ne, l]
    · have e : Mem.clear ((a, b) :: m) lo hi = (a, b) :: Mem.clear m lo hi := by
        simp only [Mem.clear, List.filter_cons]
        rw [if_pos]
        simp only [Bool.not_eq_true', Bool.and_eq_false_iff, decide_eq_false_iff_not]
        omega
      rw [e]
      by_cases r : lo ≤ y ∧ y < hi
      · have ne : ¬a = y := fun e => q (e ▸ r)
        simp [Mem.find?, ih, r, ne]
      · simp only [Mem.find?, ih, if_neg r]

/-- Every other address reads as before. -/
theorem Mem.get_sets_other (bs : List Byte) (m : Mem) (x y : Nat) (h : m.sorted = true) (o : y < x ∨ x + bs.length ≤ y) :
    (m.sets x bs).get y = m.get y := by
  rw [Mem.get_sets bs m x y h]
  split
  · rename_i l
    have : bs[y - x]? = none := List.getElem?_eq_none (by omega)
    rw [this]
    rfl
  · rfl

/-- The bytes written read back. -/
theorem Mem.gets_sets (bs : List Byte) (m : Mem) (x : Nat) (h : m.sorted = true) : (m.sets x bs).gets x bs.length = bs := by
  apply List.ext_getElem
  · simp [Mem.gets]
  · intro n h1 h2
    simp only [Mem.gets, List.getElem_map, List.getElem_range, Mem.get_sets bs m x _ h]
    simp [h2]

@[simp] theorem Mem.gets_length (m : Mem) (x n : Nat) : (m.gets x n).length = n := by simp [Mem.gets]

end Sys2Proof.Machine
end

