-- ==== Sys2Proof/Laws/State.lean ====
section
/-! SUPPORT. What each update of the state leaves in each field, true by rfl, so that no proof unfolds a record update; and the
derived updates as the basic ones. -/

namespace Sys2Proof.Machine

/-! ## Derived updates -/

@[simp] theorem State.updFn_eq (s : State) (p : Port) (f : Func) (g : FnState → FnState) :
    s.updFn p f g = s.updPort p (·.updFn f g) := rfl
@[simp] theorem State.updQp_eq (s : State) (p : Port) (f : Func) (n : Nat) (g : QueuePair → QueuePair) :
    s.updQp p f n g = s.updPort p (·.updFn f (·.updQp (qix n) g)) := rfl
@[simp] theorem State.updItem_eq (s : State) (p : Port) (k : Nat) (g : Item → Item) :
    s.updItem p k g = s.updPort p (·.updItem k g) := rfl
@[simp] theorem State.updBq_eq (s : State) (p : Port) (m : Fin 64) (g : BatchQueue → BatchQueue) :
    s.updBq p m g = s.updPart p (·.updBq m g) := rfl
@[simp] theorem State.countP_eq (s : State) (p : Port) (c : PCnt) (n : Nat) :
    s.countP p c n = s.updPart p fun x => { x with cnt := x.cnt.set c.ix (x.cnt[c.ix] + BitVec.ofNat 64 n) } := rfl
@[simp] theorem State.countF_eq (s : State) (p : Port) (f : Func) (c : FCnt) :
    s.countF p f c = s.updPort p (·.updFn f fun x => { x with cnt := x.cnt.set c.ix (x.cnt[c.ix] + 1) }) := rfl

/-! ## Reading what was written -/

@[simp] theorem State.updPort_self (s : State) (x : Port) (g : PortState → PortState) :
    (s.updPort x g).ports[x] = g s.ports[x] := by simp [State.updPort]
theorem State.updPort_other (s : State) {x y : Port} (g : PortState → PortState) (h : y ≠ x) :
    (s.updPort x g).ports[y] = s.ports[y] := by
  have : x.val ≠ y.val := fun e => h (Fin.ext e.symm)
  simp [State.updPort, this]
@[simp] theorem State.updPart_self (s : State) (x : Port) (g : Partition → Partition) :
    (s.updPart x g).parts[x] = g s.parts[x] := by simp [State.updPart]
theorem State.updPart_other (s : State) {x y : Port} (g : Partition → Partition) (h : y ≠ x) :
    (s.updPart x g).parts[y] = s.parts[y] := by
  have : x.val ≠ y.val := fun e => h (Fin.ext e.symm)
  simp [State.updPart, this]
@[simp] theorem State.updTile_self (s : State) (x : Tile) (g : TileState → TileState) :
    (s.updTile x g).tiles[x] = g s.tiles[x] := by simp [State.updTile]
theorem State.updTile_other (s : State) {x y : Tile} (g : TileState → TileState) (h : y ≠ x) :
    (s.updTile x g).tiles[y] = s.tiles[y] := by
  have : x.val ≠ y.val := fun e => h (Fin.ext e.symm)
  simp [State.updTile, this]
@[simp] theorem State.updCluster_self (s : State) (x : Cluster) (g : ClusterState → ClusterState) :
    (s.updCluster x g).clusters[x] = g s.clusters[x] := by simp [State.updCluster]
theorem State.updCluster_other (s : State) {x y : Cluster} (g : ClusterState → ClusterState) (h : y ≠ x) :
    (s.updCluster x g).clusters[y] = s.clusters[y] := by
  have : x.val ≠ y.val := fun e => h (Fin.ext e.symm)
  simp [State.updCluster, this]
@[simp] theorem PortState.updFn_self (q : PortState) (f : Func) (g : FnState → FnState) : (q.updFn f g).fns[f] = g q.fns[f] := by
  simp [PortState.updFn]
theorem PortState.updFn_other (q : PortState) {f x : Func} (g : FnState → FnState) (h : x ≠ f) :
    (q.updFn f g).fns[x] = q.fns[x] := by
  have : f.val ≠ x.val := fun e => h (Fin.ext e.symm)
  simp [PortState.updFn, this]
@[simp] theorem FnState.updQp_self (x : FnState) (n : Fin 64) (g : QueuePair → QueuePair) : (x.updQp n g).qps[n] = g x.qps[n] := by
  simp [FnState.updQp]
theorem FnState.updQp_other (x : FnState) {n m : Fin 64} (g : QueuePair → QueuePair) (h : m ≠ n) :
    (x.updQp n g).qps[m] = x.qps[m] := by
  have : n.val ≠ m.val := fun e => h (Fin.ext e.symm)
  simp [FnState.updQp, this]
@[simp] theorem Partition.updBq_self (x : Partition) (m : Fin 64) (g : BatchQueue → BatchQueue) :
    (x.updBq m g).bq[m] = g x.bq[m] := by simp [Partition.updBq]
theorem Partition.updBq_other (x : Partition) {n m : Fin 64} (g : BatchQueue → BatchQueue) (h : m ≠ n) :
    (x.updBq n g).bq[m] = x.bq[m] := by
  have : n.val ≠ m.val := fun e => h (Fin.ext e.symm)
  simp [Partition.updBq, this]
@[simp] theorem PortState.updItem_items (q : PortState) (k : Nat) (g : Item → Item) :
    (q.updItem k g).items = q.items.map fun i => if i.key == k then g i else i := rfl
@[simp] theorem PortState.updItem_fns (q : PortState) (k : Nat) (g : Item → Item) : (q.updItem k g).fns = q.fns := rfl
@[simp] theorem PortState.updItem_staged (q : PortState) (k : Nat) (g : Item → Item) : (q.updItem k g).staged = q.staged := rfl
@[simp] theorem PortState.updItem_fetchNo (q : PortState) (k : Nat) (g : Item → Item) : (q.updItem k g).fetchNo = q.fetchNo := rfl
@[simp] theorem PortState.updFn_items (q : PortState) (f : Func) (g : FnState → FnState) : (q.updFn f g).items = q.items := rfl
@[simp] theorem PortState.updFn_staged (q : PortState) (f : Func) (g : FnState → FnState) : (q.updFn f g).staged = q.staged := rfl
@[simp] theorem PortState.updFn_fetchNo (q : PortState) (f : Func) (g : FnState → FnState) : (q.updFn f g).fetchNo = q.fetchNo := rfl

/-! ## The fields -/

@[simp] theorem State.updPort_orderCode (s : State) (p : Port) (g : PortState → PortState) :
    (s.updPort p g).orderCode = s.orderCode := rfl
@[simp] theorem State.updPort_porN (s : State) (p : Port) (g : PortState → PortState) : (s.updPort p g).porN = s.porN := rfl
@[simp] theorem State.updPort_floorSel (s : State) (p : Port) (g : PortState → PortState) :
    (s.updPort p g).floorSel = s.floorSel := rfl
@[simp] theorem State.updPort_bootSrc (s : State) (p : Port) (g : PortState → PortState) :
    (s.updPort p g).bootSrc = s.bootSrc := rfl
@[simp] theorem State.updPort_pwrbrkN (s : State) (p : Port) (g : PortState → PortState) :
    (s.updPort p g).pwrbrkN = s.pwrbrkN := rfl
@[simp] theorem State.updPort_vrhotN (s : State) (p : Port) (g : PortState → PortState) :
    (s.updPort p g).vrhotN = s.vrhotN := rfl
@[simp] theorem State.updPort_ppsIn (s : State) (p : Port) (g : PortState → PortState) :
    (s.updPort p g).ppsIn = s.ppsIn := rfl
@[simp] theorem State.updPort_thermtripN (s : State) (p : Port) (g : PortState → PortState) :
    (s.updPort p g).thermtripN = s.thermtripN := rfl
@[simp] theorem State.updPort_boot (s : State) (p : Port) (g : PortState → PortState) : (s.updPort p g).boot = s.boot := rfl
@[simp] theorem State.updPort_flash (s : State) (p : Port) (g : PortState → PortState) :
    (s.updPort p g).flash = s.flash := rfl
@[simp] theorem State.updPort_ledger (s : State) (p : Port) (g : PortState → PortState) :
    (s.updPort p g).ledger = s.ledger := rfl
@[simp] theorem State.updPort_ledgerChanges (s : State) (p : Port) (g : PortState → PortState) :
    (s.updPort p g).ledgerChanges = s.ledgerChanges := rfl
@[simp] theorem State.updPort_moraine (s : State) (p : Port) (g : PortState → PortState) :
    (s.updPort p g).moraine = s.moraine := rfl
@[simp] theorem State.updPort_moraineSeq (s : State) (p : Port) (g : PortState → PortState) :
    (s.updPort p g).moraineSeq = s.moraineSeq := rfl
@[simp] theorem State.updPort_starts (s : State) (p : Port) (g : PortState → PortState) :
    (s.updPort p g).starts = s.starts := rfl
@[simp] theorem State.updPort_time (s : State) (p : Port) (g : PortState → PortState) : (s.updPort p g).time = s.time := rfl
@[simp] theorem State.updPort_cntMeshReplay (s : State) (p : Port) (g : PortState → PortState) :
    (s.updPort p g).cntMeshReplay = s.cntMeshReplay := rfl
@[simp] theorem State.updPort_cntPpsIgnored (s : State) (p : Port) (g : PortState → PortState) :
    (s.updPort p g).cntPpsIgnored = s.cntPpsIgnored := rfl
@[simp] theorem State.updPort_power (s : State) (p : Port) (g : PortState → PortState) :
    (s.updPort p g).power = s.power := rfl
@[simp] theorem State.updPort_floorVersion (s : State) (p : Port) (g : PortState → PortState) :
    (s.updPort p g).floorVersion = s.floorVersion := rfl
@[simp] theorem State.updPort_floorDigest (s : State) (p : Port) (g : PortState → PortState) :
    (s.updPort p g).floorDigest = s.floorDigest := rfl
@[simp] theorem State.updPort_floorChange (s : State) (p : Port) (g : PortState → PortState) :
    (s.updPort p g).floorChange = s.floorChange := rfl
@[simp] theorem State.updPort_ports (s : State) (p : Port) (g : PortState → PortState) :
    (s.updPort p g).ports = s.ports.set p (g s.ports[p]) := rfl
@[simp] theorem State.updPort_parts (s : State) (p : Port) (g : PortState → PortState) :
    (s.updPort p g).parts = s.parts := rfl
@[simp] theorem State.updPort_tiles (s : State) (p : Port) (g : PortState → PortState) :
    (s.updPort p g).tiles = s.tiles := rfl
@[simp] theorem State.updPort_clusters (s : State) (p : Port) (g : PortState → PortState) :
    (s.updPort p g).clusters = s.clusters := rfl
@[simp] theorem State.updPort_unitSleep (s : State) (p : Port) (g : PortState → PortState) :
    (s.updPort p g).unitSleep = s.unitSleep := rfl
@[simp] theorem State.updPort_served (s : State) (p : Port) (g : PortState → PortState) :
    (s.updPort p g).served = s.served := rfl
@[simp] theorem State.updPort_slab (s : State) (p : Port) (g : PortState → PortState) : (s.updPort p g).slab = s.slab := rfl
@[simp] theorem State.updPort_slabUe (s : State) (p : Port) (g : PortState → PortState) :
    (s.updPort p g).slabUe = s.slabUe := rfl
@[simp] theorem State.updPort_hbm (s : State) (p : Port) (g : PortState → PortState) : (s.updPort p g).hbm = s.hbm := rfl
@[simp] theorem State.updPort_hbmUe (s : State) (p : Port) (g : PortState → PortState) :
    (s.updPort p g).hbmUe = s.hbmUe := rfl
@[simp] theorem State.updPort_host (s : State) (p : Port) (g : PortState → PortState) : (s.updPort p g).host = s.host := rfl
@[simp] theorem State.updPort_commitQ (s : State) (p : Port) (g : PortState → PortState) :
    (s.updPort p g).commitQ = s.commitQ := rfl
@[simp] theorem State.updPort_arrivals (s : State) (p : Port) (g : PortState → PortState) :
    (s.updPort p g).arrivals = s.arrivals := rfl
@[simp] theorem State.updPort_verified (s : State) (p : Port) (g : PortState → PortState) :
    (s.updPort p g).verified = s.verified := rfl
@[simp] theorem State.updPort_linksFenced (s : State) (p : Port) (g : PortState → PortState) :
    (s.updPort p g).linksFenced = s.linksFenced := rfl
@[simp] theorem State.updPort_replays (s : State) (p : Port) (g : PortState → PortState) :
    (s.updPort p g).replays = s.replays := rfl
@[simp] theorem State.updPort_deviceYX (s : State) (p : Port) (g : PortState → PortState) :
    (s.updPort p g).deviceYX = s.deviceYX := rfl
@[simp] theorem State.updPort_mgmtQueue (s : State) (p : Port) (g : PortState → PortState) :
    (s.updPort p g).mgmtQueue = s.mgmtQueue := rfl
@[simp] theorem State.updPort_eid (s : State) (p : Port) (g : PortState → PortState) : (s.updPort p g).eid = s.eid := rfl
@[simp] theorem State.updPort_tid (s : State) (p : Port) (g : PortState → PortState) : (s.updPort p g).tid = s.tid := rfl
@[simp] theorem State.updPort_fu (s : State) (p : Port) (g : PortState → PortState) : (s.updPort p g).fu = s.fu := rfl
@[simp] theorem State.updPort_mgmtSession (s : State) (p : Port) (g : PortState → PortState) :
    (s.updPort p g).mgmtSession = s.mgmtSession := rfl
@[simp] theorem State.updPort_mgmtSessionNo (s : State) (p : Port) (g : PortState → PortState) :
    (s.updPort p g).mgmtSessionNo = s.mgmtSessionNo := rfl
@[simp] theorem State.updPort_tap (s : State) (p : Port) (g : PortState → PortState) : (s.updPort p g).tap = s.tap := rfl
@[simp] theorem State.updPort_rdata (s : State) (p : Port) (g : PortState → PortState) :
    (s.updPort p g).rdata = s.rdata := rfl
@[simp] theorem State.updPort_msgs (s : State) (p : Port) (g : PortState → PortState) : (s.updPort p g).msgs = s.msgs := rfl
@[simp] theorem State.updPort_pending (s : State) (p : Port) (g : PortState → PortState) :
    (s.updPort p g).pending = s.pending := rfl
@[simp] theorem State.updPort_free (s : State) (p : Port) (g : PortState → PortState) : (s.updPort p g).free = s.free := rfl

@[simp] theorem State.updPart_orderCode (s : State) (p : Port) (g : Partition → Partition) :
    (s.updPart p g).orderCode = s.orderCode := rfl
@[simp] theorem State.updPart_porN (s : State) (p : Port) (g : Partition → Partition) : (s.updPart p g).porN = s.porN := rfl
@[simp] theorem State.updPart_floorSel (s : State) (p : Port) (g : Partition → Partition) :
    (s.updPart p g).floorSel = s.floorSel := rfl
@[simp] theorem State.updPart_bootSrc (s : State) (p : Port) (g : Partition → Partition) :
    (s.updPart p g).bootSrc = s.bootSrc := rfl
@[simp] theorem State.updPart_pwrbrkN (s : State) (p : Port) (g : Partition → Partition) :
    (s.updPart p g).pwrbrkN = s.pwrbrkN := rfl
@[simp] theorem State.updPart_vrhotN (s : State) (p : Port) (g : Partition → Partition) :
    (s.updPart p g).vrhotN = s.vrhotN := rfl
@[simp] theorem State.updPart_ppsIn (s : State) (p : Port) (g : Partition → Partition) :
    (s.updPart p g).ppsIn = s.ppsIn := rfl
@[simp] theorem State.updPart_thermtripN (s : State) (p : Port) (g : Partition → Partition) :
    (s.updPart p g).thermtripN = s.thermtripN := rfl
@[simp] theorem State.updPart_boot (s : State) (p : Port) (g : Partition → Partition) : (s.updPart p g).boot = s.boot := rfl
@[simp] theorem State.updPart_flash (s : State) (p : Port) (g : Partition → Partition) :
    (s.updPart p g).flash = s.flash := rfl
@[simp] theorem State.updPart_ledger (s : State) (p : Port) (g : Partition → Partition) :
    (s.updPart p g).ledger = s.ledger := rfl
@[simp] theorem State.updPart_ledgerChanges (s : State) (p : Port) (g : Partition → Partition) :
    (s.updPart p g).ledgerChanges = s.ledgerChanges := rfl
@[simp] theorem State.updPart_moraine (s : State) (p : Port) (g : Partition → Partition) :
    (s.updPart p g).moraine = s.moraine := rfl
@[simp] theorem State.updPart_moraineSeq (s : State) (p : Port) (g : Partition → Partition) :
    (s.updPart p g).moraineSeq = s.moraineSeq := rfl
@[simp] theorem State.updPart_starts (s : State) (p : Port) (g : Partition → Partition) :
    (s.updPart p g).starts = s.starts := rfl
@[simp] theorem State.updPart_time (s : State) (p : Port) (g : Partition → Partition) : (s.updPart p g).time = s.time := rfl
@[simp] theorem State.updPart_cntMeshReplay (s : State) (p : Port) (g : Partition → Partition) :
    (s.updPart p g).cntMeshReplay = s.cntMeshReplay := rfl
@[simp] theorem State.updPart_cntPpsIgnored (s : State) (p : Port) (g : Partition → Partition) :
    (s.updPart p g).cntPpsIgnored = s.cntPpsIgnored := rfl
@[simp] theorem State.updPart_power (s : State) (p : Port) (g : Partition → Partition) :
    (s.updPart p g).power = s.power := rfl
@[simp] theorem State.updPart_floorVersion (s : State) (p : Port) (g : Partition → Partition) :
    (s.updPart p g).floorVersion = s.floorVersion := rfl
@[simp] theorem State.updPart_floorDigest (s : State) (p : Port) (g : Partition → Partition) :
    (s.updPart p g).floorDigest = s.floorDigest := rfl
@[simp] theorem State.updPart_floorChange (s : State) (p : Port) (g : Partition → Partition) :
    (s.updPart p g).floorChange = s.floorChange := rfl
@[simp] theorem State.updPart_ports (s : State) (p : Port) (g : Partition → Partition) :
    (s.updPart p g).ports = s.ports := rfl
@[simp] theorem State.updPart_parts (s : State) (p : Port) (g : Partition → Partition) :
    (s.updPart p g).parts = s.parts.set p (g s.parts[p]) := rfl
@[simp] theorem State.updPart_tiles (s : State) (p : Port) (g : Partition → Partition) :
    (s.updPart p g).tiles = s.tiles := rfl
@[simp] theorem State.updPart_clusters (s : State) (p : Port) (g : Partition → Partition) :
    (s.updPart p g).clusters = s.clusters := rfl
@[simp] theorem State.updPart_unitSleep (s : State) (p : Port) (g : Partition → Partition) :
    (s.updPart p g).unitSleep = s.unitSleep := rfl
@[simp] theorem State.updPart_served (s : State) (p : Port) (g : Partition → Partition) :
    (s.updPart p g).served = s.served := rfl
@[simp] theorem State.updPart_slab (s : State) (p : Port) (g : Partition → Partition) : (s.updPart p g).slab = s.slab := rfl
@[simp] theorem State.updPart_slabUe (s : State) (p : Port) (g : Partition → Partition) :
    (s.updPart p g).slabUe = s.slabUe := rfl
@[simp] theorem State.updPart_hbm (s : State) (p : Port) (g : Partition → Partition) : (s.updPart p g).hbm = s.hbm := rfl
@[simp] theorem State.updPart_hbmUe (s : State) (p : Port) (g : Partition → Partition) :
    (s.updPart p g).hbmUe = s.hbmUe := rfl
@[simp] theorem State.updPart_host (s : State) (p : Port) (g : Partition → Partition) : (s.updPart p g).host = s.host := rfl
@[simp] theorem State.updPart_commitQ (s : State) (p : Port) (g : Partition → Partition) :
    (s.updPart p g).commitQ = s.commitQ := rfl
@[simp] theorem State.updPart_arrivals (s : State) (p : Port) (g : Partition → Partition) :
    (s.updPart p g).arrivals = s.arrivals := rfl
@[simp] theorem State.updPart_verified (s : State) (p : Port) (g : Partition → Partition) :
    (s.updPart p g).verified = s.verified := rfl
@[simp] theorem State.updPart_linksFenced (s : State) (p : Port) (g : Partition → Partition) :
    (s.updPart p g).linksFenced = s.linksFenced := rfl
@[simp] theorem State.updPart_replays (s : State) (p : Port) (g : Partition → Partition) :
    (s.updPart p g).replays = s.replays := rfl
@[simp] theorem State.updPart_deviceYX (s : State) (p : Port) (g : Partition → Partition) :
    (s.updPart p g).deviceYX = s.deviceYX := rfl
@[simp] theorem State.updPart_mgmtQueue (s : State) (p : Port) (g : Partition → Partition) :
    (s.updPart p g).mgmtQueue = s.mgmtQueue := rfl
@[simp] theorem State.updPart_eid (s : State) (p : Port) (g : Partition → Partition) : (s.updPart p g).eid = s.eid := rfl
@[simp] theorem State.updPart_tid (s : State) (p : Port) (g : Partition → Partition) : (s.updPart p g).tid = s.tid := rfl
@[simp] theorem State.updPart_fu (s : State) (p : Port) (g : Partition → Partition) : (s.updPart p g).fu = s.fu := rfl
@[simp] theorem State.updPart_mgmtSession (s : State) (p : Port) (g : Partition → Partition) :
    (s.updPart p g).mgmtSession = s.mgmtSession := rfl
@[simp] theorem State.updPart_mgmtSessionNo (s : State) (p : Port) (g : Partition → Partition) :
    (s.updPart p g).mgmtSessionNo = s.mgmtSessionNo := rfl
@[simp] theorem State.updPart_tap (s : State) (p : Port) (g : Partition → Partition) : (s.updPart p g).tap = s.tap := rfl
@[simp] theorem State.updPart_rdata (s : State) (p : Port) (g : Partition → Partition) :
    (s.updPart p g).rdata = s.rdata := rfl
@[simp] theorem State.updPart_msgs (s : State) (p : Port) (g : Partition → Partition) : (s.updPart p g).msgs = s.msgs := rfl
@[simp] theorem State.updPart_pending (s : State) (p : Port) (g : Partition → Partition) :
    (s.updPart p g).pending = s.pending := rfl
@[simp] theorem State.updPart_free (s : State) (p : Port) (g : Partition → Partition) : (s.updPart p g).free = s.free := rfl

@[simp] theorem State.updTile_orderCode (s : State) (t : Tile) (g : TileState → TileState) :
    (s.updTile t g).orderCode = s.orderCode := rfl
@[simp] theorem State.updTile_porN (s : State) (t : Tile) (g : TileState → TileState) : (s.updTile t g).porN = s.porN := rfl
@[simp] theorem State.updTile_floorSel (s : State) (t : Tile) (g : TileState → TileState) :
    (s.updTile t g).floorSel = s.floorSel := rfl
@[simp] theorem State.updTile_bootSrc (s : State) (t : Tile) (g : TileState → TileState) :
    (s.updTile t g).bootSrc = s.bootSrc := rfl
@[simp] theorem State.updTile_pwrbrkN (s : State) (t : Tile) (g : TileState → TileState) :
    (s.updTile t g).pwrbrkN = s.pwrbrkN := rfl
@[simp] theorem State.updTile_vrhotN (s : State) (t : Tile) (g : TileState → TileState) :
    (s.updTile t g).vrhotN = s.vrhotN := rfl
@[simp] theorem State.updTile_ppsIn (s : State) (t : Tile) (g : TileState → TileState) :
    (s.updTile t g).ppsIn = s.ppsIn := rfl
@[simp] theorem State.updTile_thermtripN (s : State) (t : Tile) (g : TileState → TileState) :
    (s.updTile t g).thermtripN = s.thermtripN := rfl
@[simp] theorem State.updTile_boot (s : State) (t : Tile) (g : TileState → TileState) : (s.updTile t g).boot = s.boot := rfl
@[simp] theorem State.updTile_flash (s : State) (t : Tile) (g : TileState → TileState) :
    (s.updTile t g).flash = s.flash := rfl
@[simp] theorem State.updTile_ledger (s : State) (t : Tile) (g : TileState → TileState) :
    (s.updTile t g).ledger = s.ledger := rfl
@[simp] theorem State.updTile_ledgerChanges (s : State) (t : Tile) (g : TileState → TileState) :
    (s.updTile t g).ledgerChanges = s.ledgerChanges := rfl
@[simp] theorem State.updTile_moraine (s : State) (t : Tile) (g : TileState → TileState) :
    (s.updTile t g).moraine = s.moraine := rfl
@[simp] theorem State.updTile_moraineSeq (s : State) (t : Tile) (g : TileState → TileState) :
    (s.updTile t g).moraineSeq = s.moraineSeq := rfl
@[simp] theorem State.updTile_starts (s : State) (t : Tile) (g : TileState → TileState) :
    (s.updTile t g).starts = s.starts := rfl
@[simp] theorem State.updTile_time (s : State) (t : Tile) (g : TileState → TileState) : (s.updTile t g).time = s.time := rfl
@[simp] theorem State.updTile_cntMeshReplay (s : State) (t : Tile) (g : TileState → TileState) :
    (s.updTile t g).cntMeshReplay = s.cntMeshReplay := rfl
@[simp] theorem State.updTile_cntPpsIgnored (s : State) (t : Tile) (g : TileState → TileState) :
    (s.updTile t g).cntPpsIgnored = s.cntPpsIgnored := rfl
@[simp] theorem State.updTile_power (s : State) (t : Tile) (g : TileState → TileState) :
    (s.updTile t g).power = s.power := rfl
@[simp] theorem State.updTile_floorVersion (s : State) (t : Tile) (g : TileState → TileState) :
    (s.updTile t g).floorVersion = s.floorVersion := rfl
@[simp] theorem State.updTile_floorDigest (s : State) (t : Tile) (g : TileState → TileState) :
    (s.updTile t g).floorDigest = s.floorDigest := rfl
@[simp] theorem State.updTile_floorChange (s : State) (t : Tile) (g : TileState → TileState) :
    (s.updTile t g).floorChange = s.floorChange := rfl
@[simp] theorem State.updTile_ports (s : State) (t : Tile) (g : TileState → TileState) :
    (s.updTile t g).ports = s.ports := rfl
@[simp] theorem State.updTile_parts (s : State) (t : Tile) (g : TileState → TileState) :
    (s.updTile t g).parts = s.parts := rfl
@[simp] theorem State.updTile_tiles (s : State) (t : Tile) (g : TileState → TileState) :
    (s.updTile t g).tiles = s.tiles.set t (g s.tiles[t]) := rfl
@[simp] theorem State.updTile_clusters (s : State) (t : Tile) (g : TileState → TileState) :
    (s.updTile t g).clusters = s.clusters := rfl
@[simp] theorem State.updTile_unitSleep (s : State) (t : Tile) (g : TileState → TileState) :
    (s.updTile t g).unitSleep = s.unitSleep := rfl
@[simp] theorem State.updTile_served (s : State) (t : Tile) (g : TileState → TileState) :
    (s.updTile t g).served = s.served := rfl
@[simp] theorem State.updTile_slab (s : State) (t : Tile) (g : TileState → TileState) : (s.updTile t g).slab = s.slab := rfl
@[simp] theorem State.updTile_slabUe (s : State) (t : Tile) (g : TileState → TileState) :
    (s.updTile t g).slabUe = s.slabUe := rfl
@[simp] theorem State.updTile_hbm (s : State) (t : Tile) (g : TileState → TileState) : (s.updTile t g).hbm = s.hbm := rfl
@[simp] theorem State.updTile_hbmUe (s : State) (t : Tile) (g : TileState → TileState) :
    (s.updTile t g).hbmUe = s.hbmUe := rfl
@[simp] theorem State.updTile_host (s : State) (t : Tile) (g : TileState → TileState) : (s.updTile t g).host = s.host := rfl
@[simp] theorem State.updTile_commitQ (s : State) (t : Tile) (g : TileState → TileState) :
    (s.updTile t g).commitQ = s.commitQ := rfl
@[simp] theorem State.updTile_arrivals (s : State) (t : Tile) (g : TileState → TileState) :
    (s.updTile t g).arrivals = s.arrivals := rfl
@[simp] theorem State.updTile_verified (s : State) (t : Tile) (g : TileState → TileState) :
    (s.updTile t g).verified = s.verified := rfl
@[simp] theorem State.updTile_linksFenced (s : State) (t : Tile) (g : TileState → TileState) :
    (s.updTile t g).linksFenced = s.linksFenced := rfl
@[simp] theorem State.updTile_replays (s : State) (t : Tile) (g : TileState → TileState) :
    (s.updTile t g).replays = s.replays := rfl
@[simp] theorem State.updTile_deviceYX (s : State) (t : Tile) (g : TileState → TileState) :
    (s.updTile t g).deviceYX = s.deviceYX := rfl
@[simp] theorem State.updTile_mgmtQueue (s : State) (t : Tile) (g : TileState → TileState) :
    (s.updTile t g).mgmtQueue = s.mgmtQueue := rfl
@[simp] theorem State.updTile_eid (s : State) (t : Tile) (g : TileState → TileState) : (s.updTile t g).eid = s.eid := rfl
@[simp] theorem State.updTile_tid (s : State) (t : Tile) (g : TileState → TileState) : (s.updTile t g).tid = s.tid := rfl
@[simp] theorem State.updTile_fu (s : State) (t : Tile) (g : TileState → TileState) : (s.updTile t g).fu = s.fu := rfl
@[simp] theorem State.updTile_mgmtSession (s : State) (t : Tile) (g : TileState → TileState) :
    (s.updTile t g).mgmtSession = s.mgmtSession := rfl
@[simp] theorem State.updTile_mgmtSessionNo (s : State) (t : Tile) (g : TileState → TileState) :
    (s.updTile t g).mgmtSessionNo = s.mgmtSessionNo := rfl
@[simp] theorem State.updTile_tap (s : State) (t : Tile) (g : TileState → TileState) : (s.updTile t g).tap = s.tap := rfl
@[simp] theorem State.updTile_rdata (s : State) (t : Tile) (g : TileState → TileState) :
    (s.updTile t g).rdata = s.rdata := rfl
@[simp] theorem State.updTile_msgs (s : State) (t : Tile) (g : TileState → TileState) : (s.updTile t g).msgs = s.msgs := rfl
@[simp] theorem State.updTile_pending (s : State) (t : Tile) (g : TileState → TileState) :
    (s.updTile t g).pending = s.pending := rfl
@[simp] theorem State.updTile_free (s : State) (t : Tile) (g : TileState → TileState) : (s.updTile t g).free = s.free := rfl

@[simp] theorem State.updCluster_orderCode (s : State) (c : Cluster) (g : ClusterState → ClusterState) :
    (s.updCluster c g).orderCode = s.orderCode := rfl
@[simp] theorem State.updCluster_porN (s : State) (c : Cluster) (g : ClusterState → ClusterState) :
    (s.updCluster c g).porN = s.porN := rfl
@[simp] theorem State.updCluster_floorSel (s : State) (c : Cluster) (g : ClusterState → ClusterState) :
    (s.updCluster c g).floorSel = s.floorSel := rfl
@[simp] theorem State.updCluster_bootSrc (s : State) (c : Cluster) (g : ClusterState → ClusterState) :
    (s.updCluster c g).bootSrc = s.bootSrc := rfl
@[simp] theorem State.updCluster_pwrbrkN (s : State) (c : Cluster) (g : ClusterState → ClusterState) :
    (s.updCluster c g).pwrbrkN = s.pwrbrkN := rfl
@[simp] theorem State.updCluster_vrhotN (s : State) (c : Cluster) (g : ClusterState → ClusterState) :
    (s.updCluster c g).vrhotN = s.vrhotN := rfl
@[simp] theorem State.updCluster_ppsIn (s : State) (c : Cluster) (g : ClusterState → ClusterState) :
    (s.updCluster c g).ppsIn = s.ppsIn := rfl
@[simp] theorem State.updCluster_thermtripN (s : State) (c : Cluster) (g : ClusterState → ClusterState) :
    (s.updCluster c g).thermtripN = s.thermtripN := rfl
@[simp] theorem State.updCluster_boot (s : State) (c : Cluster) (g : ClusterState → ClusterState) :
    (s.updCluster c g).boot = s.boot := rfl
@[simp] theorem State.updCluster_flash (s : State) (c : Cluster) (g : ClusterState → ClusterState) :
    (s.updCluster c g).flash = s.flash := rfl
@[simp] theorem State.updCluster_ledger (s : State) (c : Cluster) (g : ClusterState → ClusterState) :
    (s.updCluster c g).ledger = s.ledger := rfl
@[simp] theorem State.updCluster_ledgerChanges (s : State) (c : Cluster) (g : ClusterState → ClusterState) :
    (s.updCluster c g).ledgerChanges = s.ledgerChanges := rfl
@[simp] theorem State.updCluster_moraine (s : State) (c : Cluster) (g : ClusterState → ClusterState) :
    (s.updCluster c g).moraine = s.moraine := rfl
@[simp] theorem State.updCluster_moraineSeq (s : State) (c : Cluster) (g : ClusterState → ClusterState) :
    (s.updCluster c g).moraineSeq = s.moraineSeq := rfl
@[simp] theorem State.updCluster_starts (s : State) (c : Cluster) (g : ClusterState → ClusterState) :
    (s.updCluster c g).starts = s.starts := rfl
@[simp] theorem State.updCluster_time (s : State) (c : Cluster) (g : ClusterState → ClusterState) :
    (s.updCluster c g).time = s.time := rfl
@[simp] theorem State.updCluster_cntMeshReplay (s : State) (c : Cluster) (g : ClusterState → ClusterState) :
    (s.updCluster c g).cntMeshReplay = s.cntMeshReplay := rfl
@[simp] theorem State.updCluster_cntPpsIgnored (s : State) (c : Cluster) (g : ClusterState → ClusterState) :
    (s.updCluster c g).cntPpsIgnored = s.cntPpsIgnored := rfl
@[simp] theorem State.updCluster_power (s : State) (c : Cluster) (g : ClusterState → ClusterState) :
    (s.updCluster c g).power = s.power := rfl
@[simp] theorem State.updCluster_floorVersion (s : State) (c : Cluster) (g : ClusterState → ClusterState) :
    (s.updCluster c g).floorVersion = s.floorVersion := rfl
@[simp] theorem State.updCluster_floorDigest (s : State) (c : Cluster) (g : ClusterState → ClusterState) :
    (s.updCluster c g).floorDigest = s.floorDigest := rfl
@[simp] theorem State.updCluster_floorChange (s : State) (c : Cluster) (g : ClusterState → ClusterState) :
    (s.updCluster c g).floorChange = s.floorChange := rfl
@[simp] theorem State.updCluster_ports (s : State) (c : Cluster) (g : ClusterState → ClusterState) :
    (s.updCluster c g).ports = s.ports := rfl
@[simp] theorem State.updCluster_parts (s : State) (c : Cluster) (g : ClusterState → ClusterState) :
    (s.updCluster c g).parts = s.parts := rfl
@[simp] theorem State.updCluster_tiles (s : State) (c : Cluster) (g : ClusterState → ClusterState) :
    (s.updCluster c g).tiles = s.tiles := rfl
@[simp] theorem State.updCluster_clusters (s : State) (c : Cluster) (g : ClusterState → ClusterState) :
    (s.updCluster c g).clusters = s.clusters.set c (g s.clusters[c]) := rfl
@[simp] theorem State.updCluster_unitSleep (s : State) (c : Cluster) (g : ClusterState → ClusterState) :
    (s.updCluster c g).unitSleep = s.unitSleep := rfl
@[simp] theorem State.updCluster_served (s : State) (c : Cluster) (g : ClusterState → ClusterState) :
    (s.updCluster c g).served = s.served := rfl
@[simp] theorem State.updCluster_slab (s : State) (c : Cluster) (g : ClusterState → ClusterState) :
    (s.updCluster c g).slab = s.slab := rfl
@[simp] theorem State.updCluster_slabUe (s : State) (c : Cluster) (g : ClusterState → ClusterState) :
    (s.updCluster c g).slabUe = s.slabUe := rfl
@[simp] theorem State.updCluster_hbm (s : State) (c : Cluster) (g : ClusterState → ClusterState) :
    (s.updCluster c g).hbm = s.hbm := rfl
@[simp] theorem State.updCluster_hbmUe (s : State) (c : Cluster) (g : ClusterState → ClusterState) :
    (s.updCluster c g).hbmUe = s.hbmUe := rfl
@[simp] theorem State.updCluster_host (s : State) (c : Cluster) (g : ClusterState → ClusterState) :
    (s.updCluster c g).host = s.host := rfl
@[simp] theorem State.updCluster_commitQ (s : State) (c : Cluster) (g : ClusterState → ClusterState) :
    (s.updCluster c g).commitQ = s.commitQ := rfl
@[simp] theorem State.updCluster_arrivals (s : State) (c : Cluster) (g : ClusterState → ClusterState) :
    (s.updCluster c g).arrivals = s.arrivals := rfl
@[simp] theorem State.updCluster_verified (s : State) (c : Cluster) (g : ClusterState → ClusterState) :
    (s.updCluster c g).verified = s.verified := rfl
@[simp] theorem State.updCluster_linksFenced (s : State) (c : Cluster) (g : ClusterState → ClusterState) :
    (s.updCluster c g).linksFenced = s.linksFenced := rfl
@[simp] theorem State.updCluster_replays (s : State) (c : Cluster) (g : ClusterState → ClusterState) :
    (s.updCluster c g).replays = s.replays := rfl
@[simp] theorem State.updCluster_deviceYX (s : State) (c : Cluster) (g : ClusterState → ClusterState) :
    (s.updCluster c g).deviceYX = s.deviceYX := rfl
@[simp] theorem State.updCluster_mgmtQueue (s : State) (c : Cluster) (g : ClusterState → ClusterState) :
    (s.updCluster c g).mgmtQueue = s.mgmtQueue := rfl
@[simp] theorem State.updCluster_eid (s : State) (c : Cluster) (g : ClusterState → ClusterState) :
    (s.updCluster c g).eid = s.eid := rfl
@[simp] theorem State.updCluster_tid (s : State) (c : Cluster) (g : ClusterState → ClusterState) :
    (s.updCluster c g).tid = s.tid := rfl
@[simp] theorem State.updCluster_fu (s : State) (c : Cluster) (g : ClusterState → ClusterState) :
    (s.updCluster c g).fu = s.fu := rfl
@[simp] theorem State.updCluster_mgmtSession (s : State) (c : Cluster) (g : ClusterState → ClusterState) :
    (s.updCluster c g).mgmtSession = s.mgmtSession := rfl
@[simp] theorem State.updCluster_mgmtSessionNo (s : State) (c : Cluster) (g : ClusterState → ClusterState) :
    (s.updCluster c g).mgmtSessionNo = s.mgmtSessionNo := rfl
@[simp] theorem State.updCluster_tap (s : State) (c : Cluster) (g : ClusterState → ClusterState) :
    (s.updCluster c g).tap = s.tap := rfl
@[simp] theorem State.updCluster_rdata (s : State) (c : Cluster) (g : ClusterState → ClusterState) :
    (s.updCluster c g).rdata = s.rdata := rfl
@[simp] theorem State.updCluster_msgs (s : State) (c : Cluster) (g : ClusterState → ClusterState) :
    (s.updCluster c g).msgs = s.msgs := rfl
@[simp] theorem State.updCluster_pending (s : State) (c : Cluster) (g : ClusterState → ClusterState) :
    (s.updCluster c g).pending = s.pending := rfl
@[simp] theorem State.updCluster_free (s : State) (c : Cluster) (g : ClusterState → ClusterState) :
    (s.updCluster c g).free = s.free := rfl

@[simp] theorem State.slabPut_orderCode (s : State) (t off : Nat) (bs : List Byte) :
    (s.slabPut t off bs).orderCode = s.orderCode := rfl
@[simp] theorem State.slabPut_porN (s : State) (t off : Nat) (bs : List Byte) : (s.slabPut t off bs).porN = s.porN := rfl
@[simp] theorem State.slabPut_floorSel (s : State) (t off : Nat) (bs : List Byte) :
    (s.slabPut t off bs).floorSel = s.floorSel := rfl
@[simp] theorem State.slabPut_bootSrc (s : State) (t off : Nat) (bs : List Byte) :
    (s.slabPut t off bs).bootSrc = s.bootSrc := rfl
@[simp] theorem State.slabPut_pwrbrkN (s : State) (t off : Nat) (bs : List Byte) :
    (s.slabPut t off bs).pwrbrkN = s.pwrbrkN := rfl
@[simp] theorem State.slabPut_vrhotN (s : State) (t off : Nat) (bs : List Byte) :
    (s.slabPut t off bs).vrhotN = s.vrhotN := rfl
@[simp] theorem State.slabPut_ppsIn (s : State) (t off : Nat) (bs : List Byte) : (s.slabPut t off bs).ppsIn = s.ppsIn := rfl
@[simp] theorem State.slabPut_thermtripN (s : State) (t off : Nat) (bs : List Byte) :
    (s.slabPut t off bs).thermtripN = s.thermtripN := rfl
@[simp] theorem State.slabPut_boot (s : State) (t off : Nat) (bs : List Byte) : (s.slabPut t off bs).boot = s.boot := rfl
@[simp] theorem State.slabPut_flash (s : State) (t off : Nat) (bs : List Byte) : (s.slabPut t off bs).flash = s.flash := rfl
@[simp] theorem State.slabPut_ledger (s : State) (t off : Nat) (bs : List Byte) :
    (s.slabPut t off bs).ledger = s.ledger := rfl
@[simp] theorem State.slabPut_ledgerChanges (s : State) (t off : Nat) (bs : List Byte) :
    (s.slabPut t off bs).ledgerChanges = s.ledgerChanges := rfl
@[simp] theorem State.slabPut_moraine (s : State) (t off : Nat) (bs : List Byte) :
    (s.slabPut t off bs).moraine = s.moraine := rfl
@[simp] theorem State.slabPut_moraineSeq (s : State) (t off : Nat) (bs : List Byte) :
    (s.slabPut t off bs).moraineSeq = s.moraineSeq := rfl
@[simp] theorem State.slabPut_starts (s : State) (t off : Nat) (bs : List Byte) :
    (s.slabPut t off bs).starts = s.starts := rfl
@[simp] theorem State.slabPut_time (s : State) (t off : Nat) (bs : List Byte) : (s.slabPut t off bs).time = s.time := rfl
@[simp] theorem State.slabPut_cntMeshReplay (s : State) (t off : Nat) (bs : List Byte) :
    (s.slabPut t off bs).cntMeshReplay = s.cntMeshReplay := rfl
@[simp] theorem State.slabPut_cntPpsIgnored (s : State) (t off : Nat) (bs : List Byte) :
    (s.slabPut t off bs).cntPpsIgnored = s.cntPpsIgnored := rfl
@[simp] theorem State.slabPut_power (s : State) (t off : Nat) (bs : List Byte) : (s.slabPut t off bs).power = s.power := rfl
@[simp] theorem State.slabPut_floorVersion (s : State) (t off : Nat) (bs : List Byte) :
    (s.slabPut t off bs).floorVersion = s.floorVersion := rfl
@[simp] theorem State.slabPut_floorDigest (s : State) (t off : Nat) (bs : List Byte) :
    (s.slabPut t off bs).floorDigest = s.floorDigest := rfl
@[simp] theorem State.slabPut_floorChange (s : State) (t off : Nat) (bs : List Byte) :
    (s.slabPut t off bs).floorChange = s.floorChange := rfl
@[simp] theorem State.slabPut_ports (s : State) (t off : Nat) (bs : List Byte) : (s.slabPut t off bs).ports = s.ports := rfl
@[simp] theorem State.slabPut_parts (s : State) (t off : Nat) (bs : List Byte) : (s.slabPut t off bs).parts = s.parts := rfl
@[simp] theorem State.slabPut_tiles (s : State) (t off : Nat) (bs : List Byte) : (s.slabPut t off bs).tiles = s.tiles := rfl
@[simp] theorem State.slabPut_clusters (s : State) (t off : Nat) (bs : List Byte) :
    (s.slabPut t off bs).clusters = s.clusters := rfl
@[simp] theorem State.slabPut_unitSleep (s : State) (t off : Nat) (bs : List Byte) :
    (s.slabPut t off bs).unitSleep = s.unitSleep := rfl
@[simp] theorem State.slabPut_served (s : State) (t off : Nat) (bs : List Byte) :
    (s.slabPut t off bs).served = s.served := rfl
@[simp] theorem State.slabPut_slab (s : State) (t off : Nat) (bs : List Byte) :
    (s.slabPut t off bs).slab = s.slab.sets (slabKey t off) bs := rfl
@[simp] theorem State.slabPut_hbm (s : State) (t off : Nat) (bs : List Byte) : (s.slabPut t off bs).hbm = s.hbm := rfl
@[simp] theorem State.slabPut_hbmUe (s : State) (t off : Nat) (bs : List Byte) : (s.slabPut t off bs).hbmUe = s.hbmUe := rfl
@[simp] theorem State.slabPut_host (s : State) (t off : Nat) (bs : List Byte) : (s.slabPut t off bs).host = s.host := rfl
@[simp] theorem State.slabPut_commitQ (s : State) (t off : Nat) (bs : List Byte) :
    (s.slabPut t off bs).commitQ = s.commitQ := rfl
@[simp] theorem State.slabPut_arrivals (s : State) (t off : Nat) (bs : List Byte) :
    (s.slabPut t off bs).arrivals = s.arrivals := rfl
@[simp] theorem State.slabPut_verified (s : State) (t off : Nat) (bs : List Byte) :
    (s.slabPut t off bs).verified = s.verified := rfl
@[simp] theorem State.slabPut_linksFenced (s : State) (t off : Nat) (bs : List Byte) :
    (s.slabPut t off bs).linksFenced = s.linksFenced := rfl
@[simp] theorem State.slabPut_replays (s : State) (t off : Nat) (bs : List Byte) :
    (s.slabPut t off bs).replays = s.replays := rfl
@[simp] theorem State.slabPut_deviceYX (s : State) (t off : Nat) (bs : List Byte) :
    (s.slabPut t off bs).deviceYX = s.deviceYX := rfl
@[simp] theorem State.slabPut_mgmtQueue (s : State) (t off : Nat) (bs : List Byte) :
    (s.slabPut t off bs).mgmtQueue = s.mgmtQueue := rfl
@[simp] theorem State.slabPut_eid (s : State) (t off : Nat) (bs : List Byte) : (s.slabPut t off bs).eid = s.eid := rfl
@[simp] theorem State.slabPut_tid (s : State) (t off : Nat) (bs : List Byte) : (s.slabPut t off bs).tid = s.tid := rfl
@[simp] theorem State.slabPut_fu (s : State) (t off : Nat) (bs : List Byte) : (s.slabPut t off bs).fu = s.fu := rfl
@[simp] theorem State.slabPut_mgmtSession (s : State) (t off : Nat) (bs : List Byte) :
    (s.slabPut t off bs).mgmtSession = s.mgmtSession := rfl
@[simp] theorem State.slabPut_mgmtSessionNo (s : State) (t off : Nat) (bs : List Byte) :
    (s.slabPut t off bs).mgmtSessionNo = s.mgmtSessionNo := rfl
@[simp] theorem State.slabPut_tap (s : State) (t off : Nat) (bs : List Byte) : (s.slabPut t off bs).tap = s.tap := rfl
@[simp] theorem State.slabPut_rdata (s : State) (t off : Nat) (bs : List Byte) : (s.slabPut t off bs).rdata = s.rdata := rfl
@[simp] theorem State.slabPut_msgs (s : State) (t off : Nat) (bs : List Byte) : (s.slabPut t off bs).msgs = s.msgs := rfl
@[simp] theorem State.slabPut_pending (s : State) (t off : Nat) (bs : List Byte) :
    (s.slabPut t off bs).pending = s.pending := rfl
@[simp] theorem State.slabPut_free (s : State) (t off : Nat) (bs : List Byte) : (s.slabPut t off bs).free = s.free := rfl

@[simp] theorem State.slabZero_orderCode (s : State) (t off n : Nat) : (s.slabZero t off n).orderCode = s.orderCode := rfl
@[simp] theorem State.slabZero_porN (s : State) (t off n : Nat) : (s.slabZero t off n).porN = s.porN := rfl
@[simp] theorem State.slabZero_floorSel (s : State) (t off n : Nat) : (s.slabZero t off n).floorSel = s.floorSel := rfl
@[simp] theorem State.slabZero_bootSrc (s : State) (t off n : Nat) : (s.slabZero t off n).bootSrc = s.bootSrc := rfl
@[simp] theorem State.slabZero_pwrbrkN (s : State) (t off n : Nat) : (s.slabZero t off n).pwrbrkN = s.pwrbrkN := rfl
@[simp] theorem State.slabZero_vrhotN (s : State) (t off n : Nat) : (s.slabZero t off n).vrhotN = s.vrhotN := rfl
@[simp] theorem State.slabZero_ppsIn (s : State) (t off n : Nat) : (s.slabZero t off n).ppsIn = s.ppsIn := rfl
@[simp] theorem State.slabZero_thermtripN (s : State) (t off n : Nat) : (s.slabZero t off n).thermtripN = s.thermtripN := rfl
@[simp] theorem State.slabZero_boot (s : State) (t off n : Nat) : (s.slabZero t off n).boot = s.boot := rfl
@[simp] theorem State.slabZero_flash (s : State) (t off n : Nat) : (s.slabZero t off n).flash = s.flash := rfl
@[simp] theorem State.slabZero_ledger (s : State) (t off n : Nat) : (s.slabZero t off n).ledger = s.ledger := rfl
@[simp] theorem State.slabZero_ledgerChanges (s : State) (t off n : Nat) :
    (s.slabZero t off n).ledgerChanges = s.ledgerChanges := rfl
@[simp] theorem State.slabZero_moraine (s : State) (t off n : Nat) : (s.slabZero t off n).moraine = s.moraine := rfl
@[simp] theorem State.slabZero_moraineSeq (s : State) (t off n : Nat) : (s.slabZero t off n).moraineSeq = s.moraineSeq := rfl
@[simp] theorem State.slabZero_starts (s : State) (t off n : Nat) : (s.slabZero t off n).starts = s.starts := rfl
@[simp] theorem State.slabZero_time (s : State) (t off n : Nat) : (s.slabZero t off n).time = s.time := rfl
@[simp] theorem State.slabZero_cntMeshReplay (s : State) (t off n : Nat) :
    (s.slabZero t off n).cntMeshReplay = s.cntMeshReplay := rfl
@[simp] theorem State.slabZero_cntPpsIgnored (s : State) (t off n : Nat) :
    (s.slabZero t off n).cntPpsIgnored = s.cntPpsIgnored := rfl
@[simp] theorem State.slabZero_power (s : State) (t off n : Nat) : (s.slabZero t off n).power = s.power := rfl
@[simp] theorem State.slabZero_floorVersion (s : State) (t off n : Nat) :
    (s.slabZero t off n).floorVersion = s.floorVersion := rfl
@[simp] theorem State.slabZero_floorDigest (s : State) (t off n : Nat) :
    (s.slabZero t off n).floorDigest = s.floorDigest := rfl
@[simp] theorem State.slabZero_floorChange (s : State) (t off n : Nat) :
    (s.slabZero t off n).floorChange = s.floorChange := rfl
@[simp] theorem State.slabZero_ports (s : State) (t off n : Nat) : (s.slabZero t off n).ports = s.ports := rfl
@[simp] theorem State.slabZero_parts (s : State) (t off n : Nat) : (s.slabZero t off n).parts = s.parts := rfl
@[simp] theorem State.slabZero_tiles (s : State) (t off n : Nat) : (s.slabZero t off n).tiles = s.tiles := rfl
@[simp] theorem State.slabZero_clusters (s : State) (t off n : Nat) : (s.slabZero t off n).clusters = s.clusters := rfl
@[simp] theorem State.slabZero_unitSleep (s : State) (t off n : Nat) : (s.slabZero t off n).unitSleep = s.unitSleep := rfl
@[simp] theorem State.slabZero_served (s : State) (t off n : Nat) : (s.slabZero t off n).served = s.served := rfl
@[simp] theorem State.slabZero_slab (s : State) (t off n : Nat) :
    (s.slabZero t off n).slab = s.slab.clear (slabKey t off) (slabKey t off + n) := rfl
@[simp] theorem State.slabZero_hbm (s : State) (t off n : Nat) : (s.slabZero t off n).hbm = s.hbm := rfl
@[simp] theorem State.slabZero_hbmUe (s : State) (t off n : Nat) : (s.slabZero t off n).hbmUe = s.hbmUe := rfl
@[simp] theorem State.slabZero_host (s : State) (t off n : Nat) : (s.slabZero t off n).host = s.host := rfl
@[simp] theorem State.slabZero_commitQ (s : State) (t off n : Nat) : (s.slabZero t off n).commitQ = s.commitQ := rfl
@[simp] theorem State.slabZero_arrivals (s : State) (t off n : Nat) : (s.slabZero t off n).arrivals = s.arrivals := rfl
@[simp] theorem State.slabZero_verified (s : State) (t off n : Nat) : (s.slabZero t off n).verified = s.verified := rfl
@[simp] theorem State.slabZero_linksFenced (s : State) (t off n : Nat) :
    (s.slabZero t off n).linksFenced = s.linksFenced := rfl
@[simp] theorem State.slabZero_replays (s : State) (t off n : Nat) : (s.slabZero t off n).replays = s.replays := rfl
@[simp] theorem State.slabZero_deviceYX (s : State) (t off n : Nat) : (s.slabZero t off n).deviceYX = s.deviceYX := rfl
@[simp] theorem State.slabZero_mgmtQueue (s : State) (t off n : Nat) : (s.slabZero t off n).mgmtQueue = s.mgmtQueue := rfl
@[simp] theorem State.slabZero_eid (s : State) (t off n : Nat) : (s.slabZero t off n).eid = s.eid := rfl
@[simp] theorem State.slabZero_tid (s : State) (t off n : Nat) : (s.slabZero t off n).tid = s.tid := rfl
@[simp] theorem State.slabZero_fu (s : State) (t off n : Nat) : (s.slabZero t off n).fu = s.fu := rfl
@[simp] theorem State.slabZero_mgmtSession (s : State) (t off n : Nat) :
    (s.slabZero t off n).mgmtSession = s.mgmtSession := rfl
@[simp] theorem State.slabZero_mgmtSessionNo (s : State) (t off n : Nat) :
    (s.slabZero t off n).mgmtSessionNo = s.mgmtSessionNo := rfl
@[simp] theorem State.slabZero_tap (s : State) (t off n : Nat) : (s.slabZero t off n).tap = s.tap := rfl
@[simp] theorem State.slabZero_rdata (s : State) (t off n : Nat) : (s.slabZero t off n).rdata = s.rdata := rfl
@[simp] theorem State.slabZero_msgs (s : State) (t off n : Nat) : (s.slabZero t off n).msgs = s.msgs := rfl
@[simp] theorem State.slabZero_pending (s : State) (t off n : Nat) : (s.slabZero t off n).pending = s.pending := rfl
@[simp] theorem State.slabZero_free (s : State) (t off n : Nat) : (s.slabZero t off n).free = s.free := rfl

@[simp] theorem State.hbmPut_orderCode (s : State) (p : Port) (k off : Nat) (bs : List Byte) :
    (s.hbmPut p k off bs).orderCode = s.orderCode := rfl
@[simp] theorem State.hbmPut_porN (s : State) (p : Port) (k off : Nat) (bs : List Byte) :
    (s.hbmPut p k off bs).porN = s.porN := rfl
@[simp] theorem State.hbmPut_floorSel (s : State) (p : Port) (k off : Nat) (bs : List Byte) :
    (s.hbmPut p k off bs).floorSel = s.floorSel := rfl
@[simp] theorem State.hbmPut_bootSrc (s : State) (p : Port) (k off : Nat) (bs : List Byte) :
    (s.hbmPut p k off bs).bootSrc = s.bootSrc := rfl
@[simp] theorem State.hbmPut_pwrbrkN (s : State) (p : Port) (k off : Nat) (bs : List Byte) :
    (s.hbmPut p k off bs).pwrbrkN = s.pwrbrkN := rfl
@[simp] theorem State.hbmPut_vrhotN (s : State) (p : Port) (k off : Nat) (bs : List Byte) :
    (s.hbmPut p k off bs).vrhotN = s.vrhotN := rfl
@[simp] theorem State.hbmPut_ppsIn (s : State) (p : Port) (k off : Nat) (bs : List Byte) :
    (s.hbmPut p k off bs).ppsIn = s.ppsIn := rfl
@[simp] theorem State.hbmPut_thermtripN (s : State) (p : Port) (k off : Nat) (bs : List Byte) :
    (s.hbmPut p k off bs).thermtripN = s.thermtripN := rfl
@[simp] theorem State.hbmPut_boot (s : State) (p : Port) (k off : Nat) (bs : List Byte) :
    (s.hbmPut p k off bs).boot = s.boot := rfl
@[simp] theorem State.hbmPut_flash (s : State) (p : Port) (k off : Nat) (bs : List Byte) :
    (s.hbmPut p k off bs).flash = s.flash := rfl
@[simp] theorem State.hbmPut_ledger (s : State) (p : Port) (k off : Nat) (bs : List Byte) :
    (s.hbmPut p k off bs).ledger = s.ledger := rfl
@[simp] theorem State.hbmPut_ledgerChanges (s : State) (p : Port) (k off : Nat) (bs : List Byte) :
    (s.hbmPut p k off bs).ledgerChanges = s.ledgerChanges := rfl
@[simp] theorem State.hbmPut_moraine (s : State) (p : Port) (k off : Nat) (bs : List Byte) :
    (s.hbmPut p k off bs).moraine = s.moraine := rfl
@[simp] theorem State.hbmPut_moraineSeq (s : State) (p : Port) (k off : Nat) (bs : List Byte) :
    (s.hbmPut p k off bs).moraineSeq = s.moraineSeq := rfl
@[simp] theorem State.hbmPut_starts (s : State) (p : Port) (k off : Nat) (bs : List Byte) :
    (s.hbmPut p k off bs).starts = s.starts := rfl
@[simp] theorem State.hbmPut_time (s : State) (p : Port) (k off : Nat) (bs : List Byte) :
    (s.hbmPut p k off bs).time = s.time := rfl
@[simp] theorem State.hbmPut_cntMeshReplay (s : State) (p : Port) (k off : Nat) (bs : List Byte) :
    (s.hbmPut p k off bs).cntMeshReplay = s.cntMeshReplay := rfl
@[simp] theorem State.hbmPut_cntPpsIgnored (s : State) (p : Port) (k off : Nat) (bs : List Byte) :
    (s.hbmPut p k off bs).cntPpsIgnored = s.cntPpsIgnored := rfl
@[simp] theorem State.hbmPut_power (s : State) (p : Port) (k off : Nat) (bs : List Byte) :
    (s.hbmPut p k off bs).power = s.power := rfl
@[simp] theorem State.hbmPut_floorVersion (s : State) (p : Port) (k off : Nat) (bs : List Byte) :
    (s.hbmPut p k off bs).floorVersion = s.floorVersion := rfl
@[simp] theorem State.hbmPut_floorDigest (s : State) (p : Port) (k off : Nat) (bs : List Byte) :
    (s.hbmPut p k off bs).floorDigest = s.floorDigest := rfl
@[simp] theorem State.hbmPut_floorChange (s : State) (p : Port) (k off : Nat) (bs : List Byte) :
    (s.hbmPut p k off bs).floorChange = s.floorChange := rfl
@[simp] theorem State.hbmPut_ports (s : State) (p : Port) (k off : Nat) (bs : List Byte) :
    (s.hbmPut p k off bs).ports = s.ports := rfl
@[simp] theorem State.hbmPut_parts (s : State) (p : Port) (k off : Nat) (bs : List Byte) :
    (s.hbmPut p k off bs).parts = s.parts := rfl
@[simp] theorem State.hbmPut_tiles (s : State) (p : Port) (k off : Nat) (bs : List Byte) :
    (s.hbmPut p k off bs).tiles = s.tiles := rfl
@[simp] theorem State.hbmPut_clusters (s : State) (p : Port) (k off : Nat) (bs : List Byte) :
    (s.hbmPut p k off bs).clusters = s.clusters := rfl
@[simp] theorem State.hbmPut_unitSleep (s : State) (p : Port) (k off : Nat) (bs : List Byte) :
    (s.hbmPut p k off bs).unitSleep = s.unitSleep := rfl
@[simp] theorem State.hbmPut_served (s : State) (p : Port) (k off : Nat) (bs : List Byte) :
    (s.hbmPut p k off bs).served = s.served := rfl
@[simp] theorem State.hbmPut_slab (s : State) (p : Port) (k off : Nat) (bs : List Byte) :
    (s.hbmPut p k off bs).slab = s.slab := rfl
@[simp] theorem State.hbmPut_slabUe (s : State) (p : Port) (k off : Nat) (bs : List Byte) :
    (s.hbmPut p k off bs).slabUe = s.slabUe := rfl
@[simp] theorem State.hbmPut_hbm (s : State) (p : Port) (k off : Nat) (bs : List Byte) :
    (s.hbmPut p k off bs).hbm = s.hbm.puts (hbmKey p k off) bs := rfl
@[simp] theorem State.hbmPut_host (s : State) (p : Port) (k off : Nat) (bs : List Byte) :
    (s.hbmPut p k off bs).host = s.host := rfl
@[simp] theorem State.hbmPut_commitQ (s : State) (p : Port) (k off : Nat) (bs : List Byte) :
    (s.hbmPut p k off bs).commitQ = s.commitQ := rfl
@[simp] theorem State.hbmPut_arrivals (s : State) (p : Port) (k off : Nat) (bs : List Byte) :
    (s.hbmPut p k off bs).arrivals = s.arrivals := rfl
@[simp] theorem State.hbmPut_verified (s : State) (p : Port) (k off : Nat) (bs : List Byte) :
    (s.hbmPut p k off bs).verified = s.verified := rfl
@[simp] theorem State.hbmPut_linksFenced (s : State) (p : Port) (k off : Nat) (bs : List Byte) :
    (s.hbmPut p k off bs).linksFenced = s.linksFenced := rfl
@[simp] theorem State.hbmPut_replays (s : State) (p : Port) (k off : Nat) (bs : List Byte) :
    (s.hbmPut p k off bs).replays = s.replays := rfl
@[simp] theorem State.hbmPut_deviceYX (s : State) (p : Port) (k off : Nat) (bs : List Byte) :
    (s.hbmPut p k off bs).deviceYX = s.deviceYX := rfl
@[simp] theorem State.hbmPut_mgmtQueue (s : State) (p : Port) (k off : Nat) (bs : List Byte) :
    (s.hbmPut p k off bs).mgmtQueue = s.mgmtQueue := rfl
@[simp] theorem State.hbmPut_eid (s : State) (p : Port) (k off : Nat) (bs : List Byte) :
    (s.hbmPut p k off bs).eid = s.eid := rfl
@[simp] theorem State.hbmPut_tid (s : State) (p : Port) (k off : Nat) (bs : List Byte) :
    (s.hbmPut p k off bs).tid = s.tid := rfl
@[simp] theorem State.hbmPut_fu (s : State) (p : Port) (k off : Nat) (bs : List Byte) : (s.hbmPut p k off bs).fu = s.fu := rfl
@[simp] theorem State.hbmPut_mgmtSession (s : State) (p : Port) (k off : Nat) (bs : List Byte) :
    (s.hbmPut p k off bs).mgmtSession = s.mgmtSession := rfl
@[simp] theorem State.hbmPut_mgmtSessionNo (s : State) (p : Port) (k off : Nat) (bs : List Byte) :
    (s.hbmPut p k off bs).mgmtSessionNo = s.mgmtSessionNo := rfl
@[simp] theorem State.hbmPut_tap (s : State) (p : Port) (k off : Nat) (bs : List Byte) :
    (s.hbmPut p k off bs).tap = s.tap := rfl
@[simp] theorem State.hbmPut_rdata (s : State) (p : Port) (k off : Nat) (bs : List Byte) :
    (s.hbmPut p k off bs).rdata = s.rdata := rfl
@[simp] theorem State.hbmPut_msgs (s : State) (p : Port) (k off : Nat) (bs : List Byte) :
    (s.hbmPut p k off bs).msgs = s.msgs := rfl
@[simp] theorem State.hbmPut_pending (s : State) (p : Port) (k off : Nat) (bs : List Byte) :
    (s.hbmPut p k off bs).pending = s.pending := rfl
@[simp] theorem State.hbmPut_free (s : State) (p : Port) (k off : Nat) (bs : List Byte) :
    (s.hbmPut p k off bs).free = s.free := rfl

@[simp] theorem State.hostPut_orderCode (s : State) (p : Port) (a : Nat) (bs : List Byte) :
    (s.hostPut p a bs).orderCode = s.orderCode := rfl
@[simp] theorem State.hostPut_porN (s : State) (p : Port) (a : Nat) (bs : List Byte) : (s.hostPut p a bs).porN = s.porN := rfl
@[simp] theorem State.hostPut_floorSel (s : State) (p : Port) (a : Nat) (bs : List Byte) :
    (s.hostPut p a bs).floorSel = s.floorSel := rfl
@[simp] theorem State.hostPut_bootSrc (s : State) (p : Port) (a : Nat) (bs : List Byte) :
    (s.hostPut p a bs).bootSrc = s.bootSrc := rfl
@[simp] theorem State.hostPut_pwrbrkN (s : State) (p : Port) (a : Nat) (bs : List Byte) :
    (s.hostPut p a bs).pwrbrkN = s.pwrbrkN := rfl
@[simp] theorem State.hostPut_vrhotN (s : State) (p : Port) (a : Nat) (bs : List Byte) :
    (s.hostPut p a bs).vrhotN = s.vrhotN := rfl
@[simp] theorem State.hostPut_ppsIn (s : State) (p : Port) (a : Nat) (bs : List Byte) :
    (s.hostPut p a bs).ppsIn = s.ppsIn := rfl
@[simp] theorem State.hostPut_thermtripN (s : State) (p : Port) (a : Nat) (bs : List Byte) :
    (s.hostPut p a bs).thermtripN = s.thermtripN := rfl
@[simp] theorem State.hostPut_boot (s : State) (p : Port) (a : Nat) (bs : List Byte) : (s.hostPut p a bs).boot = s.boot := rfl
@[simp] theorem State.hostPut_flash (s : State) (p : Port) (a : Nat) (bs : List Byte) :
    (s.hostPut p a bs).flash = s.flash := rfl
@[simp] theorem State.hostPut_ledger (s : State) (p : Port) (a : Nat) (bs : List Byte) :
    (s.hostPut p a bs).ledger = s.ledger := rfl
@[simp] theorem State.hostPut_ledgerChanges (s : State) (p : Port) (a : Nat) (bs : List Byte) :
    (s.hostPut p a bs).ledgerChanges = s.ledgerChanges := rfl
@[simp] theorem State.hostPut_moraine (s : State) (p : Port) (a : Nat) (bs : List Byte) :
    (s.hostPut p a bs).moraine = s.moraine := rfl
@[simp] theorem State.hostPut_moraineSeq (s : State) (p : Port) (a : Nat) (bs : List Byte) :
    (s.hostPut p a bs).moraineSeq = s.moraineSeq := rfl
@[simp] theorem State.hostPut_starts (s : State) (p : Port) (a : Nat) (bs : List Byte) :
    (s.hostPut p a bs).starts = s.starts := rfl
@[simp] theorem State.hostPut_time (s : State) (p : Port) (a : Nat) (bs : List Byte) : (s.hostPut p a bs).time = s.time := rfl
@[simp] theorem State.hostPut_cntMeshReplay (s : State) (p : Port) (a : Nat) (bs : List Byte) :
    (s.hostPut p a bs).cntMeshReplay = s.cntMeshReplay := rfl
@[simp] theorem State.hostPut_cntPpsIgnored (s : State) (p : Port) (a : Nat) (bs : List Byte) :
    (s.hostPut p a bs).cntPpsIgnored = s.cntPpsIgnored := rfl
@[simp] theorem State.hostPut_power (s : State) (p : Port) (a : Nat) (bs : List Byte) :
    (s.hostPut p a bs).power = s.power := rfl
@[simp] theorem State.hostPut_floorVersion (s : State) (p : Port) (a : Nat) (bs : List Byte) :
    (s.hostPut p a bs).floorVersion = s.floorVersion := rfl
@[simp] theorem State.hostPut_floorDigest (s : State) (p : Port) (a : Nat) (bs : List Byte) :
    (s.hostPut p a bs).floorDigest = s.floorDigest := rfl
@[simp] theorem State.hostPut_floorChange (s : State) (p : Port) (a : Nat) (bs : List Byte) :
    (s.hostPut p a bs).floorChange = s.floorChange := rfl
@[simp] theorem State.hostPut_ports (s : State) (p : Port) (a : Nat) (bs : List Byte) :
    (s.hostPut p a bs).ports = s.ports := rfl
@[simp] theorem State.hostPut_parts (s : State) (p : Port) (a : Nat) (bs : List Byte) :
    (s.hostPut p a bs).parts = s.parts := rfl
@[simp] theorem State.hostPut_tiles (s : State) (p : Port) (a : Nat) (bs : List Byte) :
    (s.hostPut p a bs).tiles = s.tiles := rfl
@[simp] theorem State.hostPut_clusters (s : State) (p : Port) (a : Nat) (bs : List Byte) :
    (s.hostPut p a bs).clusters = s.clusters := rfl
@[simp] theorem State.hostPut_unitSleep (s : State) (p : Port) (a : Nat) (bs : List Byte) :
    (s.hostPut p a bs).unitSleep = s.unitSleep := rfl
@[simp] theorem State.hostPut_served (s : State) (p : Port) (a : Nat) (bs : List Byte) :
    (s.hostPut p a bs).served = s.served := rfl
@[simp] theorem State.hostPut_slab (s : State) (p : Port) (a : Nat) (bs : List Byte) : (s.hostPut p a bs).slab = s.slab := rfl
@[simp] theorem State.hostPut_slabUe (s : State) (p : Port) (a : Nat) (bs : List Byte) :
    (s.hostPut p a bs).slabUe = s.slabUe := rfl
@[simp] theorem State.hostPut_hbm (s : State) (p : Port) (a : Nat) (bs : List Byte) : (s.hostPut p a bs).hbm = s.hbm := rfl
@[simp] theorem State.hostPut_hbmUe (s : State) (p : Port) (a : Nat) (bs : List Byte) :
    (s.hostPut p a bs).hbmUe = s.hbmUe := rfl
@[simp] theorem State.hostPut_host (s : State) (p : Port) (a : Nat) (bs : List Byte) :
    (s.hostPut p a bs).host = s.host.sets (hostKey p a) bs := rfl
@[simp] theorem State.hostPut_commitQ (s : State) (p : Port) (a : Nat) (bs : List Byte) :
    (s.hostPut p a bs).commitQ = s.commitQ := rfl
@[simp] theorem State.hostPut_arrivals (s : State) (p : Port) (a : Nat) (bs : List Byte) :
    (s.hostPut p a bs).arrivals = s.arrivals := rfl
@[simp] theorem State.hostPut_verified (s : State) (p : Port) (a : Nat) (bs : List Byte) :
    (s.hostPut p a bs).verified = s.verified := rfl
@[simp] theorem State.hostPut_linksFenced (s : State) (p : Port) (a : Nat) (bs : List Byte) :
    (s.hostPut p a bs).linksFenced = s.linksFenced := rfl
@[simp] theorem State.hostPut_replays (s : State) (p : Port) (a : Nat) (bs : List Byte) :
    (s.hostPut p a bs).replays = s.replays := rfl
@[simp] theorem State.hostPut_deviceYX (s : State) (p : Port) (a : Nat) (bs : List Byte) :
    (s.hostPut p a bs).deviceYX = s.deviceYX := rfl
@[simp] theorem State.hostPut_mgmtQueue (s : State) (p : Port) (a : Nat) (bs : List Byte) :
    (s.hostPut p a bs).mgmtQueue = s.mgmtQueue := rfl
@[simp] theorem State.hostPut_eid (s : State) (p : Port) (a : Nat) (bs : List Byte) : (s.hostPut p a bs).eid = s.eid := rfl
@[simp] theorem State.hostPut_tid (s : State) (p : Port) (a : Nat) (bs : List Byte) : (s.hostPut p a bs).tid = s.tid := rfl
@[simp] theorem State.hostPut_fu (s : State) (p : Port) (a : Nat) (bs : List Byte) : (s.hostPut p a bs).fu = s.fu := rfl
@[simp] theorem State.hostPut_mgmtSession (s : State) (p : Port) (a : Nat) (bs : List Byte) :
    (s.hostPut p a bs).mgmtSession = s.mgmtSession := rfl
@[simp] theorem State.hostPut_mgmtSessionNo (s : State) (p : Port) (a : Nat) (bs : List Byte) :
    (s.hostPut p a bs).mgmtSessionNo = s.mgmtSessionNo := rfl
@[simp] theorem State.hostPut_tap (s : State) (p : Port) (a : Nat) (bs : List Byte) : (s.hostPut p a bs).tap = s.tap := rfl
@[simp] theorem State.hostPut_rdata (s : State) (p : Port) (a : Nat) (bs : List Byte) :
    (s.hostPut p a bs).rdata = s.rdata := rfl
@[simp] theorem State.hostPut_msgs (s : State) (p : Port) (a : Nat) (bs : List Byte) : (s.hostPut p a bs).msgs = s.msgs := rfl
@[simp] theorem State.hostPut_pending (s : State) (p : Port) (a : Nat) (bs : List Byte) :
    (s.hostPut p a bs).pending = s.pending := rfl
@[simp] theorem State.hostPut_free (s : State) (p : Port) (a : Nat) (bs : List Byte) : (s.hostPut p a bs).free = s.free := rfl

@[simp] theorem State.send_orderCode (s : State) (m : Msg) : (s.send m).orderCode = s.orderCode := rfl
@[simp] theorem State.send_porN (s : State) (m : Msg) : (s.send m).porN = s.porN := rfl
@[simp] theorem State.send_floorSel (s : State) (m : Msg) : (s.send m).floorSel = s.floorSel := rfl
@[simp] theorem State.send_bootSrc (s : State) (m : Msg) : (s.send m).bootSrc = s.bootSrc := rfl
@[simp] theorem State.send_pwrbrkN (s : State) (m : Msg) : (s.send m).pwrbrkN = s.pwrbrkN := rfl
@[simp] theorem State.send_vrhotN (s : State) (m : Msg) : (s.send m).vrhotN = s.vrhotN := rfl
@[simp] theorem State.send_ppsIn (s : State) (m : Msg) : (s.send m).ppsIn = s.ppsIn := rfl
@[simp] theorem State.send_thermtripN (s : State) (m : Msg) : (s.send m).thermtripN = s.thermtripN := rfl
@[simp] theorem State.send_boot (s : State) (m : Msg) : (s.send m).boot = s.boot := rfl
@[simp] theorem State.send_flash (s : State) (m : Msg) : (s.send m).flash = s.flash := rfl
@[simp] theorem State.send_ledger (s : State) (m : Msg) : (s.send m).ledger = s.ledger := rfl
@[simp] theorem State.send_ledgerChanges (s : State) (m : Msg) : (s.send m).ledgerChanges = s.ledgerChanges := rfl
@[simp] theorem State.send_moraine (s : State) (m : Msg) : (s.send m).moraine = s.moraine := rfl
@[simp] theorem State.send_moraineSeq (s : State) (m : Msg) : (s.send m).moraineSeq = s.moraineSeq := rfl
@[simp] theorem State.send_starts (s : State) (m : Msg) : (s.send m).starts = s.starts := rfl
@[simp] theorem State.send_time (s : State) (m : Msg) : (s.send m).time = s.time := rfl
@[simp] theorem State.send_cntMeshReplay (s : State) (m : Msg) : (s.send m).cntMeshReplay = s.cntMeshReplay := rfl
@[simp] theorem State.send_cntPpsIgnored (s : State) (m : Msg) : (s.send m).cntPpsIgnored = s.cntPpsIgnored := rfl
@[simp] theorem State.send_power (s : State) (m : Msg) : (s.send m).power = s.power := rfl
@[simp] theorem State.send_floorVersion (s : State) (m : Msg) : (s.send m).floorVersion = s.floorVersion := rfl
@[simp] theorem State.send_floorDigest (s : State) (m : Msg) : (s.send m).floorDigest = s.floorDigest := rfl
@[simp] theorem State.send_floorChange (s : State) (m : Msg) : (s.send m).floorChange = s.floorChange := rfl
@[simp] theorem State.send_ports (s : State) (m : Msg) : (s.send m).ports = s.ports := rfl
@[simp] theorem State.send_parts (s : State) (m : Msg) : (s.send m).parts = s.parts := rfl
@[simp] theorem State.send_tiles (s : State) (m : Msg) : (s.send m).tiles = s.tiles := rfl
@[simp] theorem State.send_clusters (s : State) (m : Msg) : (s.send m).clusters = s.clusters := rfl
@[simp] theorem State.send_unitSleep (s : State) (m : Msg) : (s.send m).unitSleep = s.unitSleep := rfl
@[simp] theorem State.send_served (s : State) (m : Msg) : (s.send m).served = s.served := rfl
@[simp] theorem State.send_slab (s : State) (m : Msg) : (s.send m).slab = s.slab := rfl
@[simp] theorem State.send_slabUe (s : State) (m : Msg) : (s.send m).slabUe = s.slabUe := rfl
@[simp] theorem State.send_hbm (s : State) (m : Msg) : (s.send m).hbm = s.hbm := rfl
@[simp] theorem State.send_hbmUe (s : State) (m : Msg) : (s.send m).hbmUe = s.hbmUe := rfl
@[simp] theorem State.send_host (s : State) (m : Msg) : (s.send m).host = s.host := rfl
@[simp] theorem State.send_commitQ (s : State) (m : Msg) : (s.send m).commitQ = s.commitQ := rfl
@[simp] theorem State.send_arrivals (s : State) (m : Msg) : (s.send m).arrivals = s.arrivals := rfl
@[simp] theorem State.send_verified (s : State) (m : Msg) : (s.send m).verified = s.verified := rfl
@[simp] theorem State.send_linksFenced (s : State) (m : Msg) : (s.send m).linksFenced = s.linksFenced := rfl
@[simp] theorem State.send_replays (s : State) (m : Msg) : (s.send m).replays = s.replays := rfl
@[simp] theorem State.send_deviceYX (s : State) (m : Msg) : (s.send m).deviceYX = s.deviceYX := rfl
@[simp] theorem State.send_mgmtQueue (s : State) (m : Msg) : (s.send m).mgmtQueue = s.mgmtQueue := rfl
@[simp] theorem State.send_eid (s : State) (m : Msg) : (s.send m).eid = s.eid := rfl
@[simp] theorem State.send_tid (s : State) (m : Msg) : (s.send m).tid = s.tid := rfl
@[simp] theorem State.send_fu (s : State) (m : Msg) : (s.send m).fu = s.fu := rfl
@[simp] theorem State.send_mgmtSession (s : State) (m : Msg) : (s.send m).mgmtSession = s.mgmtSession := rfl
@[simp] theorem State.send_mgmtSessionNo (s : State) (m : Msg) : (s.send m).mgmtSessionNo = s.mgmtSessionNo := rfl
@[simp] theorem State.send_tap (s : State) (m : Msg) : (s.send m).tap = s.tap := rfl
@[simp] theorem State.send_rdata (s : State) (m : Msg) : (s.send m).rdata = s.rdata := rfl
@[simp] theorem State.send_msgs (s : State) (m : Msg) : (s.send m).msgs = s.msgs ++ [m] := rfl
@[simp] theorem State.send_pending (s : State) (m : Msg) : (s.send m).pending = s.pending := rfl
@[simp] theorem State.send_free (s : State) (m : Msg) : (s.send m).free = s.free := rfl

@[simp] theorem State.logMoraine_orderCode (s : State) (k part : Nat) (w d : BitVec 64) :
    (s.logMoraine k part w d).orderCode = s.orderCode := rfl
@[simp] theorem State.logMoraine_porN (s : State) (k part : Nat) (w d : BitVec 64) :
    (s.logMoraine k part w d).porN = s.porN := rfl
@[simp] theorem State.logMoraine_floorSel (s : State) (k part : Nat) (w d : BitVec 64) :
    (s.logMoraine k part w d).floorSel = s.floorSel := rfl
@[simp] theorem State.logMoraine_bootSrc (s : State) (k part : Nat) (w d : BitVec 64) :
    (s.logMoraine k part w d).bootSrc = s.bootSrc := rfl
@[simp] theorem State.logMoraine_pwrbrkN (s : State) (k part : Nat) (w d : BitVec 64) :
    (s.logMoraine k part w d).pwrbrkN = s.pwrbrkN := rfl
@[simp] theorem State.logMoraine_vrhotN (s : State) (k part : Nat) (w d : BitVec 64) :
    (s.logMoraine k part w d).vrhotN = s.vrhotN := rfl
@[simp] theorem State.logMoraine_ppsIn (s : State) (k part : Nat) (w d : BitVec 64) :
    (s.logMoraine k part w d).ppsIn = s.ppsIn := rfl
@[simp] theorem State.logMoraine_thermtripN (s : State) (k part : Nat) (w d : BitVec 64) :
    (s.logMoraine k part w d).thermtripN = s.thermtripN := rfl
@[simp] theorem State.logMoraine_boot (s : State) (k part : Nat) (w d : BitVec 64) :
    (s.logMoraine k part w d).boot = s.boot := rfl
@[simp] theorem State.logMoraine_flash (s : State) (k part : Nat) (w d : BitVec 64) :
    (s.logMoraine k part w d).flash = s.flash := rfl
@[simp] theorem State.logMoraine_ledger (s : State) (k part : Nat) (w d : BitVec 64) :
    (s.logMoraine k part w d).ledger = s.ledger := rfl
@[simp] theorem State.logMoraine_ledgerChanges (s : State) (k part : Nat) (w d : BitVec 64) :
    (s.logMoraine k part w d).ledgerChanges = s.ledgerChanges := rfl
@[simp] theorem State.logMoraine_moraineSeq (s : State) (k part : Nat) (w d : BitVec 64) :
    (s.logMoraine k part w d).moraineSeq = s.moraineSeq + 1 := rfl
@[simp] theorem State.logMoraine_starts (s : State) (k part : Nat) (w d : BitVec 64) :
    (s.logMoraine k part w d).starts = s.starts := rfl
@[simp] theorem State.logMoraine_time (s : State) (k part : Nat) (w d : BitVec 64) :
    (s.logMoraine k part w d).time = s.time := rfl
@[simp] theorem State.logMoraine_cntMeshReplay (s : State) (k part : Nat) (w d : BitVec 64) :
    (s.logMoraine k part w d).cntMeshReplay = s.cntMeshReplay := rfl
@[simp] theorem State.logMoraine_cntPpsIgnored (s : State) (k part : Nat) (w d : BitVec 64) :
    (s.logMoraine k part w d).cntPpsIgnored = s.cntPpsIgnored := rfl
@[simp] theorem State.logMoraine_power (s : State) (k part : Nat) (w d : BitVec 64) :
    (s.logMoraine k part w d).power = s.power := rfl
@[simp] theorem State.logMoraine_floorVersion (s : State) (k part : Nat) (w d : BitVec 64) :
    (s.logMoraine k part w d).floorVersion = s.floorVersion := rfl
@[simp] theorem State.logMoraine_floorDigest (s : State) (k part : Nat) (w d : BitVec 64) :
    (s.logMoraine k part w d).floorDigest = s.floorDigest := rfl
@[simp] theorem State.logMoraine_floorChange (s : State) (k part : Nat) (w d : BitVec 64) :
    (s.logMoraine k part w d).floorChange = s.floorChange := rfl
@[simp] theorem State.logMoraine_ports (s : State) (k part : Nat) (w d : BitVec 64) :
    (s.logMoraine k part w d).ports = s.ports := rfl
@[simp] theorem State.logMoraine_parts (s : State) (k part : Nat) (w d : BitVec 64) :
    (s.logMoraine k part w d).parts = s.parts := rfl
@[simp] theorem State.logMoraine_tiles (s : State) (k part : Nat) (w d : BitVec 64) :
    (s.logMoraine k part w d).tiles = s.tiles := rfl
@[simp] theorem State.logMoraine_clusters (s : State) (k part : Nat) (w d : BitVec 64) :
    (s.logMoraine k part w d).clusters = s.clusters := rfl
@[simp] theorem State.logMoraine_unitSleep (s : State) (k part : Nat) (w d : BitVec 64) :
    (s.logMoraine k part w d).unitSleep = s.unitSleep := rfl
@[simp] theorem State.logMoraine_served (s : State) (k part : Nat) (w d : BitVec 64) :
    (s.logMoraine k part w d).served = s.served := rfl
@[simp] theorem State.logMoraine_slab (s : State) (k part : Nat) (w d : BitVec 64) :
    (s.logMoraine k part w d).slab = s.slab := rfl
@[simp] theorem State.logMoraine_slabUe (s : State) (k part : Nat) (w d : BitVec 64) :
    (s.logMoraine k part w d).slabUe = s.slabUe := rfl
@[simp] theorem State.logMoraine_hbm (s : State) (k part : Nat) (w d : BitVec 64) :
    (s.logMoraine k part w d).hbm = s.hbm := rfl
@[simp] theorem State.logMoraine_hbmUe (s : State) (k part : Nat) (w d : BitVec 64) :
    (s.logMoraine k part w d).hbmUe = s.hbmUe := rfl
@[simp] theorem State.logMoraine_host (s : State) (k part : Nat) (w d : BitVec 64) :
    (s.logMoraine k part w d).host = s.host := rfl
@[simp] theorem State.logMoraine_commitQ (s : State) (k part : Nat) (w d : BitVec 64) :
    (s.logMoraine k part w d).commitQ = s.commitQ := rfl
@[simp] theorem State.logMoraine_arrivals (s : State) (k part : Nat) (w d : BitVec 64) :
    (s.logMoraine k part w d).arrivals = s.arrivals := rfl
@[simp] theorem State.logMoraine_verified (s : State) (k part : Nat) (w d : BitVec 64) :
    (s.logMoraine k part w d).verified = s.verified := rfl
@[simp] theorem State.logMoraine_linksFenced (s : State) (k part : Nat) (w d : BitVec 64) :
    (s.logMoraine k part w d).linksFenced = s.linksFenced := rfl
@[simp] theorem State.logMoraine_replays (s : State) (k part : Nat) (w d : BitVec 64) :
    (s.logMoraine k part w d).replays = s.replays := rfl
@[simp] theorem State.logMoraine_deviceYX (s : State) (k part : Nat) (w d : BitVec 64) :
    (s.logMoraine k part w d).deviceYX = s.deviceYX := rfl
@[simp] theorem State.logMoraine_mgmtQueue (s : State) (k part : Nat) (w d : BitVec 64) :
    (s.logMoraine k part w d).mgmtQueue = s.mgmtQueue := rfl
@[simp] theorem State.logMoraine_eid (s : State) (k part : Nat) (w d : BitVec 64) :
    (s.logMoraine k part w d).eid = s.eid := rfl
@[simp] theorem State.logMoraine_tid (s : State) (k part : Nat) (w d : BitVec 64) :
    (s.logMoraine k part w d).tid = s.tid := rfl
@[simp] theorem State.logMoraine_fu (s : State) (k part : Nat) (w d : BitVec 64) : (s.logMoraine k part w d).fu = s.fu := rfl
@[simp] theorem State.logMoraine_mgmtSession (s : State) (k part : Nat) (w d : BitVec 64) :
    (s.logMoraine k part w d).mgmtSession = s.mgmtSession := rfl
@[simp] theorem State.logMoraine_mgmtSessionNo (s : State) (k part : Nat) (w d : BitVec 64) :
    (s.logMoraine k part w d).mgmtSessionNo = s.mgmtSessionNo := rfl
@[simp] theorem State.logMoraine_tap (s : State) (k part : Nat) (w d : BitVec 64) :
    (s.logMoraine k part w d).tap = s.tap := rfl
@[simp] theorem State.logMoraine_rdata (s : State) (k part : Nat) (w d : BitVec 64) :
    (s.logMoraine k part w d).rdata = s.rdata := rfl
@[simp] theorem State.logMoraine_msgs (s : State) (k part : Nat) (w d : BitVec 64) :
    (s.logMoraine k part w d).msgs = s.msgs := rfl
@[simp] theorem State.logMoraine_pending (s : State) (k part : Nat) (w d : BitVec 64) :
    (s.logMoraine k part w d).pending = s.pending := rfl
@[simp] theorem State.logMoraine_free (s : State) (k part : Nat) (w d : BitVec 64) :
    (s.logMoraine k part w d).free = s.free := rfl

end Sys2Proof.Machine
end

