-- ==== Sys2Proof/Laws/Ops.lean ====
section
/-! SUPPORT. What the shared operations can do, said once each: memory writes keep safe states safe; posting events changes what
OnlyPosted says; a ledger change gives the word a generation other than 0; completions of items. -/

namespace Sys2Proof

open Machine

/-! ## Safe states -/

theorem memoriesOk_iff (s : State) :
    memoriesOk s = true ↔ s.slab.wf = true ∧ s.host.wf = true ∧ s.hbm.sorted = true := by
  simp [memoriesOk, and_assoc]

theorem Machine.State.slabPut_memoriesOk (s : State) (t off : Nat) (bs : List Byte) (h : memoriesOk s = true) :
    memoriesOk (s.slabPut t off bs) = true := by
  rw [memoriesOk_iff] at h ⊢
  exact ⟨Mem.wf_sets bs _ _ h.1, h.2⟩

theorem Machine.State.slabZero_memoriesOk (s : State) (t off n : Nat) (h : memoriesOk s = true) :
    memoriesOk (s.slabZero t off n) = true := by
  rw [memoriesOk_iff] at h ⊢
  exact ⟨Mem.wf_clear _ _ _ h.1, h.2⟩

theorem Machine.State.hbmPut_memoriesOk (s : State) (p : Port) (k off : Nat) (bs : List Byte) (h : memoriesOk s = true) :
    memoriesOk (s.hbmPut p k off bs) = true := by
  rw [memoriesOk_iff] at h ⊢
  exact ⟨h.1, h.2.1, Mem.sorted_puts bs _ _ h.2.2⟩

theorem Machine.State.hostPut_memoriesOk (s : State) (p : Port) (a : Nat) (bs : List Byte) (h : memoriesOk s = true) :
    memoriesOk (s.hostPut p a bs) = true := by
  rw [memoriesOk_iff] at h ⊢
  exact ⟨h.1, Mem.wf_sets bs _ _ h.2.1, h.2.2⟩

/-- Safety reads the memories, the limits and the ledger alone. -/
theorem Safe.of_same {s t : State} (h : Safe s) (slab : t.slab = s.slab) (hbm : t.hbm = s.hbm) (host : t.host = s.host)
    (power : t.power = s.power) (ledger : t.ledger = s.ledger) : Safe t := by
  unfold Safe memoriesOk powerOk ledgerOk at *
  rw [slab, hbm, host, power, ledger]
  exact h

/-! ## Posting events -/

theorem OnlyPosted.refl (s : State) : OnlyPosted s s := ⟨rfl, fun _ => ⟨rfl, fun _ => rfl⟩⟩

theorem OnlyPosted.trans {s t u : State} (a : OnlyPosted s t) (b : OnlyPosted t u) : OnlyPosted s u := by
  refine ⟨?_, fun p => ?_⟩
  · rw [b.1, a.1]
  · obtain ⟨a1, a2⟩ := a.2 p
    obtain ⟨b1, b2⟩ := b.2 p
    refine ⟨?_, fun f => ?_⟩
    · rw [b1, a1]
    · rw [b2 f, a2 f]

/-- Posting leaves safe states safe. -/
theorem OnlyPosted.safe {s t : State} (h : OnlyPosted s t) (k : Safe s) : Safe t := by
  refine k.of_same ?_ ?_ ?_ ?_ ?_ <;> rw [h.1]

/-- Posting moves no command. -/
theorem OnlyPosted.pending {s t : State} (h : OnlyPosted s t) : t.pending = s.pending := by rw [h.1]

/-- Messages alone. -/
theorem OnlyPosted.of_msgs (s : State) (ms : List Msg) : OnlyPosted s { s with msgs := ms } :=
  ⟨rfl, fun _ => ⟨rfl, fun _ => rfl⟩⟩

/-- A change of one function in the fields that posting may change. -/
theorem OnlyPosted.of_updFn (s : State) (p : Port) (f : Func) (g : FnState → FnState)
    (h : g (s.fn p f) = { s.fn p f with
      evq := (g (s.fn p f)).evq, evLost := (g (s.fn p f)).evLost, portErr := (g (s.fn p f)).portErr
      msix := (g (s.fn p f)).msix, pmeStatus := (g (s.fn p f)).pmeStatus }) :
    OnlyPosted s (s.updFn p f g) := by
  refine ⟨rfl, fun r => ?_⟩
  by_cases e : r = p
  · subst e
    refine ⟨?_, fun x => ?_⟩
    · simp only [State.updFn_eq, State.updPort_self]
      rfl
    · by_cases e : x = f
      · subst e
        simp only [State.fn, State.updFn_eq, State.updPort_self, PortState.updFn_self] at h ⊢
        exact h
      · simp only [State.fn, State.updFn_eq, State.updPort_self, PortState.updFn_other _ _ e]
  · simp only [State.fn, State.updFn_eq, State.updPort_other s _ e]
    exact ⟨trivial, fun _ => trivial⟩

end Sys2Proof

namespace Sys2Proof.Machine

theorem State.signalMsix_posted (s : State) (p : Port) (f : Func) (v : Nat) : OnlyPosted s (s.signalMsix p f v) := by
  unfold State.signalMsix
  dsimp only
  split
  · exact OnlyPosted.refl s
  · split
    · exact OnlyPosted.of_updFn s p f _ rfl
    · exact OnlyPosted.of_msgs s _

theorem State.staging_posted (s : State) (p : Port) (g : List (Func × BitVec 64) → List (Func × BitVec 64)) :
    OnlyPosted s (s.updPort p fun q => { q with evStaging := g q.evStaging }) := by
  refine ⟨rfl, fun r => ?_⟩
  by_cases e : r = p
  · subst e
    simp only [State.fn, State.updPort_self]
    exact ⟨trivial, fun _ => trivial⟩
  · simp only [State.fn, State.updPort_other s _ e]
    exact ⟨trivial, fun _ => trivial⟩

theorem State.loseEvent_posted (s : State) (p : Port) (f : Func) : OnlyPosted s (s.loseEvent p f) :=
  OnlyPosted.of_updFn s p f _ rfl

theorem State.enterQueue_posted (s : State) (p : Port) (f : Func) (w : BitVec 64) : OnlyPosted s (s.enterQueue p f w) := by
  have step (b : Bool) (v : Nat) (x : State) : OnlyPosted x (if b then x.signalMsix p f v else x) := by
    cases b
    · exact OnlyPosted.refl x
    · exact x.signalMsix_posted p f v
  have entered (a : List (BitVec 64)) : OnlyPosted s (s.updFn p f fun x => { x with evq := x.evq ++ a }) :=
    OnlyPosted.of_updFn s p f _ rfl
  unfold State.enterQueue
  dsimp only
  split
  · exact s.loseEvent_posted p f
  · split
    · split
      · exact (((entered _).trans (step _ _ _)).trans (OnlyPosted.of_updFn _ p f _ rfl)).trans (OnlyPosted.of_msgs _ _)
      · exact ((entered _).trans (step _ _ _)).trans (OnlyPosted.of_updFn _ p f _ rfl)
    · exact (entered _).trans (step _ _ _)

theorem State.passEvents_posted (s : State) (p : Port) : OnlyPosted s (s.passEvents p) := by
  have all : ∀ (es : List (Func × BitVec 64)) (x : State), OnlyPosted x (es.foldl (fun a e => a.enterQueue p e.1 e.2) x) := by
    intro es
    induction es with
    | nil => exact OnlyPosted.refl
    | cons e es ih => exact fun x => (x.enterQueue_posted p e.1 e.2).trans (ih _)
  exact (s.staging_posted p fun _ => []).trans (all _ _)

theorem State.enqueueEvent_posted (s : State) (p : Port) (f : Func) (c : EventClass) (w : BitVec 64) :
    OnlyPosted s (s.enqueueEvent p f c w) := by
  unfold State.enqueueEvent
  split
  · exact OnlyPosted.refl s
  · split
    · exact (s.loseEvent_posted p f).trans (State.passEvents_posted _ p)
    · exact (s.staging_posted p fun q => q ++ [(f, w)]).trans (State.passEvents_posted _ p)

theorem State.logMoraine_posted (s : State) (k part : Nat) (w d : BitVec 64) : OnlyPosted s (s.logMoraine k part w d) :=
  ⟨rfl, fun _ => ⟨rfl, fun _ => rfl⟩⟩

theorem State.mgmtQueue_posted (s : State) (q : List (BitVec 64)) : OnlyPosted s { s with mgmtQueue := q } :=
  ⟨rfl, fun _ => ⟨rfl, fun _ => rfl⟩⟩

/-- Posting an event changes event queues and their pins, the management queue, the log and the messages, and nothing else. -/
theorem State.postEvent_posted (s : State) (c : EventClass) (u : UnitId) (detail : Nat) (dest : List (Port × Func))
    (part : Option Port) (tok : Nat) (log : Bool) : OnlyPosted s (s.postEvent c u detail dest part tok log) := by
  have all (w : BitVec 64) : ∀ (ds : List (Port × Func)) (x : State),
      OnlyPosted x (ds.foldl (fun a t => a.enqueueEvent t.1 t.2 c w) x) := by
    intro ds
    induction ds with
    | nil => exact OnlyPosted.refl
    | cons d ds ih => exact fun x => (x.enqueueEvent_posted d.1 d.2 c w).trans (ih _)
  have queued (b : Bool) (x : State) (q : List (BitVec 64)) : OnlyPosted x (if b then { x with mgmtQueue := q } else x) := by
    cases b
    · exact OnlyPosted.refl x
    · exact x.mgmtQueue_posted q
  have logged (b : Bool) (x : State) (k part : Nat) (w d : BitVec 64) :
      OnlyPosted x (if b then x.logMoraine k part w d else x) := by
    cases b
    · exact OnlyPosted.refl x
    · exact x.logMoraine_posted k part w d
  exact ((all _ dest s).trans (queued _ _ _)).trans (logged _ _ _ _ _ _)

theorem State.contained_posted (s : State) (u : UnitId) (cause loc : Nat) (who : List Port) :
    OnlyPosted s (s.contained u cause loc who) := by
  unfold State.contained
  exact State.postEvent_posted _ _ _ _ _ _ _ _

theorem State.postImageState_posted (s : State) (p : Port) (sub : Nat) : OnlyPosted s (s.postImageState p sub) := by
  unfold State.postImageState
  exact State.postEvent_posted _ _ _ _ _ _ _ _

/-! ## The ledger -/

theorem nextGen_ne_zero (g : BitVec 32) : nextGen g ≠ 0 := by
  unfold nextGen
  split
  · decide
  · rename_i h
    intro e
    apply h
    bv_omega

/-- The word that a change g of word w gives: a new generation where admin state, oper state, owner or fault changed. -/
def changedWord (g : LedgerWord → LedgerWord) (w : LedgerWord) : LedgerWord :=
  if (g w).admin != w.admin || (g w).oper != w.oper || (g w).owner != w.owner || (g w).fault != w.fault
  then { g w with gen := nextGen w.gen } else { g w with gen := w.gen }

/-- A ledger change sets the unit's word alone, counts, and posts. -/
theorem State.ledgerMod_does (s : State) (u : UnitId) (g : LedgerWord → LedgerWord) :
    ∃ n, OnlyPosted { s with ledger := s.ledger.set (Fin.ofNat 219 u.slot) (changedWord g (s.ledgerWord u)), ledgerChanges := n }
      (s.ledgerMod u g) := by
  have posted (b : Bool) (x : State) (d : Nat) (ds : List (Port × Func)) (part : Option Port) :
      OnlyPosted x (if b then x.postEvent .ledgerChange u d ds part else x) := by
    cases b
    · exact OnlyPosted.refl x
    · rw [if_pos rfl]
      exact x.postEvent_posted _ _ _ _ _ _ _
  exact ⟨_, posted _ _ _ _ _⟩

@[simp] theorem State.ledgerMod_ledger (s : State) (u : UnitId) (g : LedgerWord → LedgerWord) :
    (s.ledgerMod u g).ledger = s.ledger.set (Fin.ofNat 219 u.slot) (changedWord g (s.ledgerWord u)) := by
  obtain ⟨n, h⟩ := s.ledgerMod_does u g
  rw [h.1]

@[simp] theorem State.ledgerMod_self (s : State) (u : UnitId) (g : LedgerWord → LedgerWord) :
    (s.ledgerMod u g).ledgerWord u = changedWord g (s.ledgerWord u) := by
  simp [State.ledgerWord]

theorem State.ledgerMod_other (s : State) {u v : UnitId} (g : LedgerWord → LedgerWord)
    (h : (Fin.ofNat 219 v.slot) ≠ Fin.ofNat 219 u.slot) : (s.ledgerMod u g).ledgerWord v = s.ledgerWord v := by
  have : (Fin.ofNat 219 u.slot).val ≠ (Fin.ofNat 219 v.slot).val := fun e => h (Fin.ext e.symm)
  simp only [State.ledgerWord, State.ledgerMod_ledger, Fin.getElem_fin]
  rw [Vector.getElem_set_ne _ _ this]

theorem changedWord_gen (g : LedgerWord → LedgerWord) (w : LedgerWord) (h : w.gen ≠ 0) : (changedWord g w).gen ≠ 0 := by
  unfold changedWord
  split
  · exact nextGen_ne_zero _
  · exact h

theorem ledgerOk_iff (s : State) : ledgerOk s = true ↔ ∀ n : Fin 219, s.ledger[n].gen ≠ 0 := by
  unfold ledgerOk
  rw [List.all_eq_true]
  constructor
  · intro h n
    have := h s.ledger[n] (by simp)
    simpa using this
  · intro h w hw
    rw [Vector.mem_toList_iff, Vector.mem_iff_getElem] at hw
    obtain ⟨i, hi, rfl⟩ := hw
    simpa using h ⟨i, hi⟩

/-- A ledger change keeps safe states safe. -/
theorem State.ledgerMod_safe (s : State) (u : UnitId) (g : LedgerWord → LedgerWord) (h : Safe s) : Safe (s.ledgerMod u g) := by
  obtain ⟨n, k⟩ := s.ledgerMod_does u g
  refine k.safe ⟨h.1, h.2.1, ?_⟩
  rw [ledgerOk_iff]
  intro i
  have hl := (ledgerOk_iff s).1 h.2.2
  simp only [Fin.getElem_fin, Vector.getElem_set]
  split
  · exact changedWord_gen g _ (hl _)
  · exact hl i

theorem State.ledgerMod_pending (s : State) (u : UnitId) (g : LedgerWord → LedgerWord) :
    (s.ledgerMod u g).pending = s.pending := by
  obtain ⟨n, k⟩ := s.ledgerMod_does u g
  exact k.pending

/-! ## Items -/

/-- A change of an item that keeps its number is what the item then is. -/
theorem State.item?_updItem (s : State) (p : Port) (k : Nat) (g : Item → Item) (h : ∀ i, (g i).key = i.key) :
    (s.updItem p k g).item? p k = (s.item? p k).map g := by
  simp only [State.item?, State.updItem_eq, State.updPort_self, PortState.updItem_items, List.find?_map]
  have e : ((fun i : Item => i.key == k) ∘ fun i => if i.key == k then g i else i) = fun i => i.key == k := by
    funext i
    simp only [Function.comp]
    split
    · rename_i q
      rw [h i]
    · rfl
  rw [e]
  cases q : List.find? (fun i : Item => i.key == k) s.ports[p].items with
  | none => rfl
  | some i =>
    have : i.key = k := by simpa using List.find?_some q
    simp [this]

/-- Other items are as they were. -/
theorem State.item?_updItem_other (s : State) (p : Port) {k n : Nat} (g : Item → Item) (h : ∀ i, (g i).key = i.key)
    (ne : n ≠ k) : (s.updItem p k g).item? p n = s.item? p n := by
  simp only [State.item?, State.updItem_eq, State.updPort_self, PortState.updItem_items, List.find?_map]
  have e : ((fun i : Item => i.key == n) ∘ fun i => if i.key == k then g i else i) = fun i => i.key == n := by
    funext i
    simp only [Function.comp]
    split
    · rw [h i]
    · rfl
  rw [e]
  cases q : List.find? (fun i : Item => i.key == n) s.ports[p].items with
  | none => rfl
  | some i =>
    have : i.key = n := by simpa using List.find?_some q
    have : ¬i.key = k := by omega
    simp [this]

end Sys2Proof.Machine
end

