-- ==== Sys2Proof/Laws/Items.lean ====
section
/-! SUPPORT. What ending an item does, what a store through a place does, and folds that keep a property. -/

namespace Sys2Proof.Machine

/-- The item in service, as serving finds it. -/
theorem State.serving_spec {s : State} {p : Port} {k op : Nat} {i : Item} (h : s.serving p k op = some i) :
    s.item? p k = some i ∧ i.st = .inService ∧ i.opcode = op := by
  unfold State.serving at h
  split at h
  · rename_i j hj
    split at h
    · rename_i c
      cases h
      simp only [Bool.and_eq_true, beq_iff_eq] at c
      exact ⟨hj, c.1, c.2⟩
    · cases h
  · cases h

/-- An item's key is the one it is looked up by. -/
theorem State.item?_key {s : State} {p : Port} {k : Nat} {i : Item} (h : s.item? p k = some i) : i.key = k := by
  simpa using List.find?_some h

theorem State.finish_item? (s : State) (p : Port) (k : Nat) (st : Status) (r0 r1 : Nat) :
    (s.finish p k st r0 r1).item? p k = (s.item? p k).map fun i =>
      { i with st := .completing, status := st, r0 := BitVec.ofNat 32 r0, r1 := BitVec.ofNat 32 r1 } := by
  unfold State.finish
  exact s.item?_updItem p k _ fun _ => rfl

/-- Ending an item in service makes it COMPLETING with the status and the results, and changes no other item. -/
theorem State.finishService_completes {s : State} {p : Port} {k : Nat} {i : Item} (st : Status) (r0 r1 : Nat)
    (h : s.item? p k = some i) (hs : i.st = .inService) : Completed p k st r0 r1 (s.finishService p k st r0 r1) := by
  have e : s.finishService p k st r0 r1 = s.finish p k st r0 r1 := by
    unfold State.finishService
    rw [h]
    simp [hs]
  refine ⟨{ i with st := .completing, status := st, r0 := BitVec.ofNat 32 r0, r1 := BitVec.ofNat 32 r1 }, ?_, rfl, rfl, rfl, rfl⟩
  rw [e, s.finish_item? p k st r0 r1, h]
  rfl

/-- Ending an item changes that item of that port alone. -/
theorem State.finishService_only (s : State) (p : Port) (k : Nat) (st : Status) (r0 r1 : Nat) :
    OnlyItem p k s (s.finishService p k st r0 r1) := by
  have same : s = s.updItem p k id := by
    have e (q : PortState) : q.updItem k id = q := by simp [PortState.updItem]
    have v : s.ports.set p s.ports[p] = s.ports := by
      ext n hn
      simp only [Vector.getElem_set]
      split
      · rename_i h
        simp [Fin.getElem_fin, h]
      · rfl
    simp only [State.updItem, State.updPort, e, v]
  unfold State.finishService
  split
  · split
    · exact ⟨_, rfl⟩
    · exact ⟨id, same⟩
  · exact ⟨id, same⟩

/-- Engine results that a completed item shows reach only its port. -/
theorem State.finishService_memory (s : State) (p : Port) (k : Nat) (st : Status) (r0 r1 : Nat) :
    SameMemory s (s.finishService p k st r0 r1) := by
  obtain ⟨g, h⟩ := s.finishService_only p k st r0 r1
  rw [h]
  exact ⟨rfl, rfl, rfl⟩

/-! ## Stores -/

theorem State.writePlace_memoriesOk (s : State) (p : Port) (x : Place3) (bs : List Byte) (h : memoriesOk s = true) :
    memoriesOk (s.writePlace p x bs) = true := by
  cases x with
  | host a => exact s.hostPut_memoriesOk p a bs h
  | slab t off => exact s.slabPut_memoriesOk t off bs h
  | hbm k off => exact s.hbmPut_memoriesOk p k off bs h
  | bad => exact h

/-- A store changes memories and error marks alone. -/
theorem State.writePlace_only (s : State) (p : Port) (x : Place3) (bs : List Byte) :
    s.writePlace p x bs = { s with
      slab := (s.writePlace p x bs).slab, slabUe := (s.writePlace p x bs).slabUe, hbm := (s.writePlace p x bs).hbm
      hbmUe := (s.writePlace p x bs).hbmUe, host := (s.writePlace p x bs).host } := by
  cases x <;> rfl

theorem State.writePlace_safe (s : State) (p : Port) (x : Place3) (bs : List Byte) (h : Safe s) :
    Safe (s.writePlace p x bs) := by
  refine ⟨s.writePlace_memoriesOk p x bs h.1, ?_, ?_⟩
  · have := h.2.1
    unfold powerOk at *
    rw [State.writePlace_only]
    exact this
  · have := h.2.2
    unfold ledgerOk at *
    rw [State.writePlace_only]
    exact this

/-! ## Folds -/

/-- A fold keeps what each of its steps keeps. -/
theorem foldl_keeps {α β : Type} (P : β → Prop) (g : β → α → β) (h : ∀ b a, P b → P (g b a)) :
    ∀ (l : List α) (b : β), P b → P (l.foldl g b) := by
  intro l
  induction l with
  | nil => exact fun b hb => hb
  | cons a l ih => exact fun b hb => ih _ (h b a hb)

/-! ## The state after reset -/

/-- The memories of State.reset are in canonical form. -/
theorem reset_memoriesOk : memoriesOk State.reset = true := rfl

end Sys2Proof.Machine
end

