-- ==== Sys2Proof/Tests/Slice0.lean ====
section
/-! SUPPORT. Tests: ill-formed terms that WellFormed refuses; for every statement with hypotheses a state that meets them
(`wit_…`, named after the statement); small tests of one step (`test_…`) whose results come from the spec's rules and tables. -/

set_option Elab.async false

/-! ## States -/

namespace Sys2Proof.Machine

/-- A state with these items in port 0. -/
def State.withItems (s : State) (is : List Item) : State := s.updPort 0 fun q => { q with items := is, fetchNo := is.length }

end Sys2Proof.Machine

namespace Sys2Proof.Tests

open Sys2Proof.Machine

/-- The state after a command. -/
def after (c : Instr) (s : State) : State :=
  match exec c s with
  | .next t => t
  | _ => s

/-- The state after commands in turn. -/
def afterAll (cs : List Instr) (s : State) : State := cs.foldl (fun a c => after c a) s

/-- A PLACE record that owns every cluster and 1 GiB of each stack. -/
def place0 : Place :=
  { retain := false, bar4 := true, datVcs := 3, vfCount := 2, clusters := 0xFFFF, qpPf := 4, qpVf := 2, hbmBase := 0
    hbmSize := 1, hbmWeight := 1, decodeWeight := 1, compressWeight := 1, gatherWeight := 1, msixPf := 4, msixVf := 2
    admission := 64, flows := 64, firnRows := 0, keyHash := [] }

/-- A SCHED record: pipeline n with an entry type and unit, every opcode allowed. -/
def sched (n ty unit : Nat) : Sched :=
  { pipeline := n, entryType := ty, entryUnit := unit, classes := 15, admission := 64, flows := 64, cont := false
    opcodes := 2 ^ 32 - 1 }

/-- An image with one pipeline. -/
def image0 : PartImage :=
  { version := 1, digest := zeroDigest, progs := [], consts := [], routes := [], quotas := [], fifos := []
    scheds := [sched 0 6 0xFF], plans := [], gathers := [], warps := [], powers := [], raw := [] }

def shape0 : Shape := { vfCount := 2, qpPf := 4, qpVf := 2, msixPf := 4, msixVf := 2, bar4 := true }

/-- A 16-entry queue pair, rings at 0x10000 and 0x20000. -/
def qp0 : QueuePair :=
  { QueuePair.reset with
    sqBase := 0x10000, sqSize := 16, cqBase := 0x20000, cqSize := 16, st := .enabled, phase := true }

def runWord : LedgerWord := { LedgerWord.reset with oper := .run, owner := 0 }

/-- A ready device: every unit in RUN, port 0 linked with queue pair 0 enabled, partition 0 present and LOADED. -/
def live : State :=
  let s := State.reset
  let s := { s with
    boot := { s.boot with
      ready := true, fwRunning := true, ledgerInit := true, aonClock := true, modules := true, cold := false }
    ledger := Vector.replicate 219 runWord }
  let s := s.updPort 0 fun q => { q with
    phyUp := true, linkUp := true, perstN := true, lanes := 16, rate := 6, shape := shape0 }
  let s := s.updQp 0 0 0 fun _ => qp0
  s.updPart 0 fun x => { x with place := some place0, pstate := .loaded, image := some image0 }

/-- Every rail is on and the cap loop runs. -/
def railed : State := { live with
  boot := { live.boot with railsOn := 6, floorChecked := true, hbmPairs := 4 }
  power := { live.power with capSetting := 9 } }

/-- A descriptor (Table 13.2): opcode, flag byte, token, pipeline, flow, then fields as offset, length and value. -/
def desc (op flags token pipeline flow : Nat) (rest : List (Nat × Nat × Nat)) : List Byte :=
  let base := leBytes 1 op ++ leBytes 1 flags ++ leBytes 1 pipeline ++ leBytes 1 0 ++ leBytes 4 token ++ leBytes 3 flow ++
    leBytes 1 0 ++ leBytes 4 0
  (List.range 64).map fun k =>
    match rest.find? fun t => t.1 ≤ k && k < t.1 + t.2.1 with
    | some (o, _, v) => BitVec.ofNat 8 (v / 256 ^ (k - o))
    | none => (base[k]?).getD 0

/-- The item of such a descriptor, fetched as the k-th from queue pair 0 of port 0's PF. -/
def item (k : Nat) (d : List Byte) (st : ItemState) : Item :=
  { live.newItem 0 0 0 d with key := k, st := st, seq := if isPortOp (field d 0 1) then none else some k }

/-- A NOP, a GATHER of table 0, an ABORT of the item with token 8 and an EPOCH_SET. -/
def nopD : List Byte := desc 0 0 7 0 0 []
def gatherD : List Byte := desc 4 0 8 0 0 [(16, 8, 0x100), (24, 8, 0x2000), (32, 8, 0x3000), (40, 4, 1), (48, 4, 4)]
def abortD : List Byte := desc opAbort 0 9 0 0 [(16, 4, 8)]
def epochD : List Byte := desc opEpochSet 0 7 0 0 [(16, 8, 0x1122334455667788), (24, 4, 5), (32, 8, 1000)]

/-- A queue pair that is not DISABLED has its pointers in its rings. -/
def pairOk (q : QueuePair) : Bool :=
  q.st == .disabled || (q.sqHead < q.sqSize && q.sqTail < q.sqSize && q.cqHead < q.cqSize && q.cqTail < q.cqSize)

/-- The queue pairs are in order when each of them is. -/
theorem queuesOk_of (s : State)
    (h : (s.ports.toList.all fun q => q.fns.toList.all fun x => x.qps.toList.all pairOk) = true) : QueuesOk s := by
  intro p f n hd
  simp only [List.all_eq_true] at h
  have hq := h s.ports[p] (by simp) (s.fn p f) (by simp [State.fn]) (s.qp p f n) (by simp [State.qp])
  simp only [pairOk, Bool.or_eq_true, beq_iff_eq, Bool.and_eq_true, decide_eq_true_eq] at hq
  rcases hq with hq | ⟨⟨⟨h1, h2⟩, h3⟩, h4⟩
  · exact absurd hq hd
  · exact ⟨h1, h2, h3, h4⟩

/-! ## Words that decode, and terms that are ill formed -/

/-- The table of this block gives no command bits, so no word spells a command. -/
theorem test_no_word_decodes : (decodeTableWord 8 0x00, decodeTableWord 64 0xFFFF) = (none, none) := by decide

/-- With no command spelled, no word changes the queue. -/
theorem test_fetch_word_kept : (State.reset.withFetchWord 8 1).pending = [] := by decide +kernel

theorem test_wf_queue : Instr.wf (.bqDisable 0 64) = false ∧ Instr.wf (.sqTail 0 0 64 0) = false ∧
    Instr.wf (.sqTail 0 0 63 0) = true := by decide
theorem test_wf_domain : Instr.wf (.thawDone (.unit ⟨.hbm, 0⟩)) = false ∧ Instr.wf (.sleepEntryDone (.unit ⟨.port, 0⟩)) = false ∧
    Instr.wf (.thawDone (.unit ⟨.decode, 0⟩)) = true := by decide
theorem test_wf_unit : Instr.wf (.adminDrainEnd ⟨.tile, 128⟩) = false ∧ Instr.wf (.unitIdleEntry ⟨.tile, 127⟩) = true := by
  decide
theorem test_wf_window : Instr.wf (.bar4Read 0 0 0) = false ∧ Instr.wf (.bar4Read 0 0 513) = false ∧
    Instr.wf (.bar4Write 0 67108863 [1, 2]) = false ∧ Instr.wf (.bar4Read 0 67108863 1) = true := by decide
theorem test_wf_register : Instr.wf (.registerWrite 0 0 4 .w8 0) = false ∧ Instr.wf (.registerWrite 0 0 2 .w4 0) = false ∧
    Instr.wf (.registerWrite 0 0 16777216 .w8 0) = false ∧ Instr.wf (.registerWrite 0 0 8 .w8 0) = true := by decide
theorem test_wf_request : Instr.wf (.powerSet (.mbx 0) (List.replicate 2049 0)) = false := by decide +kernel
/-- A message from the stop of tile 0 to that of HBM stack 0's. -/
def msg0 (arg : Nat) : MeshMsg := { part := 0, src := 0, dst := 1, vc := 0, tag := 0, addr := 0, arg := BitVec.ofNat 16 arg }

theorem test_wf_mesh : Instr.wf (.read (msg0 32)) = false ∧ Instr.wf (.read (msg0 1088)) = false ∧
    Instr.wf (.read (msg0 96)) = false ∧ Instr.wf (.write (msg0 64) []) = false ∧
    Instr.wf (.writeAck { msg0 0 with part := 7 }) = false ∧ Instr.wf (.datPush (msg0 0) 0 []) = false ∧
    Instr.wf (.read (msg0 1024)) = true := by decide
theorem test_wf_error : Instr.wf (.errorDetected (.slab 0 20971520 true)) = false ∧
    Instr.wf (.errorDetected (.check ⟨.fabric, 0⟩)) = false ∧ Instr.wf (.errorDetected (.cqWrite 0 0 64)) = false ∧
    Instr.wf (.errorDetected (.sram ⟨.gather, 99⟩ true)) = false := by decide
theorem test_wf_sensors : Instr.wf (.sensorSample []) = false ∧ Instr.wf (.hbmSensorRead []) = false ∧
    Instr.wf (.pmbusTelemetry []) = false ∧ Instr.wf (.thermalTrip 36 0) = false ∧
    Instr.wf (.pmbusStatusPoll 0x46 .failed) = false ∧ Instr.wf (.l1Entry 0 3) = false := by decide

/-! ## Time -/

theorem test_set_waits : (after (.set .mgmt 5) { live with floorSel := 7 }).time.writes = [5] := by decide +kernel
theorem test_crystal_adds_40ns : (after (.crystalEdge false) live).deviceTime = 40 := by decide +kernel
theorem test_step_back : (after (.crystalEdge false) { live with time := { live.time with
    acc := BitVec.ofNat 96 (100 * 2 ^ 32), writes := [0x1FFFFFFFFFFFFFFF] } }).deviceTime = 139 := by decide +kernel
theorem test_rate_over_limit_kept : (after (.crystalEdge false) { live with time := { live.time with
    writes := [0x3000000000000000 + 34359739, 0x3000000000000000] } }).time.a = 0 := by decide +kernel
theorem test_pps_servo : let t := (after .ppsEdge { live with time := { live.time with
    discipline := true, rise := some (5000000200, false) } }).time
    (t.i, t.a, t.goodEdges) = (-8600, -25800, 0) := by decide +kernel
theorem test_pps_level_is_no_edge : (after (.crystalEdge true) live).time.rise = some (40, false) ∧
    (after .ppsEdge (after (.crystalEdge true) (after .ppsEdge (after (.crystalEdge true) live)))).time.lastEdge = some 40 := by
  decide +kernel

/-- A live device whose management path owns the time base. -/
def timed : State := { live with floorSel := 7, time := { live.time with acc := BitVec.ofNat 96 (2000000000 * 2 ^ 32) } }

theorem wit_TimeAdjWordsWaitForTheEdge : mayAdjustTime timed .mgmt = true ∧ timed.fnExists 0 0 = true ∧
    timed.isTimeOwner (.fn 0 0) = false := by decide +kernel
theorem wit_CrystalEdge_none : timed.porN = true ∧ timed.time.servoStep = none ∧ timed.time.writes = [] := by decide +kernel
/-- A TIME_ADJ word with this OP waits. -/
def adjusting (op : Nat) : State := { timed with time := { timed.time with writes := [BitVec.ofNat 4 op ++ (7 : BitVec 60)] } }
theorem wit_CrystalEdge_each : ∀ op : Fin 6, (adjusting op.val).porN = true ∧ (adjusting op.val).time.servoStep = none ∧
    (adjusting op.val).time.writes = [BitVec.ofNat 4 op.val ++ (7 : BitVec 60)] := by decide +kernel
/-- The time of a rise of PPS_IN with this phase. -/
def riseAt (phi : Nat) : BitVec 64 := BitVec.ofNat 64 (2000000000 + phi)
/-- A rise waits; the last accepted edge lies ns before it, with this phase, servo and SET_AT_PPS. -/
def edged (ns : Nat) (phi : Nat) (servo : Bool) (sec : Option Nat) : State := { timed with time := { timed.time with
  acc := BitVec.ofNat 96 ((2000000000 + phi) * 2 ^ 32), lastEdge := some (BitVec.ofNat 64 (2000000000 + phi - ns))
  discipline := servo, ppsPending := sec, rise := some (riseAt phi, false) } }
theorem wit_Pps_early : let s := edged 899999999 0 true none
    s.time.rise = some (riseAt 0, false) ∧ live.time.rise = none ∧
    ∃ e, s.time.lastEdge = some e ∧ (riseAt 0 - e).toInt < 900000000 :=
  ⟨by decide +kernel, by decide +kernel, _, rfl, by decide +kernel⟩
theorem wit_Pps_taken : ∀ x ∈ [(edged 900000000 0 false (some 3), 0), (edged 900000000 0 false none, 0),
      (edged 900000000 1000001 true none, 1000001), (edged 900000000 1000000 true none, 1000000),
      (edged 900000000 100 true none, 100)],
    x.1.time.rise = some (riseAt x.2, false) ∧ (riseAt x.2).toNat % 1000000000 = x.2 ∧
    (x.1.time.lastEdge.all fun e => decide (900000000 ≤ (riseAt x.2 - e).toInt)) = true := by
  decide +kernel
theorem wit_Pps_pending : (edged 900000000 0 false (some 3)).time.ppsPending = some 3 ∧
    (edged 900000000 0 false none).time.discipline = false ∧ (edged 900000000 100 true none).time.discipline = true ∧
    live.boot.aonClock = true ∧ live.ppsIn = false := by decide +kernel
theorem wit_Clock_holdover : let s := edged 1100000000 0 true none
    s.time.lastEdge = some 900000000 ∧ s.time.holdover = false ∧ 1100000000 ≤ (s.deviceTime - 900000000).toInt := by
  decide +kernel
theorem wit_Clock_servo : let s := { timed with time := { timed.time with servoStep := some 1000001 } }
    s.porN = true ∧ s.time.writes = [] ∧ s.time.servoStep = some 1000001 := by decide +kernel
theorem wit_Clock_reads : let s := timed.updFn 0 0 fun x => { x with ptmEnable := true }
    s.fnExists 0 0 = true ∧ s.ready = true ∧ (s.fn 0 0).ptmEnable = true ∧ (s.fn 0 0).ptmBusy = false ∧
    ((after (.timePtmHost 0 0) s).fn 0 0).ptmBusy = true := by decide +kernel
theorem test_time_now_latches : let t := after (.timeNowLo 0 0 .w4) { timed with time := { timed.time with
    acc := BitVec.ofNat 96 ((3 * 2 ^ 32 + 9) * 2 ^ 32) } }
    t.rdata = .reg 9 ∧ (t.fn 0 0).snap = 3 := by decide +kernel

/-! ## The test access port -/

theorem wit_Tap : State.reset.porN = true ∧ { State.reset with porN := false }.porN = false ∧
    ((0xFF : Byte) = 0 ∨ 7 < (0xFF : Byte).toNat) ∧ ((0 : Byte) = 0 ∨ 7 < (0 : Byte).toNat) ∧ 7 < (8 : Byte).toNat := by
  decide +kernel
theorem test_idcode : (after .idcode live).rdata = .reg 0x1700774B := by decide +kernel
theorem test_extest_drives_under_reset : (after .extest { live with porN := false }).tap.drive = .cells ∧
    (after .extest live).tap.drive = .functional := by decide +kernel

/-! ## Registers -/

/-- An event waits, and an orphaned lock of an image session. -/
def evented : State := live.updFn 0 0 fun x => { x with
  evq := [0x77], orphans := [{ kind := 1, epoch := 1, table := 0 }, { kind := 4, epoch := 1, table := 0 }] }

theorem wit_Events : evented.fnExists 0 0 = true ∧ (evented.fn 0 0).evq = [0x77] ∧ (live.fn 0 0).evq = [] ∧
    evented.ready = true ∧ (evented.fn 0 0).orphans.length = 2 := by decide +kernel
theorem test_evt_pop : (after (.evtPop 0 0 .w8) evented).rdata = .reg 0x77 ∧
    ((after (.evtPop 0 0 .w8) evented).fn 0 0).evq = [] ∧ (after (.evtPop 0 0 .w8) live).rdata = .reg 0 := by decide +kernel
theorem test_lock_logged : ((after (.lockResolution 0 0) evented).moraine.map (·.kind)) = [6, 1] := by decide +kernel

/-- The PF's mailbox is held under ticket 1. -/
def locked : State := after (.mbxLock 0) live

theorem wit_Mailbox : live.ports[(0 : Port)].mbx.holder = none ∧ locked.ports[(0 : Port)].mbx.holder.isSome = true ∧
    locked.ports[(0 : Port)].mbx.ticket = 1 ∧ (2 : BitVec 32) ≠ locked.ports[(0 : Port)].mbx.ticket ∧ locked.ready = true ∧
    locked.ports[(0 : Port)].mbx.st ≠ .busy := by decide +kernel
theorem wit_Mailbox_good : ([0x108000001, 0x108000009, 0x108000010, 0x108000012, 0x10800000A, 0x108000000, 0x108000013].all
    fun v => v / 2 ^ 16 % 2 ^ 16 == 2048 && (BitVec.ofNat 64 v).extractLsb' 32 32 == 1) = true := by decide +kernel
theorem wit_Mailbox_bad : 2048 < 0x108010001 / 2 ^ 16 % 2 ^ 16 := by decide
theorem test_mbx_lock_ticket : (after (.mbxLock 0) live).rdata = .reg 0x100000001 ∧
    (after (.mbxLock 0) locked).rdata = .reg 0x100000000 := by decide +kernel
theorem test_mbx_cmd : ((after (.registerWrite 0 0 0x80008 .w8 0x0000000100080001) locked).ports[(0 : Port)]).mbx.st = .busy ∧
    ((after (.registerWrite 0 0 0x80008 .w8 0x000000010008000A) locked).ports[(0 : Port)]).mbx.status = .unsupported ∧
    ((after (.registerWrite 0 0 0x80008 .w8 0x0000000200080001) locked).fn 0 0).cnt[FCnt.mbxIgnored.ix] = 1 := by decide +kernel

theorem wit_RegisterWrites : live.fnExists 0 0 = true ∧ live.ready = true ∧ live.hasQp 0 0 3 = true ∧
    (live.qp 0 0 3).st = .disabled ∧ (live.qp 0 0 0).st ≠ .disabled ∧ live.msixSize 0 0 ≤ 4 ∧ ¬live.msixSize 0 0 ≤ 3 ∧
    (live.qp 0 0 0).st = .enabled ∧
    ((live.updQp 0 0 0 fun q => { q with st := .draining }).qp 0 0 0).st = .draining := by decide +kernel
theorem test_sq_base_aligned :
    ((after (.registerWrite 0 0 0x10040 .w8 0x12345678) live).qp 0 0 1).sqBase = 0x12345000 := by decide +kernel
theorem test_enabled_refuses : ((after (.registerWrite 0 0 0x10000 .w8 0) live).qp 0 0 0).cause = 12 := by decide +kernel

/-- A port whose BAR4 is 64 MiB and whose memory is on. -/
def windowed : State := (live.updPort 0 fun q => { q with bar4Mib := 64 }).updFn 0 0 fun x => { x with memEnable := true }

theorem wit_Window : windowed.windowOpen 0 67108863 = true ∧ windowed.windowSleeps 0 67108352 512 = [] ∧
    live.windowOpen { val := 1, isLt := by decide } 0 = false ∧ windowed.slab.wf = true ∧
    Instr.wf (.bar4Write 0 67108352 (List.replicate 512 1)) = true ∧ windowed.slabUe = [] := by decide +kernel
theorem test_bar4_stores : let t := after (.bar4Write 0 63 [0xAB, 0xCD]) windowed
    (t.slabGet 0 62 4, (after (.bar4Read 0 63 2) t).rdata) = ([0, 0xAB, 0xCD, 0], .bytes [0xAB, 0xCD]) := by decide +kernel

/-! ## Doorbells and queue pairs -/

/-- Queue pair 0 with these pointers. -/
def ringed (sqHead sqTail cqHead cqTail : Nat) : State := live.updQp 0 0 0 fun q => { q with
  sqHead := sqHead, sqTail := sqTail, cqHead := cqHead, cqTail := cqTail }

theorem wit_Doorbells_tail : live.hasQp 0 0 0 = true ∧ live.ready = true ∧ (live.qp 0 0 0).st = .enabled ∧
    (15 < (live.qp 0 0 0).sqSize ∧ ¬(16 < (live.qp 0 0 0).sqSize)) ∧
    (let q := (ringed 4 6 0 0).qp 0 0 0
     ringDist 5 q.sqHead q.sqSize < ringDist q.sqTail q.sqHead q.sqSize ∧
     ¬ringDist 3 q.sqHead q.sqSize < ringDist q.sqTail q.sqHead q.sqSize) ∧ (live.qp 0 0 1).st ≠ .enabled ∧
    live.hasQp 0 0 1 = true := by decide +kernel
theorem wit_Doorbells_head : let q := (ringed 0 0 2 5).qp 0 0 0
    ¬(ringDist q.cqTail q.cqHead q.cqSize < ringDist q.cqTail 5 q.cqSize) ∧
    ringDist q.cqTail q.cqHead q.cqSize < ringDist q.cqTail 1 q.cqSize ∧ q.cqSize ≤ 16 ∧ live.hasQp 0 0 4 = false := by
  decide +kernel
theorem test_sq_tail_past_ring : ((after (.sqTail 0 0 0 16) live).qp 0 0 0).cause = 6 ∧
    ((after (.sqTail 0 0 0 15) live).qp 0 0 0).sqTail = 15 := by decide +kernel
theorem test_cq_head_past_tail : ((after (.cqHead 0 0 0 1) (ringed 0 0 2 5)).qp 0 0 0).cause = 9 ∧
    ((after (.cqHead 0 0 0 5) (ringed 0 0 2 5)).qp 0 0 0).cqHead = 5 := by decide +kernel

/-- Queue pair 1 disabled, with this configuration. -/
def paired (sqSize cqSize sqBase cqBase msix : Nat) : State := live.updQp 0 0 1 fun q => { q with
  sqSize := sqSize, cqSize := cqSize, sqBase := BitVec.ofNat 64 sqBase, cqBase := BitVec.ofNat 64 cqBase, msix := msix }
theorem wit_QueuePairs_good : let s := paired (2 ^ 16) (2 ^ 1) 0x1000 (0x1000 + 64 * 2 ^ 16) 3
    s.hasQp 0 0 1 = true ∧ s.ready = true ∧ (s.qp 0 0 1).st = .disabled ∧ (s.qp 0 0 1).msix < s.msixSize 0 0 ∧
    (s.qp 0 0 1).sqBase.toNat % 4096 = 0 ∧ (s.qp 0 0 1).cqBase.toNat % 4096 = 0 ∧
    (s.qp 0 0 1).sqBase.toNat + 64 * (s.qp 0 0 1).sqSize ≤ (s.qp 0 0 1).cqBase.toNat := by decide +kernel
theorem wit_QueuePairs_bad : (∀ e < 17, 3 ≠ 2 ^ e) ∧ 0x1800 % 4096 ≠ 0 ∧ ¬(0x1000 + 64 * 128 ≤ 0x2000) ∧
    ¬(0x2000 + 16 * 2 ≤ 0x1000) ∧ ¬(4 < (paired 2 2 0 0x1000 4).msixSize 0 0) := by decide +kernel
theorem test_qp_enable : ((after (.qpEnable 0 0 1) (paired 128 2 0x1000 0x3000 3)).qp 0 0 1).st = .enabled ∧
    ([paired 3 2 0x1000 0x3000 3, paired 2 2 0x1800 0x3000 3, paired 128 2 0x1000 0x2000 3, paired 2 2 0x1000 0x2000 4].map
      fun s => ((after (.qpEnable 0 0 1) s).qp 0 0 1).cause) = [1, 2, 3, 4] := by decide +kernel

/-! ## The life of an item -/

/-- Ten descriptors wait at the end of the ring. -/
def fetching : State := (ringed 12 6 0 0).hostPut 0 (0x10000 + 64 * 12) nopD

theorem wit_Fetch : fetching.ready = true ∧ fetching.ports[(0 : Port)].linkUp = true ∧ fetching.nextPair 0 = some (0, 0) := by
  decide +kernel
theorem wit_Fetch_queues : QueuesOk fetching := queuesOk_of _ (by decide +kernel)
theorem wit_Fetch_items : ItemsOk fetching := by unfold ItemsOk; decide +kernel
theorem test_fetch_ends_at_ring_end : let t := after (.fetchTurn 0) fetching
    (t.qp 0 0 0).sqHead = 0 ∧ t.ports[(0 : Port)].fetchNo = 4 ∧ (t.item? 0 1).map (·.desc) = some nopD := by decide +kernel

theorem wit_NopAndAbort_nop : let s := live.withItems [item 1 nopD .waiting]
    s.item? 0 1 = some (item 1 nopD .waiting) ∧ (item 1 nopD .waiting).opcode = 0 := by decide +kernel
theorem wit_NopAndAbort_unfenced : Unfenced (live.withItems [item 1 nopD .waiting]) 0 (item 1 nopD .waiting) := by
  unfold Unfenced; decide +kernel
/-- An ABORT whose target is in this state. -/
def aborting (st : ItemState) : State := live.withItems [item 1 gatherD st, item 2 abortD .waiting]
theorem wit_NopAndAbort_abort : (live.withItems [item 1 abortD .waiting]).abortTarget 0 (item 1 abortD .waiting) = none ∧
    (∀ st ∈ [ItemState.waiting, .queued, .inService],
      ((aborting st).abortTarget 0 (item 2 abortD .waiting)).map (·.key) = some 1 ∧
      (aborting st).runsOn 0 (item 1 gatherD st) = false) := by decide +kernel
theorem wit_NopAndAbort_items : ∀ st ∈ [ItemState.waiting, .queued, .inService], ItemsOk (aborting st) := by
  unfold ItemsOk; decide +kernel
theorem test_abort_answers : let t := after (.abort 0 2) (aborting .inService)
    ((t.item? 0 1).map (·.status)) = some .aborted ∧ ((t.item? 0 2).map (·.r0)) = some 2 := by decide +kernel
theorem test_abort_no_target : let t := after (.abort 0 1) (live.withItems [item 1 abortD .waiting])
    ((t.item? 0 1).map fun i => (i.status, i.r1)) = some (.ok, 0xFF) := by decide +kernel

/-- A GATHER is the only READY item of its type. -/
def readied : State := live.withItems [item 1 gatherD .waiting]
theorem wit_Dispatch : item 1 gatherD .waiting ∈ readied.ports[(0 : Port)].items ∧
    readied.servedBy 0 (item 1 gatherD .waiting) = some .gather ∧ readied.isReady 0 (item 1 gatherD .waiting) = true ∧
    readied.chooseUnit 0 (item 1 gatherD .waiting) .gather = some ⟨.gather, 0⟩ ∧
    (∀ j ∈ readied.ports[(0 : Port)].items, readied.parts[(0 : Port)].passedOver j.key < 64) := by decide +kernel
theorem wit_Dispatch_items : ItemsOk readied := by unfold ItemsOk; decide +kernel
theorem test_dispatch_class : let s := live.withItems [item 1 (desc 4 0 8 0 0 [(3, 1, 1)]) .waiting, item 2 gatherD .waiting]
    (s.ports[(0 : Port)].items.map (·.cls), ((after (.dispatch 0 .gather) s).ports[(0 : Port)].items.map (·.st))) =
      ([1, 0], [.waiting, .queued]) := by decide +kernel

/-- Items in service on decode unit 0 in ports 0 and 1, both partitions present with weight 1. -/
def sharing (left : Nat) : State :=
  let i := { item 1 epochD .inService with unit := some ⟨.decode, 0⟩ }
  let s := (live.withItems [i]).updPort 1 fun q => { q with items := [i] }
  let s := ([1, 2, 3, 4, 5] : List Port).foldl (fun a p => a.updPart p fun x => { x with place := some place0 }) s
  { s with served := [((⟨.decode, 0⟩ : UnitId).slot, 0, left)] }
theorem wit_Segment : (⟨.decode, 0⟩ : UnitId).valid = true ∧ (sharing 2).worksOn ⟨.decode, 0⟩ 0 = true ∧
    (sharing 1).worksOn ⟨.decode, 0⟩ 1 = true ∧ (∀ r : Port, (sharing 1).weightOf ⟨.decode, 0⟩ r ≠ 0) := by decide +kernel
theorem test_segment_turns : (after (.segmentSwitch ⟨.decode, 0⟩) (sharing 1)).served.map (·.2) = [(1, 1)] ∧
    (after (.segmentSwitch ⟨.decode, 0⟩) (sharing 2)).served.map (·.2) = [(0, 1)] := by decide +kernel

/-- The GATHER is queued on engine 0; an item that ended waits for its completion and its continuation. -/
def queued : State := live.withItems [{ item 1 gatherD .queued with unit := some ⟨.gather, 0⟩ }]
def completing (cont : Option (Nat × PassArgs)) : Item :=
  { item 1 epochD .completing with cont := cont, engine := ⟨.port, 0⟩, r0 := 5, r1 := 6 }
theorem wit_Service_start : queued.mayStart 0 { item 1 gatherD .queued with unit := some ⟨.gather, 0⟩ } = true ∧
    (queued.item? 0 1).isSome = true := by decide +kernel
theorem wit_Service_complete : (live.withItems [completing none]).canStage 0 (completing none) = true ∧
    (completing none).orphan = false ∧ (live.withItems [completing none]).stagingTiles 0 1 = [] := by decide +kernel
theorem wit_Service_continuation : let i := completing (some (127, { b := 1, d := 0, s0 := 0, e0 := 0 }))
    (live.withItems [i]).item? 0 1 = some i ∧ i.st = .completing ∧ (live.withItems [i]).tileRoom (tix 127) = true := by
  decide +kernel
theorem test_service_start : (((after (.serviceStart 0 1) queued).item? 0 1).map (·.st)) = some .inService := by decide +kernel
theorem test_speculative_reads_nothing_of_host : (after (.speculativeRead 0 1) queued).parts[(0 : Port)].cnt[PCnt.specReadBytes.ix]
    = 0 := by decide +kernel

/-- One completion is staged and the CQ tail stands at its last entry. -/
def staged : State := ((ringed 0 0 4 15).withItems [{ completing none with st := .staged }]).updPort 0 fun q =>
  { q with staged := [1] }
theorem wit_Completion : staged.host.wf = true ∧ staged.asleepFn 0 0 = false ∧
    staged.stagedOf 0 0 0 = [{ completing none with st := .staged }] ∧ (staged.qp 0 0 0).st = .enabled ∧
    (staged.qp 0 0 0).cqFailed = false ∧ 0 < (staged.qp 0 0 0).cqFree ∧
    (staged.qp 0 0 0).cqBase.toNat + 16 * 15 + 16 ≤ 2 ^ 64 := by decide +kernel
theorem test_completion_bytes : let t := after (.completionBurst 0 0 0) staged
    t.hostGet 0 0x200F0 16 = [7, 0, 0, 0, 0, 1, 0, 9, 5, 0, 0, 0, 6, 0, 0, 0] ∧ (t.qp 0 0 0).cqTail = 0 ∧
    (t.qp 0 0 0).phase = false := by decide +kernel

/-! ## Sleep -/

/-- Cluster c and its units in this oper state. -/
def inOper (o : Oper) (c : Cluster) : State := (domainOf c).foldl (fun a u => a.setOper o u) live

theorem wit_Sleep_idle : live.clusterOper 15 = .run ∧ live.clusterIdle 15 = true ∧
    live.clusters[(15 : Cluster)].entering = none := by decide +kernel
/-- Cluster 0 in IDLE under a POWER record with this SLEEP_FLOOR and HYST_FLOOR. -/
def floored (floor hyst : Nat) : State := (inOper .idle 0).updPart 0 fun x => { x with
  image := some { image0 with powers := [{ cluster := 0, sleepFloor := floor, maxOp := 3, hystIdle := 0, hystFloor := hyst }] } }
theorem wit_Sleep_floor : ∀ x ∈ [(0, 0), (1, 0xFFFFFFFE), (2, 0), (0, 0xFFFFFFFF)], let s := floored x.1 x.2
    s.clusterOper 0 = .idle ∧ s.clusterIdle 0 = true ∧ s.clusters[(0 : Cluster)].entering = none ∧
    s.clusters[(0 : Cluster)].thawing = none ∧ (s.powerRecord 0).sleepFloor = x.1 ∧ (s.powerRecord 0).hystFloor = x.2 := by
  decide +kernel
theorem test_sleep_floors : ([floored 0 0, floored 1 0, floored 2 0, floored 0 0xFFFFFFFF].map fun s =>
    (after (.hystFloorExpiry 0) s).clusters[(0 : Cluster)].entering) = [some .off, some .retain, none, none] := by decide +kernel
theorem test_idle_entry : ((after (.hystIdleExpiry 3) live).ledgerWord ⟨.tile, 31⟩).oper = .idle ∧
    ((after (.hystIdleExpiry 3) live).ledgerWord ⟨.tile, 32⟩).oper = .run := by decide +kernel
theorem wit_Sleep_units : ∀ u ∈ [(⟨.decode, 0⟩ : UnitId), ⟨.compress, 3⟩, ⟨.gather, 7⟩], u.valid = true ∧
    (live.ledgerWord u).oper = .run ∧ live.unitHolds u = false := by decide +kernel
theorem wit_Sleep_off : let s := live.setOper .idle ⟨.compress, 3⟩
    (s.ledgerWord ⟨.compress, 3⟩).oper = .idle ∧ s.unitHolds ⟨.compress, 3⟩ = false ∧ s.unitSleep = [] := by decide +kernel
theorem test_unit_sleep : let s := afterAll [.unitIdleEntry ⟨.compress, 3⟩, .unitOffEntry ⟨.compress, 3⟩] live
    (s.ledgerWord ⟨.compress, 3⟩).oper = .off := by decide +kernel
/-- Cluster 1 enters, or thaws from, a state; a byte stands in a slab of it and of cluster 2. -/
def moving (entering thawing : Option Oper) (rethaw : Bool) : State :=
  ((((inOper .idle 1).slabPut 8 64 [0x11]).slabPut 16 64 [0x22]).updCluster 1 fun _ =>
    { entering := entering, thawing := thawing, rethaw := rethaw, byOrlys := false })
theorem wit_Sleep_entry : (moving (some .off) none true).clusters[(1 : Cluster)].entering = some .off ∧
    (moving (some .retain) none false).clusters[(1 : Cluster)].rethaw = false := by decide +kernel
theorem wit_Sleep_thaw : ∀ o ∈ [Oper.off, .retain, .idle], (moving none (some o) false).slab.wf = true ∧
    (moving none (some o) false).clusters[(1 : Cluster)].thawing = some o ∧ (moving none (some o) false).mayThaw 1 = true ∧
    (∀ p : Port, (moving none (some o) false).ports[p].windows = []) ∧ o.down = false ∧
    ((List.finRange 128).all fun t => (moving none (some o) false).tiles[t].held.isEmpty) = true := by decide +kernel
theorem wit_Sleep_thaw_unit : ∃ x ∈ { live with unitSleep := [((⟨.decode, 0⟩ : UnitId).slot, none, some .off)] }.unitSleep,
    x.1 = (⟨.decode, 0⟩ : UnitId).slot := ⟨_, List.mem_singleton.mpr rfl, rfl⟩
theorem test_thaw_from_off : let t := after (.thawDone (.cluster 1)) (moving none (some .off) false)
    (t.slabGet 8 64 1, t.slabGet 16 64 1, t.clusterOper 1) = ([0], [0x22], .run) := by decide +kernel
theorem test_entry_then_thaw : let t := after (.sleepEntryDone (.cluster 1)) (moving (some .off) none true)
    (t.clusterOper 1, t.clusters[(1 : Cluster)].thawing) = (.off, some .off) := by decide +kernel
theorem test_thaw_unit : ((after (.thawDone (.unit ⟨.decode, 0⟩)) { live.setOper .off ⟨.decode, 0⟩ with
    unitSleep := [((⟨.decode, 0⟩ : UnitId).slot, none, some .off)] }).ledgerWord ⟨.decode, 0⟩).oper = .run := by decide +kernel

/-! ## Power and heat -/

/-- Full activity outside the clusters. -/
def busy : Activity := { hbm := List.replicate 8 1000, engines := 1000, mesh := 1000, portsL0 := 0x3F }

theorem wit_Cap : railed.capLoopRuns = true ∧ railed.clusterOper 0 = .run ∧ railed.power.brake = false := by decide +kernel
theorem test_cap_setting : ((after (.capEvaluation busy) railed).power.capSetting) = 3 ∧
    (after (.capEvaluation { hbm := [], engines := 0, mesh := 0, portsL0 := 0 }) railed).power.capSetting = 7 := by
  decide +kernel
theorem test_frequency_switch : (after (.opFrequencySwitch 2) { railed with power := { railed.power with
    brake := true } }).power.running[(2 : Cluster)] = 0 := by decide +kernel
/-- Nine rails at this reading each. -/
def readings (mv da : Nat) : List RailReading := List.replicate 9 { mv := mv, da := da, failed := false }
theorem wit_Rails : railed.porN = true ∧ railed.boot.fwRunning = true ∧ (readings 10000 34).length = 9 ∧
    1000 * railed.power.effCap < ((readings 10000 34).map fun x => x.mv * x.da / 10).sum ∧
    ((readings 10000 33).map fun x => x.mv * x.da / 10).sum ≤ 1000 * railed.power.effCap ∧
    (List.replicate 3 { mv := 1, da := 1, failed := false } ++ [{ mv := 0, da := 0, failed := true : RailReading }])[3 + 0]?.any
      (·.failed) = true ∧ 0 < railed.boot.railsOn ∧
    railFaulty (.word 0x0008) = true ∧ railFaulty (.word 0xFF87) = false ∧ railFaulty .failed = true ∧
    0x45 < 0x40 + railed.boot.railsOn := by decide +kernel
theorem test_telemetry : let t := after (.pmbusTelemetry (readings 10000 34)) railed
    (t.power.pkg, t.power.capSetting, t.power.rails[8]) = (306000, 8, (10000, 34)) := by
  decide +kernel
theorem test_status_poll : ((after (.pmbusStatusPoll 0x43 (.word 0x0040)) railed).ledgerWord ⟨.hbm, 7⟩).oper = .faulted := by
  decide +kernel
theorem wit_Pins : (after (.vrhotFall []) railed).power.vrhotLimit = some 300 ∧
    (after (.vrhotFall []) railed).vrhotN = false := by decide +kernel
theorem test_brake : let t := after .pwrbrkFall railed
    (t.power.brake, t.power.effCap, t.power.running[(0 : Cluster)], (after .pwrbrkLift t).power.effCap) = (true, 150, 0, 300) := by
  decide +kernel
theorem test_vrhot_steps : (afterAll [.vrhotFall [(0x40, 1)], .vrhotLimitStep, .vrhotLimitStep] railed).power.effCap = 250 ∧
    (afterAll [.vrhotFall [], .vrhotLimitStep, .vrhotRecoveryStep] railed).power.vrhotLimit = none := by decide +kernel

/-- 28 die sensors or 8 stack sensors at one temperature. -/
def die (x : Int) : List Int := List.replicate 28 x
def hbmTemps (x : Int) : List Int := List.replicate 8 x
/-- Every sensor has this reading. -/
def heated (x : Int) : State := after (.hbmSensorRead (hbmTemps x)) (after (.sensorSample (die x)) railed)
theorem wit_Sensors : (die 1149).length = 28 ∧ (hbmTemps 1049).length = 8 ∧ (∀ x ∈ die 1149, x < 1150) ∧
    (∃ x ∈ die 1150, 1150 ≤ x) ∧ (∀ x ∈ hbmTemps 1049, x < 1050) ∧ (∃ x ∈ hbmTemps 1050, 1050 ≤ x) ∧
    railed.power.tripped = false ∧ railed.power.throt = 95 := by decide +kernel
theorem wit_ThermalSteps : (heated 950).power.temps[24] = 950 ∧ (heated 949).power.temps[0] = 949 ∧
    (heated 920).power.temps[27] = 920 ∧ (heated 921).power.temps[15] = 921 := by decide +kernel
theorem test_sensor_throttles : ((after (.sensorSample (die 950)) railed).power.throttled.length) = 20 ∧
    (after (.hbmSensorRead (hbmTemps 950)) railed).power.hbmHalf = 0xFF ∧
    (after (.hbmSensorRead (hbmTemps 949)) railed).power.hbmHalf = 0 := by decide +kernel
theorem test_thermal_steps : (after (.thermalStepDown 4) (heated 950)).power.thermal[(4 : Cluster)] = 8 ∧
    (after (.thermalStepDown 4) (heated 949)).power.thermal[(4 : Cluster)] = 9 ∧
    (afterAll [.thermalStepDown 4, .sensorSample (die 920), .thermalStepUp 4] (heated 950)).power.thermal[(4 : Cluster)] = 9 := by
  decide +kernel
theorem test_trip_below : after (.thermalTrip 3 1149) railed = railed := by rfl

/-! ## Host ports -/

/-- A port with two VFs and an item; with a retained partition or not. -/
def ported (retain : Bool) : State :=
  (((live.withItems [item 1 gatherD .waiting]).updPort 0 fun q => { q with
    numVfs := 2, vfEnable := true, ideRx := .active, ideTx := .active, spdm := .secured }).updPart 0 fun x =>
      { x with place := some { place0 with retain := retain } })

theorem wit_Resets : (ported true).parts[(0 : Port)].place.any (·.retain) = true ∧
    (ported false).parts[(0 : Port)].place.any (fun r => !r.retain) = true ∧ (ported true).ports[(0 : Port)].ideSecure = true ∧
    (ported true).fnExists 0 2 = true ∧ (ported true).fnExists 0 3 = false := by decide +kernel
theorem wit_VfEnable : let s (n : Nat) (ari : Bool) : State := live.updPort 0 fun q => { q with numVfs := n, ari := ari }
    (s 7 false).ports[(0 : Port)].numVfs ≤ 7 ∧ (s 8 true).ports[(0 : Port)].ari = true ∧
    7 < (s 8 false).ports[(0 : Port)].numVfs ∧ (s 8 false).ports[(0 : Port)].ari = false ∧
    (ported true).ports[(0 : Port)].vfEnable = true := by decide +kernel
theorem test_link_down : let t := after (.linkDown 0) (ported true)
    (t.fn 0 2).epoch = (live.fn 0 2).epoch + 1 ∧ t.ports[(0 : Port)].items = [] ∧ t.parts[(0 : Port)].image.isSome = true ∧
    (t.fn 0 0).portErr = 0x40 := by decide +kernel
theorem test_perst_scrubs : ((after (.perstAssert 0) (ported false)).parts[(0 : Port)].op.map (·.kind)) = some .scrub := by
  decide +kernel
theorem test_flr_of_vf : let t := after (.flr 0 2) (ported true)
    (t.fn 0 2).epoch = (live.fn 0 2).epoch + 1 ∧ (t.fn 0 0).epoch = (live.fn 0 0).epoch ∧
    t.ports[(0 : Port)].items.length = 1 := by decide +kernel
theorem test_port_ctrl : let s := live.updPort 0 fun q => { q with cto := 5 }
    (after (.flr 0 0) s).ports[(0 : Port)].cto = 2 ∧ (after (.linkDown 0) s).ports[(0 : Port)].cto = 5 := by decide +kernel

theorem wit_D3 : live.fnExists 0 0 = true ∧ (live.fn 0 0).d3 = false ∧ ((after (.d3hotEntry 0 0) live).fn 0 0).d3 = true := by
  decide +kernel
theorem wit_Link : live.porN = true ∧ live.ports[(0 : Port)].phyUp = true ∧
    ((live.updFn 0 0 fun x => { x with aspmL1 := true }).fn 0 0).aspmL1 = true ∧
    (live.updPort 0 fun q => { q with linkPm := .l12 }).ports[(0 : Port)].linkPm ≠ .l0 := by decide +kernel
theorem test_link_up_flit : let t := after (.linkUp 0 16 6 false) live
    (t.ports[(0 : Port)].flit, (after (.linkUp 0 3 1 false) live).ports[(0 : Port)].lanes) = (true, 16) := by decide +kernel
/-- The PF's vector 1 waits with its Pending Bit, unmasked. -/
def pendingVector : MsixEntry := { vector := 1, addr := 0xFEE00000, data := 0x41, mask := false, pending := true }
def vectored : State := live.updFn 0 0 fun x => { x with msix := [pendingVector], msixEnable := true, msixMask := true }
theorem wit_Configuration : (live.fn 0 0).msix = [] ∧ live.ports[(0 : Port)].vfEnable = false ∧
    2 ≤ live.ports[(0 : Port)].shape.vfCount ∧ ¬(3 ≤ live.ports[(0 : Port)].shape.vfCount) ∧
    live.ports[(0 : Port)].shape.bar4 = true ∧ (after (.configurationRequest 0 0 (.bar4Size 32)) live).ports[(0 : Port)].bar4Next =
      some 32 ∧ live.msixSize 0 0 ≠ 0 ∧ (vectored.fn 0 0).msix = [pendingVector] := by decide +kernel
theorem test_pending_vector_fires : (after (.configurationRequest 0 0 (.msixFunctionMask false)) vectored).msgs =
    [.msix 0 0 1 0xFEE00000 0x41] := by decide +kernel
theorem test_vendor_id : (after (.configurationRequest 0 0 (.read (.header 0))) live).msgs = [.config 0 0 0x70071E7C] := by decide +kernel

/-- A COMPRESS in service, token 8, a read at offset 64 re-issued n times. -/
def reading (n : Nat) : Item := { item 1 (desc 7 0 8 0 0 []) .inService with reissued := [(64, n)] }
theorem wit_HostReads : live.readOwner 0 0 8 = none ∧ (∀ n ∈ [1, 2], (live.withItems [reading n]).readOwner 0 0 8 =
    some (reading n)) := by decide +kernel
theorem wit_HostReads_items : ItemsOk (live.withItems [reading 2]) := by unfold ItemsOk; decide +kernel
theorem test_reissue : (((after (.hostReadCompletion 0 0 8 64 .ecrc) (live.withItems [reading 1])).item? 0 1).map (·.reissued)) =
    some [(64, 2)] ∧ (((after (.hostReadCompletion 0 0 8 64 .ecrc) (live.withItems [reading 2])).item? 0 1).map fun i =>
      (i.status, i.r0, i.r1)) = some (.uncorrectable, 64, 3) := by decide +kernel
theorem test_timeout : (((after (.completionTimeout 0 0 8 128) (live.withItems [reading 0])).item? 0 1).map fun i =>
    (i.status, i.r0, i.r1)) = some (.hostTimeout, 128, 1) := by decide +kernel

theorem wit_Doe : live.doeUp 0 = true ∧ (after (.keyExchange 0) live).ports[(0 : Port)].spdm = .exchanging ∧
    (ported true).ports[(0 : Port)].spdm = .secured ∧ (ported true).ports[(0 : Port)].ideRx = .active ∧
    (after (.kSetStop 0 true) (ported true)).ports[(0 : Port)].ideRx ≠ .active ∧ live.boot.ready = true ∧
    { live with boot := { live.boot with ready := false, defaultFloor := some FloorImage.absent } }.boot.fatal = false := by
  decide +kernel
theorem test_ide_keys : (afterAll [.keyExchange 0, .finish 0 true, .keyProg 0 true, .kSetGo 0 true] live).ports[(0 : Port)].ideRx =
    .active ∧ (afterAll [.keyProg 0 true] live).ports[(0 : Port)].ideRx = .none := by decide +kernel

/-! ## Batch queues -/

/-- One tensor of two I32 a sample, three samples a batch, bank 0 at slab offset 0x4000, ring in stack 1. -/
def entry0 : LayoutEntry := { name := 1, dtype := 6, dimsUsed := 0, dim1 := 0, dim2 := 0, sampleLen := 2 }
def layout0 : Layout :=
  { shuffled := false, packed := false, split := false, randomCrop := false, pipeline := 0, tensors := [entry0], s := 3, r := 0
    l := 0, pad := 0, bankOffset := 0x4000, bitmapOffset := 0, ringAddr := 2 ^ 37, storeOffset := 0, storeStride := 0 }
def layoutShuffled : Layout := { layout0 with shuffled := true, bitmapOffset := 0x800000 }
/-- The FIFO record of queue 63: 4 slots of 1,024 bytes. -/
def record0 : Fifo := { cls := 63, kind := 3, depth := 4, slotBytes := 1024, wmHigh := 4, wmLow := 1, wmHyst := 0, pins := false }
/-- Queue 63 enabled at tile 5, PULL, consumed by the PF. -/
def queue0 : BatchQueue := { BatchQueue.reset with
  ctrl := 0x509, enabled := true, layout := some layout0, ringBase := 0x100000, ringSize := 4, wmHigh := 4, wmLow := 1 }
def withQueue (b : BatchQueue) : State :=
  (live.updPart 0 fun x => { x with image := some { image0 with fifos := [record0] } }).setBq 0 63 fun _ => b
/-- READ 2, TAIL 3, REL 1, with this mark. -/
def queue1 (mark : Option Nat) : BatchQueue := { queue0 with rel := 1, read := 2, tail := 3, mark := mark }
/-- Ordinals in the fill bank, the other bank open or closed under a SEQUENCE. -/
def ordinal (n : Nat) : Machine.Ordinal := { sample := n, void := false, frame := none, row := 0, col := 0, len := 1 }
def banked (n : Nat) (fillSeq otherSeq : Option Nat) : BatchQueue := { queue0 with
  banks := #v[{ Bank.empty with ordinals := (List.range n).map ordinal, closedSeq := fillSeq },
    { Bank.empty with closedSeq := otherSeq }] }
/-- A queue operation of function f in service on queue 63. -/
def queueOp (op upto f : Nat) : Item := { item 1 (desc op 0 7 0 0 [(16, 1, 63), (24, 8, upto)]) .inService with
  fn := Fin.ofNat 16 f }

theorem wit_QueueOps : ∀ op ∈ [opQueueMark, opQueueRewind, opQueueRelease], ∀ f ∈ [0, 1],
    ((withQueue (queue1 (some 1))).withItems [queueOp op 2 f]).serving 0 1 op = some (queueOp op 2 f) ∧
    (queueOp op 2 f).fld 16 1 = 63 ∧ ((withQueue (queue1 (some 1))).bq 0 63).enabled = true := by decide +kernel
/-- A copy of this sequence is in progress. -/
def copying (seq : Nat) : BatchQueue := { queue1 (some 1) with copying := some (seq, 0) }
theorem wit_QueueOps_copy : (∀ c, (copying 0).copying = some c → c.1 < 1) ∧ (copying 1).copying = some (1, 0) ∧
    (copying 1).mark = some 1 ∧ (copying 1).rel ≤ 1 := by decide
theorem test_rewind_waits : let s := (withQueue (copying 1)).withItems [queueOp opQueueRewind 0 0]
    ((after (.queueRewind 0 1) s).bq 0 63).read = 2 := by decide +kernel
theorem wit_QueueOps_marks : (queue1 (some 1)).rel ≤ 1 ∧ 0 < (queue1 (some 0)).rel ∧ (queue1 none).mark = none ∧
    (queueOp opQueueRelease 2 0).fld 24 8 ≤ (queue1 none).read ∧ (queue1 none).read < (queueOp opQueueRelease 3 0).fld 24 8 ∧
    (queueOp opQueueMark 0 1).fn.val ≠ (queue1 none).consumer := by decide +kernel
theorem test_rewind : let t := after (.queueRewind 0 1) ((withQueue (queue1 (some 1))).withItems [queueOp opQueueRewind 0 0])
    ((t.bq 0 63).read, (t.item? 0 1).map (·.r0)) = (1, some 1) := by decide +kernel
theorem test_release_past_read : let t := after (.queueRelease 0 1) ((withQueue (queue1 none)).withItems
      [queueOp opQueueRelease 3 0])
    ((t.item? 0 1).map fun i => (i.status, i.r0)) = some (.stateStale, 2) ∧ (t.bq 0 63).rel = 1 := by decide +kernel

theorem wit_QueueRegisters : let s := withQueue (queue1 (some 1))
    s.ready = true ∧ s.fnExists 0 0 = true ∧ (s.bq 0 63).consumer = 0 ∧ (s.bq 0 63).enabled = true ∧
    (2 : BitVec 64).toNat ≤ (s.bq 0 63).read ∧ (s.bq 0 63).read < (3 : BitVec 64).toNat ∧ s.bqDepth 0 63 = 4 ∧
    (s.bq 0 63).ringSize ≠ 0 := by decide +kernel
/-- BQ_WM values at the edges: HIGH 4, LOW 3 fits; LOW 4, HIGH 5, HYST 4, and LOW 2 with HYST 2 do not. -/
theorem test_bq_wm : ([0x30004, 0x40004, 0x30005, 0x400000004, 0x200020004].map fun (v : Nat) =>
    ((after (.bqWm 0 63 (BitVec.ofNat 64 v)) (withQueue queue0)).bq 0 63).cause) = [0, 12, 12, 12, 12] := by decide +kernel
/-- A full queue whose closed bank waits for a slot; a release of two batches. -/
theorem wit_QueueRegisters_waits : let q := { banked 0 none (some 4) with read := 2, tail := 4 }
    q.otherBank.closedSeq = some q.tail ∧ q.fillBank.closedSeq = none ∧ q.tail - max q.rel 2 < (withQueue q).bqDepth 0 63 ∧
    q.waits false = false ∧ (queue1 none).waits false = false ∧ (queue1 none).waits true = false := by decide +kernel
theorem test_release_counts_bank : ((after (.bqRelease 0 0 63 2) (withQueue { banked 0 none (some 4) with
    read := 2, tail := 4 })).bq 0 63).tail = 5 ∧ ((after (.bqRelease 0 0 63 0) (withQueue { banked 0 none (some 4) with
    read := 2, tail := 4 })).bq 0 63).tail = 4 := by decide +kernel
theorem wit_QueueRegisters_ring : ¬(4096 < (0x1000 : BitVec 64).toNat % 2 ^ 13) ∧ 4096 < (0x1001 : BitVec 64).toNat % 2 ^ 13 ∧
    ((withQueue { queue0 with enabled := false }).bq 0 63).enabled = false := by decide +kernel
theorem test_ring_locked : ((after (.registerWrite 0 0 0x21F90 .w8 1) (withQueue queue0)).bq 0 63).cause = 11 ∧
    ((after (.registerWrite 0 0 0x21F90 .w8 4096) (withQueue { queue0 with enabled := false })).bq 0 63).ringSize = 4096 := by
  decide +kernel
/-- PUSH_IDLE with nothing to deliver. -/
def idleQueue : BatchQueue := { queue0 with ctrl := 0x501, rel := 2, read := 2, tail := 2, credits := 65535 }
theorem wit_Want : let s := withQueue idleQueue
    (s.bq 0 63).mode = 0 ∧ (s.bq 0 63).read = (s.bq 0 63).tail ∧ s.ports[(0 : Port)].hstopN = true ∧ s.asleepFn 0 0 = false ∧
    s.host.wf = true ∧ (s.bq 0 63).ringBase.toNat + 4096 * 16777216 ≤ 2 ^ 64 ∧ s.slotBytes 0 63 ≤ 16777216 ∧
    (s.bq 0 63).ringSize ≤ 4096 := by decide +kernel
theorem wit_Want_no_idle : (queue1 none).read ≠ (queue1 none).tail := by decide
theorem test_idle_pack : let t := after (.bqWant 0 0 63 1) (withQueue idleQueue)
    (t.hostGet 0 0x100000 17, (t.bq 0 63).credits, (t.bq 0 63).read) =
      ([0x54, 0x41, 0x42, 0x4B, 1, 0, 1, 0, 2, 0, 0, 0, 0, 0, 0, 0, 0], 65534, 2) := by decide +kernel
theorem wit_Pop : let s := withQueue { queue1 none with unpopped := [(1, 3)], copying := some (1, 3) }
    (s.bq 0 63).pull = true ∧ (s.bq 0 63).unpopped = [(1, 3)] ∧ (s.bq 0 63).copying = some (1, 3) ∧
    (withQueue queue0).parts[(0 : Port)].bq[(63 : Fin 64)].unpopped = [] ∧ 1 < (s.bq 0 63).read := by decide +kernel
theorem test_bq_pop : let s := withQueue { queue1 none with unpopped := [(1, 3), (2, 0)] }
    (after (.bqPop 0 0 63 .w8) s).rdata = .reg 0x8003000000000001 ∧
    ((after (.bqPop 0 0 63 .w8) s).bq 0 63).unpopped = [(2, 0)] := by decide +kernel

/-- A layout block in tile 5's slab, as Tables 12.2 and 12.3 lay it out, for queue 63 that is not enabled. -/
def layoutBlock : List Byte :=
  [0, 0, 0, 0] ++ leBytes 2 1 ++ leBytes 2 0 ++ leBytes 4 3 ++ leBytes 4 0 ++ leBytes 4 0 ++ leBytes 4 0 ++ leBytes 4 0x4000 ++
    leBytes 4 0 ++ leBytes 8 (2 ^ 37) ++ leBytes 8 0 ++ leBytes 4 0 ++ leBytes 12 0 ++
    leBytes 2 1 ++ [6, 0] ++ leBytes 4 0 ++ leBytes 4 0 ++ leBytes 4 2
def idleSlot : State := (withQueue { BatchQueue.reset with ringBase := 0x100000, ringSize := 4 }).slabPut 5 0 layoutBlock
theorem wit_Enable : (idleSlot.bqEnableCheck 0 63 { (idleSlot.bq 0 63) with ctrl := bqCtrlValue 0 0x509 }) =
    (0, some layout0) ∧ bqCtrlValue 0 0x509 = 0x509 ∧ (idleSlot.bq 0 63).enabled = false ∧
    ((withQueue queue0).bqEnableCheck 0 63 { (idleSlot.bq 0 63) with ctrl := 0x509 }) = (3, none) := by decide +kernel
theorem test_enable : ((after (.bqEnable 0 63 0x509) idleSlot).bq 0 63).layout = some layout0 ∧
    ((after (.bqEnable 0 63 0x509) (withQueue BatchQueue.reset)).bq 0 63).cause = 3 ∧
    ((after (.bqEnable 0 63 0x501) (withQueue queue0)).bq 0 63).cause = 10 := by decide +kernel
theorem test_disable : ((after (.bqDisable 0 63) (withQueue (queue1 none))).bq 0 63).tail = 0 := by decide +kernel

theorem wit_Delivery : let s := withQueue { queue1 none with credits := 1 }
    0 < (s.bq 0 63).credits ∧ (s.bq 0 63).read < (s.bq 0 63).tail ∧ (s.bq 0 63).copying = none ∧
    (s.bq 0 63).unwritten 2 = false ∧
    s.hbmBad 0 (s.slotAt 0 63 layout0 2).1 (s.slotAt 0 63 layout0 2).2 layout0.packBytes = false ∧ layout0.packBytes = 768 ∧
    s.hostSlot 0 63 3 + 768 ≤ 2 ^ 64 := by decide +kernel
theorem test_delivery : let t := after (.delivery 0 63) (withQueue { queue1 none with credits := 1 })
    ((t.bq 0 63).copying, (t.bq 0 63).read, (t.bq 0 63).credits) = (some (2, 0), 3, 0) := by decide +kernel

theorem wit_Close : ∀ n ∈ [0, 2], let s := (withQueue (banked n none none)).withItems [queueOp opBatchClose 0 0]
    s.serving 0 1 opBatchClose = some (queueOp opBatchClose 0 0) ∧ (s.bq 0 63).fillBank.ordinals.length = n ∧
    (s.bq 0 63).fillBank.closedSeq = none ∧ s.earlier 0 (queueOp opBatchClose 0 0) = [] ∧ s.slab.wf = true := by decide +kernel
theorem test_close_result : let s := (withQueue (banked 2 none (some 0))).withItems [queueOp opBatchClose 0 0]
    ((after (.batchClose 0 1) s).item? 0 1).map (fun i => (i.status, i.r0, i.r1)) = some (.ok, 2, 1) := by decide +kernel
theorem test_close_header : let s := (withQueue (banked 2 none none)).withItems [queueOp opBatchClose 0 0]
    (after (.batchClose 0 1) s).slabGet 5 0x4000 32 =
      [0x54, 0x41, 0x42, 0x4B, 1, 0, 8, 0, 0, 0, 0, 0, 0, 0, 0, 0, 0, 0, 0, 0, 2, 0, 0, 0, 2, 0, 0, 0, 0, 0, 0, 0] := by
  decide +kernel
theorem wit_Swap : ((withQueue (banked 2 (some 0) none)).bq 0 63).fillBank.closedSeq.isSome = true ∧
    ((withQueue (banked 2 (some 0) none)).bq 0 63).otherBank.closedSeq = none := by decide +kernel
theorem test_bank_swap : ((after (.bankSwap 0 63) (withQueue (banked 2 (some 0) none))).bq 0 63).fill = true := by decide +kernel
theorem wit_SlotWrite : let s := withQueue { banked 0 none (some 3) with tail := 4 }
    s.hbm.sorted = true ∧ (s.bq 0 63).otherBank.closedSeq = some 3 ∧ 3 < (s.bq 0 63).tail ∧
    s.slabBad 5 (s.bankBase 0 63 layout0 true) layout0.packBytes = false := by decide +kernel
theorem test_slot_write : let t := after (.packSlotWrite 0 63) ((withQueue { banked 0 none (some 3) with tail := 4 }).slabPut 5
      0x4400 [0xAB])
    ((t.bq 0 63).tail, (t.hbmGet 0 1 (3 * 1024) 2)) = (4, [0xAB, 0]) := by decide +kernel
theorem wit_EpochReset : let b := { banked 0 none none with layout := some layoutShuffled, epochPending := true }
    ((withQueue b).bq 0 63).fillBank.ordinals = [] ∧ ((withQueue b).bq 0 63).epochPending = true := by decide +kernel
theorem test_epoch_reset : let b := { banked 0 none none with layout := some layoutShuffled, epochPending := true, pos := 9 }
    ((after (.shuffleEpochReset 0 63) (withQueue b)).bq 0 63).pos = 0 := by decide +kernel

/-- A vector of sample 6 for queue 63: its tag, then its 8 bytes. -/
def vector : RxPacket :=
  { part := 0, src := 1, vc := 2, frame := none
    data := padTo 1024 (leBytes 6 6 ++ [0, 63] ++ leBytes 24 0 ++ [1, 2, 3, 4, 5, 6, 7, 8]) }
def arriving (b : BatchQueue) : State := (withQueue b).updTile 5 fun x => { x with rxq := x.rxq.set (3 : Fin 4) [vector] }
theorem wit_Samples : let s := arriving queue0
    s.tilePart 5 = some 0 ∧ s.queuesAt 0 5 = [63] ∧ (s.bq 0 63).holding = false ∧ s.clusterOper 0 = .run ∧
    (s.ledgerWord ⟨.tile, 5⟩).oper ≠ .fenced ∧ s.tiles[(5 : Tile)].dropping = [] ∧ s.slab.wf = true ∧
    (s.bq 0 63).fillBank.closedSeq = none ∧
    s.continues 0 5 vector = none ∧ field vector.data 7 1 = 63 ∧ (s.bq 0 63).arriving = [] ∧ vector.data.length = 1024 ∧
    field vector.data 6 1 = 0 ∧ field vector.data 8 4 = 0 ∧ zeros vector.data 25 7 = true ∧ layout0.need 0 = 8 ∧
    (s.bq 0 63).fillBank.ordinals.length + 1 < layout0.s := by decide +kernel
theorem wit_Samples_disabled : let s := arriving { queue0 with enabled := false }
    (s.bq 0 63).enabled = false ∧ s.queuesAt 0 5 = [63] ∧ s.continues 0 5 vector = none := by decide +kernel
theorem test_sample_placed : let t := after (.sampleArrival 5) (arriving queue0)
    (t.slabGet 5 (0x4000 + 256) 9, (t.bq 0 63).fillBank.ordinals.map (·.sample)) = ([1, 2, 3, 4, 5, 6, 7, 8, 0], [6]) := by
  decide +kernel

/-! ## Start-up -/

theorem wit_Por : { live with porN := false }.porN = false ∧ live.pwrbrkN = true ∧ live.vrhotN = true := by decide +kernel
theorem test_por_keeps_the_ledger : let t := after .porAssert (live.slabPut 0 0 [7])
    (t.slab, t.ready, (t.ledgerWord ⟨.tile, 0⟩).oper, (t.parts[(0 : Port)]).keyGen) = ([], false, .run, 1) := by decide +kernel
theorem test_release_counts_warm : (afterAll [.porAssert, .porRelease 6 true] live).starts = 1 ∧
    (afterAll [.removalOfPower, .porRelease 6 true] live).starts = 0 := by decide +kernel

/-- A floor image of six absent records and a PART image with one pipeline on cluster 0, signed as R37 to R39 say: digest,
key, signature and section CRCs were computed outside the model. -/
def signedImage (kind target total dg x y r v : Nat) (secs : List (Nat × Nat × Nat × Nat)) (bodies : List Byte) : List Byte :=
  let head := [0x51, 0x4C, 0x43, 0x4B] ++ leBytes 2 2 ++ leBytes 2 0 ++ leBytes 1 kind ++ leBytes 1 target ++
    leBytes 2 secs.length ++ leBytes 4 0 ++ leBytes 8 total ++ leBytes 8 256 ++ leBytes 8 (total - 256) ++ leBytes 8 1 ++
    leBytes 48 0 ++ beBytes 48 dg ++ leBytes 112 0
  let table := secs.flatMap fun e => leBytes 2 e.1 ++ leBytes 2 1 ++ leBytes 4 e.2.1 ++ leBytes 8 e.2.2.1 ++ leBytes 8 0 ++
    leBytes 4 e.2.2.2 ++ leBytes 4 0
  padTo (total - 256) (padTo ((secs.head?).elim 0 fun e => e.2.2.1) (head ++ table) ++ bodies) ++ leBytes 4 0x4B534947 ++
    leBytes 2 1 ++ leBytes 2 1 ++ leBytes 8 0 ++ beBytes 48 x ++ beBytes 48 y ++ beBytes 48 r ++ beBytes 48 v ++ leBytes 48 0

/-- The floor image and the SHA-384 of its key. -/
def floorBytesDigest : Nat :=
  0x807BF6A138E36F7880D7EA7711CD6553208CB2D5DE3CF89D3A131F748313F0AFA4933B468B49A93691325E98007FFE2B
def floorBytes : List Byte := signedImage 1 0xFF 1408 floorBytesDigest
  0x3FE56A32B656FF18640619579D5A9B84C083413A9C03D2AE29C1B281E7F2DD952DE44FFA658FBE157429695834BA3C95
  0x1D8ECA772C814391191374827977BF7A03F04D1F74BC235D9ED019994A74F96513DF714D7DBFEA21ADEA2ACD4C5D61AD
  0x01EFDA84E38DBDE2035FA9DC4735954C8232CB5778F3E2755985E2CE23E166FFE218D1B59BC555E46AF1478A6875A5C6
  floorBytesDigest
  [(1, 784, 320, 0x8713C9F7)]
  (leBytes 4 128 ++ leBytes 4 6 ++ leBytes 8 0 ++ (List.range 6).flatMap fun k => leBytes 128 k)
def floorBytesKey : List Byte := beBytes 48
  0x63A0E76C5B27230BFBDDA932A200BA64634E602E56BC06EFEEAC3285CC81577441DD35831057372A03A402209C7037DD
/-- The partition image and the SHA-384 of its key. -/
def partBytesDigest : Nat :=
  0x31162DDD4AD19FF982B7DBE38C32F2805C19B8392A82EC1883D1A8E62778DB8AF9B22D4B9D24E7B90CBEF99AA8B32E4A
def partBytes : List Byte := signedImage 2 0 1024 partBytesDigest
  0xAEFC134181F355EE7D14CDF9049B2C5C334DDD9977034D7360C6200BD5662A8C1619780507F72F14CFD594D4F6B92C56
  0x14AF1E87F837A8AA156164064FE8BEE044F3511D69F38637657AA8862582DFF4108144870ED2C149EB21F10AEE5976B2
  0x622C5BBA95A33FF3056FB7C71865E500B83370725505D83107A351CC4EF1B715F3645A973A49CF72197DF33551665C94
  partBytesDigest
  [(4, 16, 384, 0x5456B255), (5, 16, 448, 0x5456B255), (7, 48, 512, 0xA73BDC39), (11, 32, 576, 0x63F74A39)]
  (leBytes 64 16 ++ leBytes 64 16 ++ padTo 64 (leBytes 4 32 ++ leBytes 4 1 ++ leBytes 8 0 ++ [0, 6, 0xFF, 15] ++ leBytes 4 64 ++
    leBytes 4 64 ++ leBytes 4 0 ++ leBytes 8 0x80 ++ leBytes 8 0) ++ leBytes 4 16 ++ leBytes 4 1 ++ leBytes 8 0 ++ [0, 2, 3, 0] ++
    leBytes 4 2048 ++ leBytes 8 0)
def partBytesKey : List Byte := beBytes 48
  0x44A569B7F3FD9467A3330C8B325DF5101A6A821438DBC9F4C64A52BAA16A6D44F58B0295825D039463D99627F4E13E5A

/-- A bank of ORLYS_FW that authenticates, with the hash of the floor's key. -/
def fwInfo : FwMeta :=
  { authentic := true, securityVersion := Config.fusedMinSecurity, version := 3, floorKeyHash := floorBytesKey, digest := []
    modulesOk := true }
/-- A device in start-up with bytes in both floor banks, a firmware bank for each flag and a floor bank for each. -/
def startingWith (raw : List Byte) (fw0 fw1 fl0 fl1 : Bool) (g : Boot → Boot) : State :=
  let bank (b : Bool) : FwBank := { valid := b, info := some fwInfo, raw := [] }
  { State.reset with
    boot := g { Boot.reset with running := some fwInfo }
    flash := { State.reset.flash with fw := #v[bank fw0, bank fw1], floor := #v[raw, raw], floorValid := #v[fl0, fl1] } }
def startingUp (fw0 fw1 fl0 fl1 : Bool) (g : Boot → Boot) : State := startingWith floorBytes fw0 fw1 fl0 fl1 g

theorem fw_boots (b : Bool) : FwBank.boots { valid := b, info := some fwInfo, raw := [] } = b := by cases b <;> simp [FwBank.boots, fwInfo]
theorem wit_Boot_start : ∀ s ∈ [startingUp true true true true id], s.porN = true ∧ s.power.tripped = false ∧
    s.boot.ledgerInit = false ∧ s.boot.recovery = false := by decide +kernel
theorem wit_Boot_banks : (startingUp true false true true id).flash.fw[(0 : Fin 2)].boots = true ∧
    (startingUp false true true true id).flash.fw[(0 : Fin 2)].boots = false ∧
    (startingUp false true true true id).flash.fw[(1 : Fin 2)].boots = true ∧
    (startingUp false false true true id).flash.fw[(1 : Fin 2)].boots = false :=
  ⟨fw_boots true, fw_boots false, fw_boots true, fw_boots false⟩
/-- The checks of a floor bank read the key hash and the order code of a state, and nothing else of it. -/
theorem floor_bank_key (s t : State) (raw : List Byte) (h : s.floorKeyHash = t.floorKeyHash) (g : s.orderCode = t.orderCode) :
    s.verifyFloorBank raw = t.verifyFloorBank raw := by unfold State.verifyFloorBank; rw [h, g]
/-- With both firmware banks good, a floor bank is good when its bytes verify. -/
theorem floor_bank_ok (raw : List Byte) (fl0 fl1 : Bool) :
    (startingWith raw true true fl0 fl1 id).floorBankOk 0 =
      (fl0 && ((startingWith raw true true true true id).verifyFloorBank raw).isNone) ∧
    (startingWith raw true true fl0 fl1 id).floorBankOk 1 =
      (fl1 && ((startingWith raw true true true true id).verifyFloorBank raw).isNone) :=
  ⟨congrArg (fun v => fl0 && Option.isNone v) (floor_bank_key _ _ raw rfl rfl),
    congrArg (fun v => fl1 && Option.isNone v) (floor_bank_key _ _ raw rfl rfl)⟩
set_option maxRecDepth 1000000 in
theorem floor_bytes_verify : (startingWith floorBytes true true true true id).verifyFloorBank floorBytes = none := by
  decide +kernel
theorem wit_Boot_floor : (startingUp true true true true id).floorBankOk 0 = true :=
  (floor_bank_ok floorBytes true true).1.trans (congrArg (fun v => true && Option.isNone v) floor_bytes_verify)
theorem wit_Boot_floor_second : (startingUp true true false true id).floorBankOk 0 = false ∧
    (startingUp true true false true id).floorBankOk 1 = true ∧
    (startingUp true true false false id).floorBankOk 1 = false :=
  ⟨(floor_bank_ok floorBytes false true).1,
    (floor_bank_ok floorBytes false true).2.trans (congrArg (fun v => true && Option.isNone v) floor_bytes_verify),
    (floor_bank_ok floorBytes false false).2⟩
/-- Each later step of the timeline is due. -/
def due (rails pairs : Nat) (ready : Bool) : State := startingUp true true true true fun b => { b with
  aonClock := true, ledgerInit := true, fwRunning := true, floorChecked := true, railsOn := rails, hbmPairs := pairs
  modules := true, ready := ready, defaultFloor := some FloorImage.absent }
theorem wit_Boot_rails : (due 0 0 false).railDue = true ∧ (due 5 4 false).railDue = true ∧ (due 5 3 false).railDue = false ∧
    (due 4 0 false).boot.railMissing = none ∧
    { (due 0 0 false).boot with railMissing := some 0x40 }.railMissing = some 0x40 := by decide +kernel
theorem wit_Boot_rest : 5 ≤ (due 5 3 false).boot.railsOn ∧ (due 5 3 false).boot.hbmPairs = (3 : Fin 4).val ∧
    2 ≤ (due 2 0 false).boot.railsOn ∧ (due 6 4 false).boot.ready = false ∧ (due 6 4 false).boot.fatal = false ∧
    (due 6 4 false).parts[(0 : Port)].place = none := by decide +kernel
theorem wit_Boot_modules : (due 6 4 false).boot.running.any (·.modulesOk) = true := rfl
theorem test_authenticate_recovery : (after .bootAuthenticate { startingUp false false true true id with
    boot := { Boot.reset with ledgerInit := true } }).boot.recovery = true := by decide +kernel
theorem test_rail_order : (after (.railSwitchOn (.regulates 0)) (due 3 0 false)).boot.railsOn = 4 ∧
    (after (.railSwitchOn (.regulates 0)) (due 3 0 false)).msgs =
      [.pmbus 0x43 .voutMode, .pmbus 0x43 (.operation true), .pmbus 0x43 .readVout] ∧
    ([RailAnswer.noAck, .regulates 32].map fun a => (after (.railSwitchOn a) (due 3 0 false)).boot.railMissing) =
      [some 0x43, some 0x43] := by decide +kernel
theorem test_hbm_pair_fails : ((after (.hbmInit 3 true false) (due 5 3 false)).ledgerWord ⟨.hbm, 7⟩).oper = .faulted := by
  decide +kernel

/-! ## Kyvel commands -/

/-- SMBus is up and the management path owns the floor. -/
def managed : State := { railed with floorSel := 6 }
/-- A request naming tile 9 under this generation, target and flags. -/
def ledgerReq (gen target : Nat) : List Byte := [1, 0] ++ leBytes 2 9 ++ leBytes 4 gen ++ leBytes 8 target
def tile9 : UnitId := ⟨.tile, 9⟩
/-- A mailbox command in progress. -/
def boxed (code : Nat) (req : List Byte) : State := managed.updPort 0 fun q => { q with
  mbx := { q.mbx with st := .busy, holder := some 0, cmd := BitVec.ofNat 64 code, req := req } }
/-- Tile 9 in this admin state. -/
def adminIn (a : Admin) : State := { managed with ledger := managed.ledger.set 9 { runWord with admin := a, drainTo := .maintenance } }

theorem wit_Kyvel_path : kyServed managed 0x01 (ledgerReq 1 0) (.mgmt .smbus) := by unfold kyServed; decide +kernel
theorem wit_Kyvel_box : kyServed (boxed 0x05 [1]) 0x05 [1] (.mbx 0) := by unfold kyServed; decide +kernel
theorem wit_Kyvel_floor : ∀ c ∈ [0x10, 0x11, 0x12], kyServed (boxed c []) c [] (.mbx 0) ∧ kyServed managed c [] (.mgmt .smbus) := by
  unfold kyServed; decide +kernel
/-- The mailbox of port 0 was written after that of port 1, whose command is in progress. -/
def waitingBox : State := ((boxed 0x06 []).updPort 0 fun q => { q with mbx := { q.mbx with arrival := 1 } }).updPort 1 fun q =>
  { q with mbx := { q.mbx with st := .busy, arrival := 0, cmd := 6 } }
theorem wit_Kyvel_waits : waitingBox.ports[(1 : Port)].mbx.st = .busy ∧
    waitingBox.ports[(1 : Port)].mbx.arrival < waitingBox.ports[(0 : Port)].mbx.arrival ∧ waitingBox.boot.fatal = false := by
  decide +kernel
theorem test_kyvel_by_arrival : (after (.powerRead (.mbx 0) []) waitingBox).ports[(0 : Port)].mbx.st = .busy ∧
    (after (.powerRead (.mbx 1) []) waitingBox).ports[(1 : Port)].mbx.st ≠ .busy := by decide +kernel
theorem wit_Ledger : unitOfCode (field (ledgerReq 1 2) 0 1) (field (ledgerReq 1 2) 2 2) = some tile9 ∧
    adminTarget (field (ledgerReq 1 3) 8 1) = some .maintenance ∧ managed.mayCommand (.mbx 1) tile9 = false ∧
    managed.mayCommand (.mgmt .smbus) tile9 = true ∧ (managed.ledgerWord tile9).gen.toNat = field (ledgerReq 1 2) 4 4 ∧
    (managed.ledgerWord tile9).gen.toNat ≠ field (ledgerReq 2 2) 4 4 ∧ (managed.ledgerWord tile9).admin = .inService := by
  decide +kernel
theorem wit_Ledger_drain : (adminIn .draining).unitEmpty tile9 = true ∧ ((adminIn .draining).ledgerWord tile9).admin = .draining ∧
    ((adminIn .draining).updTile 9 fun x => { x with queue := [{
      port := 0, key := 1, pipeline := 0, args := { b := 1, d := 0, s0 := 0, e0 := 0 }, window := none, frame := none }] }).unitEmpty
        tile9 = false := by decide +kernel
theorem test_ledger_admin_drains : ((after (.ledgerAdmin (.mgmt .smbus) (ledgerReq 1 2)) managed).ledgerWord tile9).admin =
    .outOfService ∧ ((after (.ledgerAdmin (.mgmt .smbus) (ledgerReq 2 2)) managed).ledgerWord tile9).admin = .inService := by
  decide +kernel
theorem wit_FaultClear : field (ledgerReq 1 0) 8 1 = 0 ∧ ((adminIn .maintenance).ledgerWord tile9).admin = .maintenance ∧
    ((adminIn .maintenance).ledgerWord tile9).selfTest = none ∧ ((adminIn .inService).ledgerWord tile9).admin ≠ .maintenance ∧
    ((after (.faultClear (.mgmt .smbus) (ledgerReq 1 0)) (adminIn .maintenance)).ledgerWord tile9).selfTest =
      some (.mgmt .smbus) := by decide +kernel
theorem test_self_test : let s := after (.faultClear (.mgmt .smbus) (ledgerReq 1 0)) (adminIn .maintenance)
    ((after (.selfTestDone tile9 0xFF01) s).ledgerWord tile9).fault = 0x3F41 ∧
    ((after (.selfTestDone tile9 0) s).ledgerWord tile9).fault = 0 := by decide +kernel

/-- A POWER_SET request. -/
def powerReq (w t : Nat) : List Byte := leBytes 2 w ++ leBytes 1 t ++ [0]
theorem wit_Management : managed.isTimeOwner .mgmt = true ∧
    field (leBytes 8 (5 * 2 ^ 60)) 0 8 / 2 ^ 60 ≤ 5 ∧ (managed.floorLoader (.mgmt .smbus)).isSome = true ∧
    managed.parts[(0 : Port)].place.isSome = true ∧ managed.parts[(0 : Port)].op = none ∧ field (leBytes 8 0) 0 1 = 0 ∧
    { boxed 5 [] with floorSel := 0 }.floorOwnerPort = some 0 := by decide +kernel
theorem test_power_set_ranges : ([(149, 0), (150, 70), (750, 100), (751, 0), (0, 69), (0, 101)].map fun x =>
    ((after (.powerSet (.mgmt .smbus) (powerReq x.1 x.2)) managed).power.cap)) = [300, 150, 750, 300, 300, 300] := by
  decide +kernel
theorem test_part_scrub : (((after (.partScrub (.mgmt .smbus) [0]) managed).parts[(0 : Port)].op).map (·.kind)) =
    some .scrub := by decide +kernel
theorem test_moraine_read : (after (.moraineRead (.mgmt .smbus) (leBytes 4 0 ++ leBytes 2 1)) (managed.logMoraine 3 0xFF 0x11 0)).msgs.getLast?
    = some (.kyvel .smbus 7 .ok ([0, 0, 0, 0, 3, 0xFF, 0, 0] ++ leBytes 8 0 ++ leBytes 8 0x11 ++ leBytes 8 0)) := by decide +kernel

/-- A FLOOR_BEGIN for 1,408 bytes; a session that holds these bytes. -/
def beginReq : List Byte := leBytes 4 1408 ++ [1, 0xFF, 0, 0] ++ leBytes 48 0
def floorSession (bs : List Byte) : Session :=
  { no := 1, floor := true, target := 0xFF, size := 1408, digest := leBytes 48 0, bytes := bs, st := .open, epoch := 0 }
def loading (bs : List Byte) : State := managed.setSession .mgmt (some (floorSession bs))
theorem wit_Floor_begin : managed.floorLoader (.mgmt .smbus) = some .mgmt ∧ managed.ready = true ∧ managed.session? .mgmt = none ∧
    managed.ownsFloor .mgmt = true ∧ field beginReq 4 1 = 1 ∧ field beginReq 5 1 = 0xFF ∧ sizeOk (field beginReq 0 4) = true ∧
    zeros beginReq 6 2 = true ∧ ((loading []).session? .mgmt).isSome = true := by decide +kernel
/-- A FLOOR_CHUNK of n bytes at an offset. -/
def chunkReq (off n : Nat) : List Byte := leBytes 4 1 ++ leBytes 4 off ++ List.replicate n 0xAA
theorem wit_Floor_chunk : (chunkReq 384 1024).length = 1032 ∧ (List.replicate 384 (0 : Byte)).length + 1024 ≤ 1408 ∧
    8 < (chunkReq 0 1).length ∧ field (chunkReq 384 1) 4 4 = 384 := by decide +kernel
theorem wit_Floor_commit : field (leBytes 4 1 ++ leBytes 4 3 ++ leBytes 8 5) 4 1 ≤ 3 ∧
    zeros (leBytes 4 1 ++ leBytes 4 3) 5 3 = true ∧ field (leBytes 4 1) 0 4 = 1 ∧
    (loading []).session? .mgmt = some (floorSession []) ∧ (loading []).expects .mgmt true 0 = true ∧
    (loading []).expects .mgmt true 5 = false := by decide +kernel
theorem test_floor_chunk : (((after (.floorChunk (.mgmt .smbus) (chunkReq 2 3)) (loading [1, 2])).session? .mgmt).map
    (·.bytes)) = some [1, 2, 0xAA, 0xAA, 0xAA] := by decide +kernel
theorem test_floor_commit_queues : (after (.floorCommit (.mgmt .smbus) (leBytes 4 1 ++ leBytes 4 2 ++ leBytes 8 0))
    (loading [])).commitQ.map (fun c => (c.verifyOnly, c.abortInFlight)) = [(true, false)] := by decide +kernel

/-! ## MCTP and PLDM -/

theorem wit_Standards : managed.transportUp .smbus = true ∧ { managed with porN := false }.transportUp .smbus = false ∧
    managed.boot.recovery = false ∧ managed.mgmtQueue = [] ∧ (0x01 : Byte) ≠ 0 ∧ (0xFE : Byte) ≠ 0xFF ∧
    ((0 : Byte).toNat, (6 : Byte).toNat) ∉ pldmCommands ∧ ((5 : Byte).toNat, (0x1E : Byte).toNat) ∉ pldmCommands := by
  decide +kernel
theorem wit_Pldm_served : pldmServed managed .smbus false true ∧ pldmServed managed .smbus false false ∧
    pldmServed managed .smbus true false := by unfold pldmServed; decide +kernel
theorem test_effecter_range : ([149, 150, 750, 751].map fun v =>
    (after (.setNumericEffecterValue .smbus 0x101 v) managed).power.cap) = [300, 150, 750, 300] := by decide +kernel
theorem test_sensor_cap : let s := after (.getSensorReading .smbus 4) managed
    s.msgs.map (fun m => match m with | .pldm _ c d => (c, d.take 3, d.drop 6) | _ => (99, [], [])) =
      [(0, [5, 0, 0], [44, 1, 0, 0])] := by decide +kernel
theorem test_poll_event : (after (.pollForPlatformEventMessage .smbus) { managed with mgmtQueue := [5, 6] }).mgmtQueue = [6] := by
  decide +kernel

/-- A firmware update in this state. -/
def updating (st : FuState) (floorComp : Bool) (size : Nat) (bs : List Byte) (v : Option Bool) : State :=
  { managed with fu := { FwUpdate.reset with st := st, floorComp := floorComp, size := size, bytes := bs, verdict := v } }
theorem wit_Firmware : managed.fu.st = .idle ∧ (updating .download false 1030 [] none).fu.size - 0 = 1030 ∧
    (List.replicate 1024 (0 : Byte)).length = min 1024 (1030 - 0) ∧
    (List.replicate 6 (0 : Byte)).length = min 1024 (1030 - (List.replicate 1024 (0 : Byte)).length) ∧
    (updating .download false 6 (List.replicate 6 0) none).fu.size ≤ 6 ∧ 16777216 ≤ 16777216 := by decide +kernel
theorem wit_Firmware_state : managed.boot.fatal = false ∧ managed.boot.recovery = false ∧ managed.transportUp .smbus = true ∧
    (updating .download false 6 [] none).fu.st = .download ∧ (updating .apply true 1 [7] none).fu.floorComp = true := by
  decide +kernel
theorem wit_Firmware_passes : (updating .verify true 0 [] (some true)).fu.passes fwInfo = true ∧
    (updating .verify true 0 [] (some false)).fu.passes fwInfo = false ∧ (updating .verify true 0 [] (some false)).fu.verdict.isSome =
      true := ⟨rfl, rfl, rfl⟩
theorem test_update_component_invalidates : (after (.updateComponent .smbus 1 64) (updating .readyXfer false 0 [] none)).flash.fw[1].valid
    = false := by decide +kernel
theorem test_apply_floor_pending : (after (.applyComplete .smbus) (updating .apply true 1 [7] none)).flash.floorPending = some 1 := by
  decide +kernel

/-! ## Images -/

/-- An IMAGE_BEGIN of 1,408 bytes whose digest is at 0x4000, a CHUNK of two bytes at 0x5000 for offset 2 of session 1, and a
COMMIT and an UNLOAD of any version. -/
def beginD : List Byte := desc opImageBegin 0 7 0 0 [(16, 4, 1408), (20, 1, 2), (21, 1, 0), (24, 8, 0x4000)]
def chunkD (off : Nat) : List Byte := desc opImageChunk 0 7 0 0 [(16, 8, 0x5000), (24, 4, 2), (28, 4, 1), (32, 8, off)]
def commitD : List Byte := desc opImageCommit 0 7 0 0 [(16, 4, 1), (24, 8, 2 ^ 64 - 1)]
def unloadD (v : Nat) : List Byte := desc opImageUnload 0 7 0 0 [(16, 8, v)]
/-- A session of port 0 in this state with these bytes. -/
def partSession (st : SessionState) (size : Nat) (bs : List Byte) : Session :=
  { no := 1, floor := false, target := 0, size := size, digest := beBytes 48 partBytesDigest, bytes := bs, st := st, epoch := 0 }
/-- Port 0 with one waiting item and this session. -/
def imaging (d : List Byte) (z : Option Session) : State :=
  ((live.withItems [item 1 d .waiting]).updPart 0 fun x => { x with session := z }).hostPut 0 0x5000 [0xAA, 0xBB]

theorem wit_Images_begin : let s := imaging beginD none
    s.portItem 0 1 opImageBegin = some (item 1 beginD .waiting) ∧ (item 1 beginD .waiting).fld 20 1 = 2 ∧
    sizeOk ((item 1 beginD .waiting).fld 16 4) = true ∧ s.parts[(0 : Port)].place.isSome = true ∧
    s.readPlace 0 (item 1 beginD .waiting) (.host 0x4000) 48 = .bytes (List.replicate 48 0) ∧
    sizeOk 1024 = true ∧ sizeOk 960 = false ∧ sizeOk 268435456 = true ∧ sizeOk 268435520 = false := by decide +kernel
theorem wit_Images_chunk : let s := imaging (chunkD 2) (some (partSession .open 4 [1, 2]))
    s.portItem 0 1 opImageChunk = some (item 1 (chunkD 2) .waiting) ∧
    s.readPlace 0 (item 1 (chunkD 2) .waiting) (.host 0x5000) 2 = .bytes [0xAA, 0xBB] ∧
    s.parts[(0 : Port)].session = some (partSession .open 4 [1, 2]) ∧ (item 1 (chunkD 2) .waiting).fld 32 8 = 2 ∧ 2 + 2 ≤ 4 := by
  decide +kernel
theorem wit_Images_live : ∀ d ∈ [beginD, chunkD 2, commitD], (item 1 d .waiting).orphan = false := by decide +kernel
theorem wit_Images_commit : let s := imaging commitD (some (partSession .open 4 []))
    s.portItem 0 1 opImageCommit = some (item 1 commitD .waiting) ∧ s.chunksOut 0 (item 1 commitD .waiting) = false ∧
    (item 1 commitD .waiting).fld 16 4 = 1 := by decide +kernel
theorem test_image_begin : let t := after (.imageBegin 0 1) (imaging beginD none)
    (t.parts[(0 : Port)].session.map (·.size), (t.item? 0 1).map (·.r0)) = (some 1408, some 1) ∧
    ((after (.imageBegin 0 1) (imaging beginD (some (partSession .open 4 [])))).item? 0 1).map (·.status) = some .limit := by
  decide +kernel
theorem test_image_chunk : let at_ (off : Nat) := after (.imageChunk 0 1) (imaging (chunkD off) (some (partSession .open 4 [1, 2])))
    ((at_ 2).parts[(0 : Port)].session.map (·.bytes), ((at_ 2).item? 0 1).map (·.r0)) = (some [1, 2, 0xAA, 0xBB], some 4) ∧
    ((at_ 0).parts[(0 : Port)].session, ((at_ 0).item? 0 1).map (·.status)) = (none, some .imageInvalid) := by decide +kernel
theorem test_image_commit : (after (.imageCommit 0 1) (imaging commitD (some (partSession .open 4 [])))).commitQ.map
    (fun c => (c.asker, c.verifyOnly)) = [(.item 0 1, false)] := by decide +kernel

/-! ## Commits -/

/-- A commit of port 0's session with these flags and this expected version. -/
def commitOf (verifyOnly : Bool) (v : Nat) : Commit :=
  { arrival := 0, kind := .session (.port 0), asker := .item 0 1, abortInFlight := false, verifyOnly := verifyOnly
    expect := BitVec.ofNat 64 v }
/-- Its commit arrived first, on a partition of cluster 0. -/
def committing (bs : List Byte) (v : Nat) : State :=
  { live.updPart 0 fun x => { x with
      place := some { place0 with clusters := 1, keyHash := partBytesKey }
      session := some (partSession .queued 1024 bs) } with commitQ := [commitOf false v] }
set_option maxRecDepth 1000000 in
/-- An image that passes every check. -/
theorem part_verify : (committing partBytes 0).verify (.port 0) (partSession .queued 1024 partBytes) = none := by decide +kernel
theorem wit_Commits : (committing [] 0).verified = none ∧ (committing [] 0).commitQ = [commitOf false 0] ∧
    (committing [] 0).parts[(0 : Port)].session = some (partSession .queued 1024 []) ∧
    (committing [] 0).commitDue (commitOf false 0) = false ∧
    (commitOf false 0).expect = (committing [] 0).parts[(0 : Port)].version ∧
    (commitOf false (2 ^ 64 - 1)).expect = BitVec.allOnes 64 ∧
    (commitOf false 5).expect ≠ (committing [] 5).parts[(0 : Port)].version ∧
    ((committing [] 0).verify (.port 0) (partSession .queued 1024 [])).isSome = true := by decide +kernel
/-- An image that passed its checks waits for its point of no return. -/
def verifiedPart (only : Bool) : State := { committing [] 0 with
  verified := some (.part 0 image0 (commitOf only 0)), commitQ := [] }
def verifiedFloor : State := { live with verified := some (.floor FloorImage.absent (commitOf false 0)) }
theorem wit_Commits_part : (verifiedPart false).refusing 0 = false ∧ (commitOf true 0).verifyOnly = true := by decide +kernel
theorem wit_Commits_items : ItemsOk (verifiedPart false) := by unfold ItemsOk; decide +kernel
theorem wit_Commits_floor : verifiedFloor.floorChange = none ∧ verifiedFloor.floorHeard (.port 0) = true := by decide +kernel
theorem test_commit_fails : let t := after .commitVerify (committing [] 0)
    (t.parts[(0 : Port)].session, t.parts[(0 : Port)].imgError == 0, t.verified.isSome) = (none, false, false) := by decide +kernel
theorem test_point_of_no_return : (after .pointOfNoReturn (verifiedPart false)).parts[(0 : Port)].pstate = .applying ∧
    (after .pointOfNoReturn (verifiedPart true)).parts[(0 : Port)].pstate = .loaded ∧
    ((after .pointOfNoReturn verifiedFloor).floorChange.map (·.started)) = some false := by decide +kernel

/-! ## Drains, fences and ends -/

/-- An operation of this kind in this phase on a partition of cluster 0. -/
def opOn (k : OpKind) (ph : OpPhase) (acks : List Nat) : PartOp :=
  { kind := k, phase := ph, abortInFlight := false, image := some image0, asker := .nobody, acks := acks, bumped := false }
def operating (k : OpKind) (ph : OpPhase) (acks fenced : List Nat) : State := live.updPart 0 fun x => { x with
  place := some { place0 with clusters := 1 }, op := some (opOn k ph acks), fenced := fenced }
theorem wit_Drains : ∀ k ∈ [OpKind.apply, .unload, .scrub, .budget], (operating k .draining [] []).entriesLeft 0 = false ∧
    (operating k .draining [] []).parts[(0 : Port)].op = some (opOn k .draining []) ∧
    (operating k .draining [] []).hbm.sorted = true ∧ (operating k .draining [] []).power.tripped = false := by decide +kernel
theorem wit_Fences : let s := operating .apply .fencing [] []
    tileStop 0 ∈ s.partStops 0 ∧ (s.partStops 0).all (· < 144) = true ∧ s.parts[(0 : Port)].quiet (tileStop 0) = true ∧
    s.parts[(0 : Port)].pstate ≠ .failed ∧ s.partStops 0 ≠ [] := by decide +kernel
theorem wit_Fences_last : let s0 := operating .apply .fencing [] []
    let s := operating .apply .fencing ((s0.partStops 0).drop 1) (s0.partStops 0)
    (s.partStops 0).all (fun d => d ∈ (s.partStops 0).drop 1 ++ (s.partStops 0).take 1) = true ∧
    ((s.partStops 0).take 1).all (fun d => d ∉ (s.partStops 0).drop 1 && d ∈ s.parts[(0 : Port)].fenced) = true := by
  decide +kernel
theorem test_drain_fences : let t := after (.partitionDrained 0) (operating .unload .draining [] [])
    (t.parts[(0 : Port)].op.map (·.phase), t.msgs.length) = (some .fencing, 8 + hbmStops.length + portStops.length) := by
  decide +kernel
theorem test_last_ack_writes : let s0 := operating .apply .fencing [] []
    let d := ((s0.partStops 0)[0]?).getD 0
    let t := after (.fenceAck 0 (Fin.ofNat 144 d)) (operating .apply .fencing ((s0.partStops 0).drop 1) (s0.partStops 0))
    (t.parts[(0 : Port)].op.map (·.phase)) = some .writing := by decide +kernel
theorem wit_Applies : let s := operating .apply .writing [] []
    s.clustersUp 0 = true ∧ s.parts[(0 : Port)].scrubNext = none ∧ (opOn .apply .writing []).image = some image0 := by
  decide +kernel
theorem wit_Unloads : ([2 ^ 64 - 1, 0, 5].all fun v => (imaging (unloadD v) none).portItem 0 1 opImageUnload =
    some (item 1 (unloadD v) .waiting)) = true ∧ (imaging (unloadD 0) none).parts[(0 : Port)].op = none ∧
    (imaging (unloadD 0) none).refusing 0 = false ∧ (imaging (unloadD 0) none).parts[(0 : Port)].pstate ≠ .notReady ∧
    (imaging (unloadD 0) none).parts[(0 : Port)].version = 0 := by decide +kernel
theorem wit_Unloads_items : ItemsOk (imaging (unloadD 0) none) := by unfold ItemsOk; decide +kernel
theorem wit_Zeroing : ∀ k ∈ [OpKind.unload, .scrub], let s := operating k .zeroing [] []
    s.slab.wf = true ∧ s.clusters.toList.all (·.thawing == none) = true ∧ s.parts[(0 : Port)].place.isSome = true ∧
    s.ownsCluster 0 0 = true ∧ s.ownsCluster 0 1 = false := by decide +kernel
theorem test_structure_write : let t := after (.structureWriteDone 0) ((operating .apply .writing [] []).updPart 0 fun x =>
    { x with image := none, pstate := .applying })
    (t.parts[(0 : Port)].image, t.parts[(0 : Port)].pstate, t.parts[(0 : Port)].version) = (some image0, .loaded, 1) := by
  decide +kernel
theorem test_unload : let s := (operating .unload .zeroing [] []).slabPut 7 5 [3] |>.slabPut 8 5 [4]
    let t := after (.slabZeroingDone 0) s
    (t.parts[(0 : Port)].pstate, t.slabGet 7 5 1, t.slabGet 8 5 1) = (.empty, [0], [4]) := by decide +kernel
theorem test_unload_wrong_version : ((after (.imageUnload 0 1) (imaging (unloadD 5) none)).item? 0 1).map (·.status) =
    some .stateStale := by decide +kernel

/-! ## The floor -/

/-- A floor of which partition 0 keeps its record, partition 1 is new and the rest are absent. -/
def newFloor (r : Place) : FloorImage :=
  { version := 5, digest := zeroDigest, places := #v[some r, some { place0 with clusters := 0 }, none, none, none, none] }
def changing (r : Place) (started : Bool) (c : FloorClass) : State := { live with floorChange := some {
  image := newFloor r, commit := commitOf false 0, classes := #v[c, .scrub, .none, .none, .none, .none], started := started } }
theorem wit_Floors : (changing place0 false .none).applying = false ∧
    floorClassOf (changing { place0 with clusters := 1 } false .none).parts[(0 : Port)].place (some { place0 with clusters := 1 }) =
      .scrub ∧ (changing place0 false .none).parts[(0 : Port)].op = none := by decide +kernel
theorem wit_Floors_write : ((changing place0 true .none).floorChange.all fun f => (changing place0 true .none).floorDrained f &&
    (List.finRange 6).all fun p => f.classes[p] != .budget) = true ∧ (⟨.tile, 0⟩ : UnitId).valid = true := by decide +kernel
theorem test_floor_apply : (after .floorApply (changing { place0 with clusters := 1 } false .none)).parts[(0 : Port)].op.map
    (·.kind) = some .scrub := by decide +kernel
theorem test_floor_write : let t := after .floorWriteDone (changing place0 true .none)
    (t.floorVersion, t.parts[(1 : Port)].pstate, t.parts[(1 : Port)].place.isSome) = (5, .empty, true) := by decide +kernel

/-! ## Ageing and epochs -/

/-- A directory entry (Table 5.2) from fields as offset, length and value. -/
def entryBytes (rest : List (Nat × Nat × Nat)) : List Byte :=
  (List.range 64).map fun k =>
    match rest.find? fun t => t.1 ≤ k && k < t.1 + t.2.1 with
    | some (o, _, v) => BitVec.ofNat 8 (v / 256 ^ (k - o))
    | none => 0
/-- A HASH table with AGEING of flow 7, TTL 2 and 16 buckets at 0x4000, every way the key 0 of age 0, but way 0 of bucket 0 the
key 5 of age 1. -/
def agedEntry : List Byte := entryBytes [(0, 1, 2), (1, 1, 11), (2, 1, 4), (3, 1, 1), (4, 4, 0x4000), (8, 4, 16), (12, 1, 2), (32, 3, 7)]
def aged : State := ((live.slabPut 3 64 agedEntry).slabPut 3 0x4000 [5]).slabPut 3 0x4400 [1]
def ageD : List Byte := desc opAgeTick 0 7 0 7 [(16, 1, 1), (18, 2, 1), (32, 16, 8)]
def ageing : State := aged.withItems [item 1 ageD .inService]
theorem wit_Age : memoriesOk ageing = true ∧ ageing.serving 0 1 opAgeTick = some (item 1 ageD .inService) ∧
    ((List.range 128).filter fun t => ((item 1 ageD .inService).fld 32 16).testBit t) = [3] ∧
    ageing.clusterOper 0 = .run ∧ ageing.slabBad 3 64 64 = false ∧
    (let e := TabEntry.of 1 (ageing.slabGet 3 64 64)
     e.kind = 2 ∧ e.ageing = true ∧ e.flow = (item 1 ageD .inService).flow ∧ e.wf = true ∧ e.isHome = false) := by decide +kernel
theorem test_age_tick : let t := after (.ageTick 0 1) ageing
    (((t.item? 0 1).map fun i => (i.status, i.r0, i.r1)), t.slabGet 3 0x4000 16, t.slabGet 3 0x4401 1) =
      (some (.ok, 1, 127), leBytes 8 (2 ^ 64 - 2) ++ leBytes 8 0, [1]) := by decide +kernel
/-- Tile 3 has no entry in its directory. -/
theorem wit_Age_no_table : let s := live.withItems [item 1 ageD .inService]
    s.serving 0 1 opAgeTick = some (item 1 ageD .inService) ∧ s.clusterOper 0 = .run ∧ s.slabBad 3 64 64 = false ∧
    (TabEntry.of 1 (s.slabGet 3 64 64)).kind ≠ 2 := by decide +kernel
theorem test_age_no_table : ((after (.ageTick 0 1) (live.withItems [item 1 ageD .inService])).item? 0 1).map
    (fun i => (i.status, i.r0)) = some (.badDescriptor, 16) := by decide +kernel
/-- An EPOCH_SET in service. -/
def epochs (flags : Nat) : State := live.withItems [item 1 (desc opEpochSet flags 7 0 0
  [(16, 8, 0x1122334455667788), (24, 4, 5), (32, 8, 1000)]) .inService]
theorem wit_Epochs : ((epochs 0).serving 0 1 opEpochSet).isSome = true ∧
    ((List.range 64).all fun m => !((epochs 0).bq 0 m).enabled) = true := by decide +kernel
theorem test_epoch_advance : ((after (.epochSet 0 1) (epochs 16)).parts[(0 : Port)].ctx[(0 : Fin 256)].epoch) = 1 ∧
    ((after (.epochSet 0 1) (epochs 0)).parts[(0 : Port)].ctx[(0 : Fin 256)].epoch) = 5 := by decide +kernel

/-! ## Tables -/

/-- Table 0: rows of four FP32 elements in page 0 of every stack, its directory in page 16; with firn slots, in the slabs. -/
def rec0 (slots : Nat) : GatherRec :=
  { table := 0, classHot := 0, classCold := 0, rowWidth := 4, maxRows := 100, dataPage := 0, dirPage := 16, firnSlots := slots
    hotFp16 := false, coldFp16 := false, firnBase := if slots = 0 then 0 else 256, raw := [] }
/-- The table in a LOADED partition, with its runtime descriptor as g makes it. -/
def tabled (slots : Nat) (g : GatherRun → GatherRun) (i : Item) : State :=
  ((live.withItems [i]).updPart 0 fun x => { x with
    image := some { image0 with gathers := [rec0 slots] }, gtab := [g (rec0 slots).fresh] })
/-- A GATHER of one position at 0x100 of the host with its row at 0x2000 and its masks at 0x3000. -/
def gather1 : Item := { item 1 (desc opGather 0 8 0 0 [(16, 8, 0x100), (24, 8, 0x2000), (32, 8, 0x3000), (40, 4, 1), (48, 4, 64)])
  .inService with snap := [(rec0 0).fresh] }
/-- It names row 9, which lies in stack 1. -/
def gathering : State := (((tabled 0 id gather1).hostPut 0 0x100 (leBytes 4 9)).hbmPut 0 1 (16 * 4096 + 16) (leBytes 8 0)).hbmPut
  0 1 64 (leBytes 8 0x1122334455667788 ++ leBytes 8 0x99AABBCCDDEEFF00)
theorem wit_Gather : memoriesOk gathering = true ∧ gathering.servingNow 0 1 opGather = some gather1 ∧
    gathering.gatherRec 0 gather1.table = some (rec0 0) ∧ gather1.snap.find? (·.table == gather1.table) = some (rec0 0).fresh ∧
    gathering.rangesOk 0 (gather1.gatherRanges (rec0 0)) = true ∧ gather1.fld 46 1 ≤ 2 ∧ gather1.fld 40 4 = 1 ∧
    gather1.fld 52 4 = 0 ∧ 9 < (rec0 0).fresh.rows ∧
    gathering.readPlace 0 gather1 (.host 0x100) 4 = .bytes (leBytes 4 9) ∧
    gathering.readPlace 0 gather1 (dirPlace (rec0 0).fresh 1 2) 8 = .bytes (leBytes 8 0) ∧
    gathering.readPlace 0 gather1 (rowPlace (rec0 0).fresh (rec0 0) 1 2) 16 ≠ .ue := by decide +kernel
theorem wit_AllRun : AllRun gathering := by unfold AllRun; decide +kernel
theorem test_gather_row : let t := after (.gather 0 1) gathering
    t.hostGet 0 0x2000 16 = leBytes 8 0x1122334455667788 ++ leBytes 8 0x99AABBCCDDEEFF00 ∧
    (t.item? 0 1).map (·.status) = some .ok := by decide +kernel

/-- A FIRN_LOAD of one row for slot 0, its row at 0x100 and its index at 0x200 of the host. -/
def firnLoad1 : Item := item 1 (desc opFirnLoad 0 8 0 0 [(16, 8, 0x100), (24, 8, 0x200), (32, 4, 1)]) .inService
def loadingFirn : State := (tabled 16 (fun g => { g with rows := 16 }) firnLoad1).hostPut 0 0x200 (leBytes 4 9)
theorem wit_FirnLoad : memoriesOk loadingFirn = true ∧ loadingFirn.servingNow 0 1 opFirnLoad = some firnLoad1 ∧
    loadingFirn.gatherRec 0 0 = some (rec0 16) ∧ (loadingFirn.gatherRun 0 0).isSome = true ∧
    loadingFirn.rangesOk 0 (firnLoad1.firnRanges (rec0 16)) = true ∧ loadingFirn.halfHeld 0 0 1 = false := by decide +kernel
theorem wit_FirnLoad_reads : let g := { (rec0 16).fresh with rows := 16 }
    loadingFirn.gatherRun 0 0 = some g ∧ loadingFirn.readPlace 0 firnLoad1 (.host 0x200) 4 = .bytes (leBytes 4 9) ∧
    Machine.slotBytes (rec0 16) = 64 ∧
    loadingFirn.readPlace 0 firnLoad1 (.host 0x100) 64 = .bytes (List.replicate 64 0) ∧
    ((List.range 16).all fun r => loadingFirn.readPlace 0 firnLoad1 (rowDir g r) 8 != .ue) = true ∧
    loadingFirn.tilesOf 0 ≠ [] ∧ 64 * (rec0 16).firnBase + 2 * halfBytes (rec0 16) (loadingFirn.tilesOf 0).length ≤ slabBytes ∧
    ((List.range 1).filter fun n => placeable g (field (leBytes 4 9) (4 * n) 4)) = [0] := by decide +kernel
theorem test_firn_load : let t := after (.firnLoad 0 1) loadingFirn
    ((t.item? 0 1).map fun i => (i.status, i.r0, i.r1), t.halfValid 0 0 true) = (some (.ok, 1, 1), true) := by decide +kernel
theorem wit_FirnLoad_run : AllRun loadingFirn := by unfold AllRun; decide +kernel
/-- A FIRN_SWAP of these tables. -/
def firnSwap1 (tables : Nat) : Item := item 1 (desc opFirnSwap 0 8 0 0 [(16, 32, tables)]) .inService
def swapping (tables : Nat) : State := tabled 16 (fun g => { g with validB := true }) (firnSwap1 tables)
theorem wit_FirnSwap : (swapping 1).swapOffends 0 0 = false ∧ (swapping 3).swapOffends 0 1 = true ∧
    ([1, 3].all fun n => (swapping n).serving 0 1 opFirnSwap = some (firnSwap1 n)) = true ∧
    ((List.range 256).filter fun t => ((firnSwap1 3).fld 16 32).testBit t) = [0, 1] := by decide +kernel
theorem test_firn_swap : ((after (.firnSwap 0 1) (swapping 1)).gatherRun 0 0).map (·.active) = some true ∧
    ((after (.firnSwap 0 1) (swapping 3)).gatherRun 0 0).map (·.active) = some false ∧
    ((after (.firnSwap 0 1) (swapping 3)).item? 0 1).map (fun i => (i.status, i.r0)) = some (.stateStale, 1) := by decide +kernel

/-- A TABLE_REPLACE WRITE of 4,096 bytes to this page of stack 2, a SWAP to page 32 for the rows and 64 for the directory. -/
def writeT (page : Nat) : Item := item 1 (desc opTableReplace 0 8 0 0
  [(16, 8, 0x1000), (24, 8, 4096 * page), (32, 4, 64), (37, 1, 2)]) .inService
def swapT : Item := item 1 (desc opTableReplace 16 8 0 0 [(40, 4, 32), (44, 4, 64), (48, 8, 10)]) .inService
theorem wit_TableWrite : ([0, 2].all fun n => (tabled 0 id (writeT n)).serving 0 1 opTableReplace = some (writeT n)) = true ∧
    (tabled 0 id (writeT 0)).writesLive 0 (writeT 0) (rec0 0) = true ∧
    (tabled 0 id (writeT 2)).writesLive 0 (writeT 2) (rec0 0) = false ∧ (writeT 2).isSwap = false ∧
    (tabled 0 id (writeT 2)).inBounds 0 (.hbm 2 8192) 64 = true ∧
    (tabled 0 id (writeT 2)).inBounds 0 (.host 0x1000) 64 = true ∧ (tabled 0 id (writeT 2)).itsTurn 0 (writeT 2) = true := by
  decide +kernel
/-- A WRITE to the first page past the partition's GiB. -/
theorem wit_TableWrite_past : let i := writeT 262144
    (tabled 0 id i).writesLive 0 i (rec0 0) = false ∧ (tabled 0 id i).inBounds 0 (.hbm 2 (i.fld 24 8)) 64 = false := by decide +kernel
theorem wit_TableSwap : let s := tabled 16 (fun g => { g with pause := some 1 }) swapT
    s.serving 0 1 opTableReplace = some swapT ∧ swapT.isSwap = true ∧ s.swapBounds 0 swapT (rec0 16) = false ∧
    (s.gatherRun 0 0).map (·.pause) = some (some 1) ∧ s.tableBusy 0 0 = false ∧ memoriesOk s = true ∧
    swapT.table = 0 := by decide +kernel
/-- A SWAP that waits to start, and one to pages past the partition's range. -/
def swapQueued : Item := { swapT with st := .queued, unit := some ⟨.gather, 0⟩ }
def swapPast : Item := item 1 (desc opTableReplace 16 8 0 0 [(40, 4, 2 ^ 24), (44, 4, 64), (48, 8, 10)]) .inService
theorem wit_TableSwap_starts : (tabled 16 id swapQueued).mayStart 0 swapQueued = true ∧
    (tabled 16 id swapQueued).gatherRec 0 swapQueued.table = some (rec0 16) ∧
    (tabled 16 id swapQueued).swapBounds 0 swapQueued (rec0 16) = false ∧ swapQueued.isSwap = true ∧
    (tabled 16 id swapPast).swapBounds 0 swapPast (rec0 16) = true ∧ swapPast.isSwap = true ∧
    (tabled 16 id swapPast).itsTurn 0 swapPast = true := by decide +kernel
theorem test_swap_pauses : ([Instr.tableReplaceSwap 0 1, .serviceStart 0 1].zip [swapT, swapQueued]).map (fun x =>
    ((after x.1 (tabled 16 id x.2)).gatherRun 0 0).map (·.pause)) = [some (some 1), some (some 1)] := by decide +kernel
theorem test_table_write : let t := after (.tableReplaceWrite 0 1) ((tabled 0 id (writeT 2)).hostPut 0 0x1000 [7, 8])
    t.hbmGet 0 2 8192 3 = [7, 8, 0] ∧ ((after (.tableReplaceWrite 0 1) (tabled 0 id (writeT 0))).item? 0 1).map
      (fun i => (i.status, i.r0)) = some (.badDescriptor, 24) := by decide +kernel
theorem test_table_swap : let t := after (.swap 0 1) (tabled 16 (fun g => { g with pause := some 1 }) swapT)
    (t.gatherRun 0 0).map (fun g => (g.dataPage, g.dirPage, g.rows, g.pause)) = some (32, 64, 10, none) ∧
    t.slabGet 0 (256 * 64 + 64) 4 = [0xFF, 0xFF, 0xFF, 0xFF] := by decide +kernel

/-! ## SELECT and SAMPLE -/

/-- A SELECT of the K greatest of four U32 elements at 0x100 of the host, to 0x2000; a SAMPLE of four FP32 elements. -/
def select1 (k : Nat) : Item := item 1 (desc opSelect 0 8 0 0
  [(16, 8, 0x100), (24, 8, 0x2000), (40, 4, 4), (44, 4, k), (52, 1, 7), (54, 2, 1), (56, 4, 64)]) .inService
def sample1 : Item := item 1 (desc opSample 0 8 0 0
  [(16, 8, 0x100), (24, 8, 0x2000), (32, 4, 4), (36, 2, 4), (38, 1, 10), (54, 2, 1), (56, 4, 64)]) .inService
def rowed (i : Item) (xs : List Nat) : State := (live.withItems [i]).hostPut 0 0x100 (xs.flatMap (leBytes 4))
theorem wit_Select : (let s := rowed (select1 2) [5, 9, 9, 7]
    memoriesOk s = true ∧ s.servingNow 0 1 opSelect = some (select1 2) ∧ s.rangesOk 0 (select1 2).rowRanges = true ∧
    (select1 2).rowRanges.all (fun r => s.awake r.2.1) = true ∧ (select1 2).fld 54 2 = 1 ∧ (select1 2).flag 6 = false ∧
    s.readPlace 0 (select1 2) ((select1 2).sourceRow 0) (rowBytesOf false 7 4) ≠ .ue) := by decide +kernel
theorem wit_Sample : (let s := rowed sample1 [0x3F800000, 0x40000000, 0x3F800000, 0x7FC00000]
    memoriesOk s = true ∧ s.servingNow 0 1 opSample = some sample1 ∧ s.rangesOk 0 sample1.rowRanges = true ∧
    sample1.rowRanges.all (fun r => s.awake r.2.1) = true ∧ sample1.fld 54 2 = 1 ∧
    s.readPlace 0 sample1 (sample1.sourceRow 0) (rowBytesOf false 10 4) ≠ .ue) := by decide +kernel
theorem test_select : let t := after (.select 0 1) (rowed (select1 2) [5, 9, 9, 7])
    t.hostGet 0 0x2000 16 = leBytes 4 1 ++ leBytes 4 9 ++ leBytes 4 2 ++ leBytes 4 9 ∧
    (t.item? 0 1).map (fun i => (i.status, i.r0, i.r1)) = some (.ok, 1, 2) := by decide +kernel
theorem test_sample_greatest : let t := after (.sample 0 1) (rowed sample1 [0x3F800000, 0x40000000, 0x3F800000, 0x7FC00000])
    t.hostGet 0 0x2000 16 = leBytes 4 1 ++ leBytes 4 0x40000000 ++ leBytes 4 0x3F800000 ++ leBytes 2 1 ++ leBytes 2 1 := by
  decide +kernel

/-! ## Streams -/

/-- A codec item of format 2, level 3: source at 0x4000 and destination at 0x5000 of the host, context at 0 of stack 0. -/
def codec1 (op flags n cap ends : Nat) : Item := item 1 (desc op flags 8 0 0
  [(16, 8, 0x4000), (24, 8, 0x5000), (32, 4, n), (36, 4, cap), (40, 1, 2), (41, 1, if op = opDecompress then 0 else 3), (43, 1, ends)])
  .inService
/-- The host holds bytes 1 to n at 0x4000. -/
def coding (i : Item) (n : Nat) : State := (live.withItems [i]).hostPut 0 0x4000 ((List.range n).map fun k => BitVec.ofNat 8 (k + 1))
/-- A compressor's stream of port 0 that holds these bytes, in the context at 0. -/
def held (bs : List Byte) : Stream := { openStream true 2 3 0 false [] with input := bs, held := bs.length }
def flushing (cap : Nat) : State := (coding (codec1 opFlush 0 0 cap 0) 0).updPart 0 fun x => { x with streams := [(0, held [1, 2])] }
/-- The source is a raw DEFLATE stream of three stored bytes in a gzip wrapper. -/
def gzipped : List Byte := [0x1F, 0x8B, 8, 0, 0, 0, 0, 0, 0, 0xFF, 1, 3, 0, 0xFC, 0xFF, 0x61, 0x62, 0x63, 0xC2, 0x41, 0x24, 0x35, 3, 0, 0, 0]
def inflating (cap : Nat) (bs : List Byte) : State :=
  (live.withItems [codec1 opDecompress 0 bs.length cap 3]).hostPut 0 0x4000 bs
theorem wit_Codec : let i := codec1 opCompress 0 5 64 3
    memoriesOk (coding i 5) = true ∧ (coding i 5).servingNow 0 1 opCompress = some i ∧ (coding i 5).rangesOk 0 i.codecRanges = true ∧
    i.codecRanges.all (fun r => (coding i 5).awake r.2.1) = true ∧
    ((coding i 5).streamFor 0 i true).toOption = some (openStream true 2 3 0 false []) ∧
    boundOf (openStream true 2 3 0 false []) (0 + 5) true true ≤ 64 ∧
    10 < boundOf (openStream true 2 3 0 false []) (0 + 5) true true ∧
    (coding i 5).readPlace 0 i i.codecSrc 5 = .bytes [1, 2, 3, 4, 5] := by decide +kernel
theorem wit_Codec_flush : let i := codec1 opFlush 0 0 64 0
    memoriesOk (flushing 64) = true ∧ (flushing 64).servingNow 0 1 opFlush = some i ∧ (flushing 64).rangesOk 0 i.codecRanges = true ∧
    ((flushing 64).streamFor 0 i true).toOption = some (held [1, 2]) ∧ flushBound (held [1, 2]) ≤ 64 ∧
    3 < flushBound (held [1, 2]) ∧ i.stream? = some 0 := by decide +kernel
theorem wit_Codec_decompress : let i := codec1 opDecompress 0 26 64 3
    (inflating 64 gzipped).servingNow 0 1 opDecompress = some i ∧
    ((inflating 64 gzipped).streamFor 0 i false).toOption = some (openStream false 2 0 0 false []) ∧
    (decodeFormat 2 [] gzipped).verdict = .ended ∧ (decodeFormat 2 [] gzipped).out = [0x61, 0x62, 0x63] ∧
    (decodeFormat 2 [] (gzipped.take 20)).verdict = .more ∧ (decodeFormat 2 [] [0x1F, 0x8C]).verdict = .malformed := by
  decide +kernel
theorem test_inflate : let t := after (.decompress 0 1) (inflating 64 gzipped)
    t.hostGet 0 0x5000 4 = [0x61, 0x62, 0x63, 0] ∧ (t.item? 0 1).map (fun i => (i.status, i.r0, i.r1)) = some (.ok, 3, 26) := by
  decide +kernel
theorem test_compress_limit : let t := after (.compress 0 1) (coding (codec1 opCompress 0 5 10 3) 5)
    (t.item? 0 1).map (·.status) = some .limit := by decide +kernel
theorem test_flush_limit : ((after (.flush 0 1) (flushing 3)).item? 0 1).map (fun i => (i.status, i.r1)) = some (.limit, 14) := by
  decide +kernel

/-! ## Ingest -/

/-- A CSV plan of groups of 64 records: one U32 column in tile 0 at 0x4000, and a field of UINT32 for it. -/
def plan0 : Plan :=
  { plan := 0, container := 3, columns := 1
    params := [5, 0, 1, 0, 64, 0, 0, 0, 0x2C, 0x22, 0, 1, 1] ++ List.replicate 51 0
    instrs := [BitVec.ofNat 64 (1 + 7 * 2 ^ 28 + 256 * 2 ^ 40), BitVec.ofNat 64 (2 + 4 * 2 ^ 8)] }
/-- The records 12, x and 7. -/
def csvText : List Byte := [0x31, 0x32, 0x0A, 0x78, 0x0A, 0x37, 0x0A]
/-- An INGEST_RECORDS of the text at 0x4000, rejects to 0x8000, in the state of decoding g, before it starts with none. -/
def ingest1 (g : Option IngestRun) : Item := { item 1 (desc opIngestRecords 0 8 0 0
  [(16, 8, 0x4000), (24, 8, 7), (36, 4, 4), (40, 8, 100), (56, 8, 0x8000)]) .inService with ingest := g }
def ingesting (g : Option IngestRun) : State := ((live.withItems [ingest1 g]).updPart 0 fun x => { x with
  image := some { image0 with plans := [plan0] } }).hostPut 0 0x4000 csvText
/-- Decoding with n lanes behind it and this text before it. -/
def decodingText (n : Nat) (t : List Byte) : IngestRun := { IngestRun.over t true with lanes := List.replicate n [] }
def env0 : DecodeEnv := { plan := plan0, nodes := plan0.nodes, symbols := [] }
/-- Decoding gave a kept record. -/
def keeps : Taken → Bool
  | .kept _ => true
  | _ => false
theorem wit_Ingest_open : (ingesting none).serving 0 1 opIngestRecords = some (ingest1 none) ∧
    (ingesting none).planOf 0 (ingest1 none) = some plan0 ∧
    (((ingesting none).unwrap 0 (ingest1 none)).open plan0).map (fun g => (g.ready, g.lanes, g.ended)) = some (false, [], none) := by
  decide +kernel
theorem wit_Ingest_turn : (ingesting none).itsTurn 0 (ingest1 none) = true ∧ (ingest1 none).unwraps = false ∧
    (let g := decodingText 2 csvText
     (ingesting (some g)).itsTurn 0 (ingest1 (some g)) = true ∧ (ingest1 (some g)).unwraps = false) := by decide +kernel
theorem wit_Ingest_unsupported : avroHead 0 ([0x4F, 0x62, 0x6A, 1, 2, 20] ++ "avro.codec".toList.map (fun c => BitVec.ofNat 8 c.toNat) ++
    [12] ++ "snappy".toList.map (fun c => BitVec.ofNat 8 c.toNat) ++ [0] ++ List.replicate 16 0) matches .unsupported := by
  decide +kernel
theorem wit_Ingest_kept : let g := decodingText 2 csvText
    ((ingesting (some g)).ingesting 0 1) = some (ingest1 (some g), plan0, g) ∧ g.ended = none ∧ g.ready = false ∧
    keeps (g.take env0).1 = true ∧ (g.take env0).2.ended = none ∧
    plan0.coldefs.all (fun d => d.arg < 128) = true ∧ plan0.group = 64 := by decide +kernel
theorem wit_Ingest_run : AllRun (ingesting none) := by unfold AllRun; decide +kernel
theorem wit_Ingest_rejected : ((decodingText 2 (csvText.drop 3)).take env0).1 matches .rejected _ (some 0) := by decide +kernel
/-- One window of one group is written, another stands ready. -/
def windowRun : IngestRun := { decodingText 0 [] with ready := true, groups := 1, window := 1, busy := [(0, [])] }
theorem wit_Ingest_window : (ingesting (some windowRun)).ingesting 0 1 = some (ingest1 (some windowRun), plan0, windowRun) ∧
    windowRun.ended = none ∧ ((ingesting (some windowRun)).windowTiles 0 plan0 0).all (fun t =>
      (ingesting (some windowRun)).tileRoom (tix t)) = true ∧ (ingest1 (some windowRun)).st = .inService ∧
    windowRun.busy.find? (fun b => b.2.isEmpty) = some (0, []) := by decide +kernel
theorem test_decode_record : let t := after (.decodeRecord 0 1) (ingesting (some (decodingText 2 csvText)))
    ((t.item? 0 1).bind (·.ingest)).map (fun g => (g.lanes, g.kept)) = some ([[], [], [(0, 12)]], 1) := by decide +kernel
theorem test_reject_entry : let t := after (.decodeRecord 0 1) (ingesting (some { decodingText 2 (csvText.drop 3) with place := 1, pos := 3 }))
    t.hostGet 0 0x8000 16 = [101, 0, 0, 0, 0, 0x0A, 1, 0, 3, 0, 0, 0, 0, 0, 0, 0] := by decide +kernel

/-! ## Frames -/

/-- A mesh of four points that maps a 2 by 2 output to source pixels (0, 0) to (1, 1). -/
def mesh0 : WarpMesh :=
  { mesh := 0, cols := 2, rows := 2, filter := 0, outW := 2, outH := 2, fill := 0, units := 0xFFFF
    points := [(0, 0), (0x3F800000, 0), (0, 0x3F800000), (0x3F800000, 0x3F800000)] }
/-- The header of a 2 by 2 frame of one plane at offset 64 with stride 64, of this magic. -/
def frameHead (magic : Nat) : List Byte :=
  leBytes 4 magic ++ leBytes 2 1 ++ [1, 0] ++ leBytes 2 2 ++ leBytes 2 2 ++ leBytes 4 0 ++ leBytes 8 0 ++ leBytes 4 64 ++ leBytes 4 64 ++
    List.replicate 32 0
def frame1 : Item := item 1 (desc opIngestFrame 0 8 0 0 [(16, 8, 0x4000), (24, 8, 0x5000), (56, 4, 256)]) .inService
def framed (magic : Nat) : State := (((live.withItems [frame1]).updPart 0 fun x => { x with
  image := some { image0 with warps := [mesh0] } }).hostPut 0 0x4000 (frameHead magic)).hostPut 0 0x4040 [10, 20]
theorem wit_Frames : let s := framed 0x4B46524D
    memoriesOk s = true ∧ s.servingNow 0 1 opIngestFrame = some frame1 ∧ s.warpOf 0 (frame1.fld 54 1) = some mesh0 ∧
    s.inBounds 0 (.host 0x4000) 256 = true ∧ s.inBounds 0 frame1.dstPlace 4 = true ∧ s.tileRoom (tix frame1.dstTile) = true ∧
    s.readPlace 0 frame1 (.host 0x4000) 64 = .bytes (frameHead 0x4B46524D) ∧
    frameFault (frameHead 0x4B46524D) mesh0 256 = none ∧ frameFault (frameHead 5) mesh0 256 = some 0 ∧
    frameFault (frameHead 0x4B46524D) mesh0 128 = some 64 ∧
    s.readPlace 0 frame1 ((Place3.host 0x4000).plus 64) 66 ≠ .ue := by decide +kernel
theorem wit_Frames_run : AllRun (framed 0) := by unfold AllRun; decide +kernel
theorem test_frame_magic : ((after (.ingestFrame 0 1) (framed 5)).item? 0 1).map (fun i => (i.status, i.r0)) =
    some (.malformed, 0) := by decide +kernel
theorem test_frame_identity : (after (.ingestFrame 0 1) (framed 0x4B46524D)).hostGet 0 0x5000 2 = [10, 20] := by decide +kernel

/-! ## Tiles -/

/-- Pass 0 of pipeline 0 on tile 0 with these words, then the pass n. -/
def prog0 (ws : List Nat) (n : Nat) : TileProg :=
  { tile := 0, pipeline := 0, pass := 0, slots := ws.length, nextPass := n, binds := [], passCtrl := 0, counts := 0
    words := ws.map (BitVec.ofNat 64) }
/-- Class 1, operation ADD, format I32, sources 1 and 2, destination 3 (Table 4.1). -/
def addWord : Nat := 1 * 2 ^ 58 + 6 * 2 ^ 48 + 1 * 2 ^ 42 + 2 * 2 ^ 36 + 3 * 2 ^ 30
def work0 : TileWork := { port := 0, key := 1, pipeline := 0, args := { b := 1, d := 0, s0 := 0, e0 := 0 }, window := none, frame := none }
/-- Tile 0 runs the program at this beat; pass 1 follows it where n is 1. -/
def beating (beat n : Nat) (started : Bool) : State :=
  let im : PartImage := { image0 with progs := [prog0 [addWord] n, { prog0 [0] 0xFF with pass := 1 }] }
  let r : PassRun := { PassRun.start work0 (prog0 [addWord] n) with beat := beat, started := started }
  ((live.withItems [item 1 gatherD .inService]).updPart 0 fun x => { x with image := some im }).updTile 0 fun x =>
    let v := x.vr.set (1 : Fin 64) (unlanes 32 (List.replicate 64 0xFFFFFFFF))
    { x with vr := v.set (2 : Fin 64) (unlanes 32 (List.replicate 64 2)), run := some r }
def queuedPass : State := (beating 0 0xFF true).updTile 0 fun _ => { live.tiles[(0 : Tile)] with queue := [work0] }
theorem wit_TilePass : queuedPass.tiles[(0 : Tile)].run = none ∧ queuedPass.tiles[(0 : Tile)].queue = [work0] ∧
    queuedPass.entryPass 0 0 0 = some (prog0 [addWord] 0xFF) ∧ queuedPass.clusterOper 0 = .run ∧
    queuedPass.mayRun ⟨.tile, 0⟩ = true := by decide +kernel
theorem wit_PassBeat : let s := beating 0 0xFF true
    (s.tiles[(0 : Tile)].run.map fun r => (r.work, r.beat, r.pass, r.started)) = some (work0, 0, 0, true) ∧
    s.progOf 0 0 0 0 = some (prog0 [addWord] 0xFF) ∧ s.clusterOper 0 = .run ∧ 0 < work0.args.b ∧
    s.packetsReady 0 [] = true ∧ (SWord.of (BitVec.ofNat 64 addWord)).wop = some .add ∧
    (let w := SWord.of (BitVec.ofNat 64 addWord)
     w.fmt = 6 ∧ w.sat = false ∧ w.immB = false ∧ w.constB = false ∧ w.pred = 0 ∧ w.dst = 3) := by decide +kernel
theorem wit_PassBeat_words : let s := beating 0 0xFF true
    let r := PassRun.start work0 (prog0 [addWord] 0xFF)
    let x : Beat := { s := s, vr := s.tiles[(0 : Tile)].vr, pm := s.tiles[(0 : Tile)].pm, cursors := [], staged := []
                      buffers := [], counts := [], spills := [], stored := [] }
    let c := s.beatArgs 0 r (prog0 [addWord] 0xFF) []
    ((Beat.words c 0 0 [SWord.of (BitVec.ofNat 64 addWord)] x).toOption.map fun z =>
      (z.spills.length, z.stored.length, (z.outputs c []).length)) = some (0, 0, 0) := by decide +kernel
theorem wit_PassBeat_last : (∀ n ∈ [1, 0xFF], ((beating 1 n true).tiles[(0 : Tile)].run.map fun r => r.beat) = some work0.args.b ∧
    bitsOf (prog0 [addWord] n).counts 23 1 = 0 ∧ (beating 1 n true).item? 0 1 = some (item 1 gatherD .inService)) ∧
    (beating 1 1 true).progOf 0 0 0 1 = some { prog0 [0] 0xFF with pass := 1 } := by decide +kernel
theorem test_add_wraps : (lanes 32 (after (.passBeat 0) (beating 0 0xFF true)).tiles[(0 : Tile)].vr[(3 : Fin 64)]).head? = some 1 := by
  decide +kernel
theorem test_next_pass : ((after (.passBeat 0) (beating 1 1 true)).tiles[(0 : Tile)].run.map fun r => (r.pass, r.beat)) = some (1, 0) ∧
    (after (.passBeat 0) (beating 1 0xFF true)).tiles[(0 : Tile)].run = none := by decide +kernel

/-! ## The mesh -/

/-- A route from a stop to another by these directions, entry `dst` of its table, VC 0 and queue 0. -/
def way (src net dst : Nat) (ds : List Nat) : Route :=
  { stop := src, network := net, entry := dst
    route := BitVec.ofNat 64 (ds.length + ds.foldr (fun d a => d + 4 * a) 0 * 2 ^ 5 + dst * 2 ^ 53) }
/-- The example of chapter 14: tile 80 to HBM controller 7, 11 hops EAST and one NORTH. -/
def example80 : Route := { stop := 96, network := 0, entry := 0, route := 0x0BE000001800000C }
theorem test_example_route : (example80.ride.1.length, example80.ride.1.getLast?, example80.ride.2) = (12, some (107, 3), 95) ∧
    ({ example80 with network := 3 }).ride = example80.ride ∧ (way 96 0 95 (List.replicate 11 0 ++ [3])).route = example80.route := by
  decide +kernel

/-- Buffers and slots of a pair: two of each. -/
def pairOf (src dst net taken slots : Nat) : QuotaUse :=
  { src := src, dst := dst, network := net, vc := 0, req := 2, rsp := 2, taken := taken, slots := slots }
/-- Partition 0 has routes between tiles 0 and 1 (stops 0 and 1) and to HBM stack 1 (stop 60), with their quotas. -/
def meshed (s : State) : State := s.updPart 0 fun x => { x with
  routes := (List.range 4).flatMap fun n =>
    [way 0 n 1 [0], way 1 n 0 [1], way 1 n 60 [1, 2, 2, 2, 2, 2], way 60 n 1 [3, 3, 3, 3, 3, 0]]
  quota := [0, 2, 3].flatMap fun n => [pairOf 0 1 n 0 1, pairOf 1 0 n 1 1, pairOf 1 60 n 0 0] }
def onMesh : State := meshed live

def stop0 (t : Nat) : Stop := Fin.ofNat 144 (tileStop t)
/-- A message between the stops of two tiles for 64 bytes at an address. -/
def tileMsg (src dst addr : Nat) : MeshMsg :=
  { part := 0, src := stop0 src, dst := stop0 dst, vc := 0, tag := 0, addr := BitVec.ofNat 40 addr, arg := 64 }
def hbmMsg (addr : Nat) : MeshMsg := { tileMsg 1 0 (2 ^ 37 + addr) with dst := 60 }
/-- Cluster 1, the one of tile 8 at stop 2, sleeps. -/
def asleep : State := onMesh.setOper .idle ⟨.cluster, 1⟩
def toAsleep : State := asleep.updPart 0 fun x => { x with
  routes := x.routes ++ (List.range 4).flatMap fun n => [way 1 n 2 [0], way 2 n 1 [1]], quota := x.quota ++ [0, 3].map fun n => pairOf 1 2 n 0 0 }
theorem wit_Requests_quota : (onMesh.parts[(0 : Port)].routeOn 1 0 0 0 0 = some (way 1 0 0 [1]) ∧
      onMesh.parts[(0 : Port)].dataRoute (tileMsg 1 0 0) = some (way 1 3 0 [1]) ∧ onMesh.stopAsleep 1 = none) ∧
    quotaFree onMesh.parts[(0 : Port)] (way 1 0 0 [1]) true ∧ quotaFree onMesh.parts[(0 : Port)] (way 1 3 0 [1]) false :=
  ⟨by decide +kernel, ⟨by decide +kernel, pairOf 1 0 0 1 1, by decide +kernel, by decide, fun _ => by decide⟩,
    ⟨by decide +kernel, pairOf 1 0 3 1 1, by decide +kernel, by decide, fun h => by cases h⟩⟩
/-- The state in which the READ of an agent has arrived. -/
def reads (m : MeshMsg) : State := (onMesh.readArrives 0 m).getD onMesh
def writes (m : MeshMsg) : State := (onMesh.writeArrives 0 m (List.replicate 64 9)).getD onMesh
theorem wit_Requests : let m := tileMsg 1 0 0x4000
    msgPort m = some 0 ∧ onMesh.parts[(0 : Port)].flight = [] ∧ (onMesh.readArrives 0 m).isSome = true ∧
    (onMesh.writeArrives 0 m (List.replicate 64 9)).isSome = true ∧
    (reads m).parts[(0 : Port)].routeAt 0 1 1 = some (way 0 1 1 [0]) ∧ (reads m).parts[(0 : Port)].routeAt 0 3 1 = some (way 0 3 1 [0]) ∧
    (reads m).meshTarget 0 m 64 = some (.slab 0 0x4000) ∧ (writes m).meshTarget 0 m 64 = some (.slab 0 0x4000) := by
  decide +kernel
theorem wit_Requests_now : takesNow (reads (tileMsg 1 0 0)) 0 0 ∧ takesNow (reads (hbmMsg 128)) 0 60 := by
  unfold takesNow; decide +kernel
theorem wit_Requests_ranges : live.meshTarget 0 (tileMsg 1 0 (2 ^ 25)) 64 = none ∧
    live.meshTarget 0 (tileMsg 1 0 0x4000) 1024 = some (.slab 0 0x4000) ∧ live.meshTarget 0 (tileMsg 1 0 0x4000) 1088 = none ∧
    live.meshTarget 0 (tileMsg 1 0 0x4000) 0 = none ∧ live.meshTarget 0 (tileMsg 1 0 (2 ^ 25 - 64)) 128 = none ∧
    (reads (tileMsg 1 0 (2 ^ 25))).meshTarget 0 (tileMsg 1 0 (2 ^ 25)) 64 = none := by decide +kernel
theorem wit_Requests_hbm : (onMesh.readArrives 0 (hbmMsg 128)).isSome = true ∧
    (reads (hbmMsg 128)).meshTarget 0 (hbmMsg 128) 64 = some (.hbm 1 128) ∧
    (reads (hbmMsg 128)).parts[(0 : Port)].routeAt 60 1 1 = some (way 60 1 1 [3, 3, 3, 3, 3, 0]) ∧
    (reads (hbmMsg 128)).hbmBad 0 1 128 64 = false ∧
    { reads (hbmMsg 128) with hbmUe := [hbmKey 0 1 128 / 32] }.hbmBad 0 1 128 64 = true := by decide +kernel
theorem wit_Requests_thaw : let m := tileMsg 1 8 0
    ((toAsleep.readArrives 0 m).map fun a => (a.stopAsleep m.dst.val, a.ownsCluster 0 1)) = some (some 1, true) ∧
    ((toAsleep.writeArrives 0 m []).map fun a => (a.stopAsleep m.dst.val, a.ownsCluster 0 1)) = some (some 1, true) ∧
    tileAtStop m.dst.val = some 8 := by decide +kernel
theorem wit_Push : tileAtStop (stop0 3).val = some 3 ∧ live.ownsCluster 0 0 = true ∧ (stop0 1).val ∈ live.partStops 0 ∧
    live.clusterOper 0 = .run ∧ (onMesh.packetArrives 0 (tileMsg 1 0 0) 0 (List.replicate 1024 5)).isSome = true ∧
    (onMesh.packetArrives 0 (hbmMsg 0) 0 (List.replicate 1024 5)).isSome = true ∧ tileAtStop 60 = none := by decide +kernel
/-- A message of tile 0 to tile 1 on this network. -/
def send0 (k : SendKind) (net : Nat) (arrived : Bool) : Send :=
  { kind := k, tile := 0, key := some 1, src := 0, dst := 1, network := net, entry := 1, vc := 0, tag := 0, rxq := 0, frame := none
    data := [], beat := false, granted := false, arrived := arrived, credited := false, answered := false }
/-- The message waits or is under way; the counters of its pair stand so. -/
def flying (z : Send) (waits : Bool) (taken slots : Nat) : State :=
  (onMesh.withItems [item 1 gatherD .inService]).updPart 0 fun x => { x with
    waiting := if waits then [z] else [], flight := if waits then [] else [z]
    quota := pairOf z.src z.dst z.network taken slots :: x.quota }
/-- A response from tile 1 to tile 0. -/
def answer0 (arg : Nat) : MeshMsg := { tileMsg 1 0 0 with arg := BitVec.ofNat 16 arg }
/-- A unit for offset 4,096 of stack 1, from tile 1; the offset past the partition's range. -/
def unit1 (off : Nat) : Send := { send0 (.spill 1 off) 3 false with src := 1, dst := 60, entry := 60, data := List.replicate 1024 0 }
theorem wit_Spill : ((flying (unit1 4096) false 1 0).arrive 0 0 (pushArrives (hbmMsg 0) 0 (List.replicate 1024 0))).map (·.1) =
      some (unit1 4096) ∧
    (flying (unit1 4096) false 1 0).inBounds 0 (.hbm 1 4096) 1024 = true ∧
    (flying (unit1 (2 ^ 30)) false 1 0).inBounds 0 (.hbm 1 (2 ^ 30)) 1024 = false ∧
    padTo 1024 ((List.replicate 1024 (0 : Byte)).take 1024) = List.replicate 1024 0 := by decide +kernel
/-- A replica of table 1 asks its home at tile 1 for bucket 2; the home's directory entry is a HASH table of 16 buckets. -/
def refetching : State := (flying (send0 (.fetch 1 2) 0 false) false 1 1).slabPut 1 64
  ([2, 11, 4, 0] ++ leBytes 4 0x4000 ++ leBytes 4 16)
theorem wit_Refetch : let m := tileMsg 0 1 0
    (refetching.arrive 0 0 fun z => msgCarries m 0 z && z.bucket?.isSome).map (·.1) = some (send0 (.fetch 1 2) 0 false) ∧
    tileAtStop 1 = some 1 ∧ ((refetching.granule 1 64 64).toOption.map fun b =>
      (refetching.bucketBytes 1 (TabEntry.of 1 b) 2).toOption.map (·.length)) = some (some 128) ∧
    refetching.parts[(0 : Port)].routeAt 1 1 0 = some (way 1 1 0 [1]) ∧
    refetching.parts[(0 : Port)].routeAt 1 3 0 = some (way 1 3 0 [1]) := by decide +kernel
theorem wit_Invalidate : let s := flying (send0 (.snoop 3 5) 2 false) false 1 1
    (s.arrive 0 0 fun z => z.src == 0 && z.dst == 1 && z.kind == .snoop 3 5).map (·.1) = some (send0 (.snoop 3 5) 2 false) ∧
    s.ownsCluster 0 0 = true ∧ s.parts[(0 : Port)].routeAt 1 1 0 = some (way 1 1 0 [1]) := by decide +kernel
theorem wit_Grants : let s := flying (send0 (.fetch 1 2) 0 false) true 1 1
    s.parts[(0 : Port)].waiting[0]? = some (send0 (.fetch 1 2) 0 false) ∧
    (s.parts[(0 : Port)].quotaFor 0 1 0 0).isSome = true ∧ s.clusterOper 0 = .run ∧
    s.parts[(0 : Port)].grantable (send0 (.fetch 1 2) 0 false) = true ∧
    (flying (send0 (.fetch 1 2) 0 false) true 2 1).parts[(0 : Port)].grantable (send0 (.fetch 1 2) 0 false) = false ∧
    (s.updPart 0 fun x => { x with quota := [] }).parts[(0 : Port)].quotaFor 0 1 0 0 = none ∧
    s.parts[(0 : Port)].fenced = [] := by decide +kernel
theorem wit_Grants_idle : notRunning (flying (send0 (.fetch 1 2) 0 false) true 1 1) 0 1 0 := by intro r h; cases h
theorem wit_Responses : let z := send0 (.fetch 1 2) 0 true
    let s := flying z false 1 1
    s.parts[(0 : Port)].flight.find? (fun z => msgAnswers (answer0 0) z && (z.bucket?.isSome || z.kind == .read)) = some z ∧
    s.parts[(0 : Port)].flight.find? (fun z => msgAnswers (answer0 0) z && true) = some z ∧ z.bucket? = some (1, 2) ∧
    s.tiles[(0 : Tile)].run = none ∧ s.item? 0 1 = some (item 1 gatherD .inService) ∧ memoriesOk s = true ∧
    (item 1 gatherD .inService).abortedAt = 0 ∧ (item 1 gatherD .inService).status.carriesOn = true ∧
    (let e := TabEntry.of 1 (s.slabGet 0 64 64); e.payload = false ∧ e.ageing = false) := by decide +kernel
theorem wit_Responses_agents : (let z := { send0 .read 0 true with key := none }
    (flying z false 1 1).parts[(0 : Port)].flight.find? (fun z => msgAnswers (answer0 0) z && (z.bucket?.isSome || z.kind == .read)) =
      some z ∧ z.bucket? = none) ∧
    (let z := { send0 .write 0 true with key := none }
    (flying z false 1 1).parts[(0 : Port)].flight.find? (fun z => msgAnswers (answer0 0) z && z.kind == .write) = some z) := by
  decide +kernel
theorem wit_SnpAck : let z := send0 (.snoop 1 2) 2 true
    (flying z false 1 1).parts[(0 : Port)].flight.find? (fun z => msgAnswers (answer0 0) z && z.network == 2) = some z := by
  decide +kernel
theorem test_mesh_write : let t := after (.write (tileMsg 1 0 0x4000) (List.replicate 64 9)) onMesh
    (t.slabGet 0 0x4000 64 == List.replicate 64 9, t.msgs.length) = (true, 3) := by decide +kernel
theorem test_write_waits_for_both : let s := onMesh.updPart 0 fun x => { x with
      quota := x.quota.map fun u => if u.network = 3 then { u with taken := 2 } else u }
    after (.write (tileMsg 1 0 0x4000) (List.replicate 64 9)) s = s := by decide +kernel
theorem test_read_waits_asleep : let t := after (.read (tileMsg 1 8 0)) toAsleep
    (t.tiles[(8 : Tile)].held.length, t.clusters[(1 : Cluster)].thawing, t.msgs.length) = (1, some .idle, 0) ∧
    (after (.thawDone (.cluster 1)) t).msgs.length = 2 := by decide +kernel
theorem test_grant : let t := after (.reservationGrant 0 0) (flying (send0 (.fetch 1 2) 0 false) true 1 1)
    (t.parts[(0 : Port)].quota.head?.map fun u => (u.taken, u.slots)) = some (2, 2) ∧ t.parts[(0 : Port)].waiting = [] := by
  decide +kernel
theorem test_credit : ((after (.credit (answer0 16)) (flying (send0 (.fetch 1 2) 0 true) false 2 1)).parts[(0 : Port)].quota.head?.map
    (·.taken)) = some 1 := by decide +kernel
theorem test_invalidate : (after (.invalidate 0 (stop0 0) (stop0 1) 3 5) (flying (send0 (.snoop 3 5) 2 false) false 1 1)).parts[
    (0 : Port)].replicaValid 1 3 5 = false := by decide +kernel

/-! ## Errors -/

def link0 : Link := { stop := 0, dir := 0, net := .req }
/-- The link's replay failed n times. -/
def failing (n : Nat) : State := { live with replays := [(link0, n)] }
/-- A flit that passes its CRC, and the same with bit k turned. -/
def goodFlit : BitVec 1056 := (sealFlit 0x123456789).setWidth 1056
def badFlit (k : Nat) : BitVec 1056 := goodFlit ^^^ BitVec.ofNat 1056 (2 ^ k)
set_option maxRecDepth 1000000 in
theorem test_flit_crc : flitPasses .req goodFlit = true ∧ ([0, 49, 147, 148, 159].all fun k => !flitPasses .req (badFlit k)) = true ∧
    flitPasses .snp ((sealSnp 5).setWidth 1056) = true ∧ flitPasses .dat (sealDat 7 9) = true ∧
    flitPasses .dat (sealDat 7 9 ^^^ 1) = false := by decide +kernel
/-- A flit that a router has forwarded passes its CRC at the next link. -/
theorem test_hop_recomputes_crc : flitPasses .req (BitVec.ofNat 1056 (hopFlit 0 ((sealFlit (3 + 0x2D * 2 ^ 5)).toNat))) = true ∧
    hopFlit 0 ((sealFlit (3 + 0x2D * 2 ^ 5)).toNat) % 2 ^ 49 = 2 + 0xB * 2 ^ 5 ∧
    flitPasses .snp (BitVec.ofNat 1056 (hopFlit 2 ((sealSnp (3 + 2 ^ 70)).toNat))) = true := by decide +kernel
/-- One bit of polynomial division by hand: the CRC of a lone 1 is the polynomial. -/
theorem test_crc_of_one : (crc12 1 1 0, crc8 1 1) = (0x80F, 0x07) := by decide +kernel
theorem wit_Errors : ([1, 7, 8].all fun n => ((((failing n).replays.find? (·.1 == link0)).map (·.2)).getD 0) == n) = true ∧
    link0 ∉ live.linksFenced ∧ (∀ r ∈ live.replays, r.1 ≠ link0) ∧ (∃ r ∈ (failing 3).replays, r.1 = link0) ∧
    link0 ∈ { live with linksFenced := [link0] }.linksFenced := by decide +kernel
theorem wit_Errors_crossing : (onMesh.parts[(0 : Port)].routes.any fun r => r.crosses link0) = true ∧
    (onMesh.parts[(1 : Port)].routes.all fun r => !r.crosses link0) = true := by decide +kernel
/-- An apply whose image routes over the link, which has been fenced. -/
def fencedRoute : State :=
  let o := { opOn .apply .fencing [] with image := some { image0 with routes := [way 0 0 1 [0]] } }
  { (operating .apply .fencing [] []).updPart 0 fun x => { x with op := some o } with linksFenced := [link0] }
theorem wit_Fences_link : (way 0 0 1 [0]).crosses link0 = true ∧ fencedRoute.linksFenced = [link0] ∧
    (fencedRoute.parts[(0 : Port)].op.map (·.kind)) = some .apply ∧ fencedRoute.power.tripped = false := by decide +kernel
theorem test_fenced_route_fails : let d := fencedRoute.partStops 0
    let s := fencedRoute.updPart 0 fun x => { x with fenced := d, op := x.op.map fun o => { o with acks := d.drop 1 } }
    (after (.fenceAck 0 (Fin.ofNat 144 ((d[0]?).getD 0))) s).parts[(0 : Port)].pstate = .failed := by decide +kernel
/-- Both Orlys stops lose the REQ links that lead to stop 86 by either order. -/
def cutOff : State := { live with linksFenced :=
  [{ stop := 85, dir := 0, net := .req }, { stop := 87, dir := 1, net := .req }, { stop := 74, dir := 2, net := .req },
   { stop := 98, dir := 3, net := .req }] }
theorem wit_Errors_route : cutOff.devicePasses = false ∧ cutOff.deviceReaches 86 false = false ∧ cutOff.deviceReaches 86 true = false := by
  decide +kernel
theorem wit_Errors_units : (⟨.tile, 0⟩ : UnitId).valid = true ∧ live.parts[(0 : Port)].op = none ∧ live.hasQp 0 0 0 = true ∧
    (live.qp 0 0 0).st = .enabled := by decide +kernel
theorem test_ninth_failure : (after (.flitCrcError ⟨link0, badFlit 3⟩) (failing 8)).linksFenced = [link0] ∧
    (after (.flitCrcError ⟨link0, badFlit 3⟩) (failing 7)).linksFenced = [] ∧
    (after (.flitCrcError ⟨link0, goodFlit⟩) (failing 8)).cntMeshReplay = 1 := by decide +kernel
theorem test_slab_error : let t := after (.errorDetected (.slab 3 128 true)) live
    (t.slabBad 3 128 1, t.slabBad 3 192 1) = (true, false) := by decide +kernel
theorem test_same_granule_counts_once : ((afterAll [.errorDetected (.slab 3 128 false), .errorDetected (.slab 3 130 false),
    .errorDetected (.slab 3 192 false)] live).ledgerWord ⟨.tile, 3⟩).ceCount = 2 := by decide +kernel

/-! ## Steps and invariants -/

/-- A device in order whose front command is a NOP's. -/
def stepping : State := { withQueue (queue1 (some 2)) with pending := [.nop 0 1] }
theorem test_step_takes_the_front : ∃ t, step stepping = .next t ∧ t.pending = [] := ⟨_, rfl, by decide +kernel⟩
theorem test_idle_step : step live = .next live := rfl
theorem wit_Safe : Safe stepping := by unfold Safe; decide +kernel
theorem wit_QueuesOk : QueuesOk stepping := queuesOk_of _ (by decide +kernel)
theorem wit_ItemsOk : ItemsOk stepping := by unfold ItemsOk; decide +kernel
/-- Batch queues are in order when each of them is. -/
theorem batchQueuesOk_of (s : State) (h : ∀ (p : Port) (n : Fin 64), let b := s.parts[p].bq[n]
    b.rel ≤ b.read ∧ b.read ≤ b.tail ∧ (b.mark.all fun k => b.rel ≤ k && k ≤ b.tail) = true ∧
    (b.enabled = true → b.fillCount ≤ s.bqDepth p n.val)) : BatchQueuesOk s := by
  intro p m
  obtain ⟨h1, h2, h3, h4⟩ := h p (qix m)
  refine ⟨⟨h1, h2, fun k hk => ?_⟩, h4⟩
  have hm : s.parts[p].bq[qix m].mark = some k := hk
  simp only [hm, Option.all_some, Bool.and_eq_true, decide_eq_true_eq] at h3
  exact h3
theorem wit_BatchQueuesOk : BatchQueuesOk stepping := batchQueuesOk_of _ (by decide +kernel)

end Sys2Proof.Tests
end

section
/-! SUPPORT. The batch queue after each basic update, the writes a function sends, and what BQ_POP and DELIVERY_COMPLETE do in
PULL (12 R289); with them the claim about PULL. -/

namespace Sys2Proof.Machine

/-! ## The queue after an update -/

@[simp] theorem State.setBq_bq_self (s : State) (p : Port) (m : Nat) (g : BatchQueue → BatchQueue) :
    (s.setBq p m g).bq p m = g (s.bq p m) := by
  simp only [State.bq, State.setBq, State.updBq_eq, State.updPart_self, Partition.updBq_self]
@[simp] theorem State.setBq_fn (s : State) (p q : Port) (f : Func) (m : Nat) (g : BatchQueue → BatchQueue) :
    (s.setBq p m g).fn q f = s.fn q f := rfl
@[simp] theorem State.setBq_msgs (s : State) (p : Port) (m : Nat) (g : BatchQueue → BatchQueue) :
    (s.setBq p m g).msgs = s.msgs := rfl
@[simp] theorem State.hostPut_bq (s : State) (p q : Port) (a m : Nat) (bs : List Byte) :
    (s.hostPut p a bs).bq q m = s.bq q m := rfl
@[simp] theorem State.hostPut_fn (s : State) (p q : Port) (f : Func) (a : Nat) (bs : List Byte) :
    (s.hostPut p a bs).fn q f = s.fn q f := rfl
@[simp] theorem State.sendWrites_bq (s : State) (p q : Port) (f : Func) (a n m : Nat) (relaxed : Bool) :
    (s.sendWrites p f a n relaxed).bq q m = s.bq q m := rfl
@[simp] theorem State.sendWrites_fn (s : State) (p q : Port) (f x : Func) (a n : Nat) (relaxed : Bool) :
    (s.sendWrites p f a n relaxed).fn q x = s.fn q x := rfl

/-- What setBq leaves depends on the new queue alone. -/
theorem State.setBq_congr {s : State} {p : Port} {m : Nat} {g k : BatchQueue → BatchQueue} (h : g (s.bq p m) = k (s.bq p m)) :
    s.setBq p m g = s.setBq p m k := by
  have h' : g s.parts[p].bq[qix m] = k s.parts[p].bq[qix m] := h
  simp only [State.setBq, State.updBq_eq, State.updPart, Partition.updBq, h']

/-! ## Messages that are a function's memory writes -/

/-- The messages of t are those of s and then memory writes of function f of port p. -/
def WritesSent (p : Port) (f : Func) (s t : State) : Prop :=
  ∃ ms, t.msgs = s.msgs ++ ms ∧ ∀ x ∈ ms, ∃ a n r, x = .memWrite p f a n r

theorem State.sendWrites_sent (s : State) (p : Port) (f : Func) (a n : Nat) (relaxed : Bool) :
    WritesSent p f s (s.sendWrites p f a n relaxed) := by
  refine ⟨_, rfl, fun x hx => ?_⟩
  obtain ⟨r, -, rfl⟩ := List.mem_map.1 hx
  exact ⟨r.1, r.2, relaxed, rfl⟩

theorem WritesSent.trans {p : Port} {f : Func} {s t u : State} (a : WritesSent p f s t) (b : WritesSent p f t u) :
    WritesSent p f s u := by
  obtain ⟨xs, hx, kx⟩ := a
  obtain ⟨ys, hy, ky⟩ := b
  exact ⟨xs ++ ys, by rw [hy, hx, List.append_assoc], fun z hz => (List.mem_append.1 hz).elim (kx z) (ky z)⟩

/-! ## BQ_POP -/

theorem exec_bqPop (p : Port) (f : Func) (m : Nat) (w : Width) (s : State) :
    exec (.bqPop p f m w) s = .next (s.bqPop p f m w) := rfl

/-- A register for the consumer alone is mapped by the function that CONSUMER names (23 R513). -/
theorem State.mapsBq_own {s : State} {p : Port} {f : Func} {m : Nat} :
    s.mapsBq p f m true = true ↔ s.fnExists p f = true ∧ m < 64 ∧ (s.bq p m).consumer = f.val := by
  simp [State.mapsBq, and_assoc]

/-- An 8-byte read takes the oldest pack of the list. -/
theorem State.bqPop_oldest {s : State} {p : Port} {f : Func} {m : Nat} {e : Nat × Nat} {rest : List (Nat × Nat)}
    (ready : s.ready = true) (maps : s.mapsBq p f m true = true) (enabled : (s.bq p m).enabled = true)
    (pull : (s.bq p m).pull = true) (unpopped : (s.bq p m).unpopped = e :: rest) :
    s.bqPop p f m .w8 = { s.setBq p m (fun b => { b with unpopped := rest }) with rdata := .reg (popWord e) } := by
  simp only [State.bqPop, unpopped, ready, maps, enabled, pull, Bool.and_self, if_true]

/-- With no delivered pack a read of either width gives the not-valid tag. -/
theorem State.bqPop_none {s : State} {p : Port} {f : Func} {m : Nat} {w : Width} (unpopped : (s.bq p m).unpopped = []) :
    s.bqPop p f m w = { s with rdata := .reg 0 } := by
  cases w <;> simp only [State.bqPop, unpopped]

/-! ## DELIVERY_COMPLETE -/

theorem exec_deliveryComplete (p : Port) (m : Nat) (s : State) :
    exec (.deliveryComplete p m) s = .next (s.deliveryComplete p m) := rfl

/-- The pack of sequence seq stands in host slot slot: its body is written, then its header (22 R491). -/
def State.sendPack (s : State) (p : Port) (m : Nat) (l : Layout) (seq slot : Nat) : State :=
  let f := (s.bq p m).fn
  let bytes := s.hbmGet p (s.slotAt p m l seq).1 (s.slotAt p m l seq).2 l.packBytes
  let a := s.hostSlot p m slot
  let body := (s.hostPut p (a + 64) (bytes.drop 64)).sendWrites p f (a + 64) (bytes.length - 64) (s.fn p f).relaxed
  (body.hostPut p a (bytes.take 64)).sendWrites p f a 64 false

@[simp] theorem State.sendPack_bq (s : State) (p q : Port) (m n : Nat) (l : Layout) (seq slot : Nat) :
    (s.sendPack p m l seq slot).bq q n = s.bq q n := by
  simp only [State.sendPack, State.sendWrites_bq, State.hostPut_bq]
@[simp] theorem State.sendPack_fn (s : State) (p q : Port) (f : Func) (m : Nat) (l : Layout) (seq slot : Nat) :
    (s.sendPack p m l seq slot).fn q f = s.fn q f := by
  simp only [State.sendPack, State.sendWrites_fn, State.hostPut_fn]

theorem State.sendPack_sent (s : State) (p : Port) (m : Nat) (l : Layout) (seq slot : Nat) :
    WritesSent p (s.bq p m).fn s (s.sendPack p m l seq slot) :=
  (State.sendWrites_sent (s.hostPut p _ _) p _ _ _ _).trans (State.sendWrites_sent (State.hostPut _ p _ _) p _ _ _ _)

/-- In PULL the pack is sent and joins the list that BQ_POP reads; no vector is signalled. -/
theorem State.deliveryComplete_pull {s : State} {p : Port} {m seq slot : Nat} {l : Layout} (pull : (s.bq p m).pull = true)
    (copying : (s.bq p m).copying = some (seq, slot)) (layout : (s.bq p m).layout = some l) :
    s.deliveryComplete p m = (s.sendPack p m l seq slot).setBq p m fun y => { y with
      copying := none, unpopped := y.unpopped ++ [(seq, slot)] } := by
  simp only [State.deliveryComplete, copying, layout, pull, if_true]
  exact State.setBq_congr (s := s.sendPack p m l seq slot) (by simp only [State.sendPack_bq, pull, if_true])

/-! ## The claim -/

/-- Settles O28: BQ_POP by whether a delivered pack is left, the delivery as sendPack and the list one pack longer. -/
theorem pullPopsDeliveredPacks : Obligations.PullPopsDeliveredPacks := by
  intro s p m ready hm enabled pull
  refine ⟨fun f e rest exists_ consumer unpopped => ?_, fun f unpopped => ?_, fun seq slot l copying layout => ?_⟩
  · have maps := State.mapsBq_own.2 ⟨exists_, hm, consumer⟩
    rw [exec_bqPop, State.bqPop_oldest ready maps enabled pull unpopped, popWord]
  · rw [exec_bqPop, State.bqPop_none unpopped]
  · refine ⟨_, exec_deliveryComplete p m s, ?_⟩
    rw [State.deliveryComplete_pull pull copying layout]
    refine ⟨fun q f => ?_, s.sendPack_sent p m l seq slot, ?_⟩
    · rw [State.setBq_fn, State.sendPack_fn]
    · rw [State.setBq_bq_self, State.sendPack_bq]

end Sys2Proof.Machine
end

section
/-! SUPPORT. How an 8-byte write of BAR0 reaches its register block, and what the queue pairs, the port, the partition and
the event block take of it (23 R512, R517, 24 R534); with them the claim about register writes. -/

namespace Sys2Proof.Machine

section
variable {s : State} {p : Port} {f : Func} {n off : Nat} {v : BitVec 64}

/-! ## From the offset to the block -/

/-- Below the mailbox and the MSI-X table an 8-byte write goes to the register blocks. -/
theorem exec_registerWrite (exists_ : s.fnExists p f = true) (ready : s.ready = true) (low : off < 0x80000) :
    exec (.registerWrite p f off .w8 v) s = .next (s.write8 p f off v) := by
  have noMailbox : ¬0x80800 ≤ off := by omega
  have noMsix : ¬0xC0000 ≤ off := by omega
  change Host.Outcome.next (s.registerWrite p f off .w8 v) = _
  simp only [State.registerWrite, exists_, ready, noMailbox, noMsix, Bool.not_true, Bool.false_and, Bool.or_self, decide_false,
    Bool.and_false, Bool.false_eq_true, if_false]

theorem State.write8_port (h : off < 0x10000) : s.write8 p f off v = s.writePort p f off v := by
  rw [State.write8, if_pos h]

theorem State.write8_qp (hn : n < 64) (h : off < 0x40) :
    s.write8 p f (0x10000 + 0x40 * n + off) v = s.writeQp p f n off v.toNat := by
  have pair : (0x10000 + 0x40 * n + off - 0x10000) / 0x40 = n := by omega
  have reg : (0x10000 + 0x40 * n + off) % 0x40 = off := by omega
  rw [State.write8, if_neg (by omega), if_pos (by omega), pair, reg]

theorem State.write8_bq (hn : n < 64) (h : off < 0x80) :
    s.write8 p f (0x20000 + 0x80 * n + off) v = s.writeBq p f n off v := by
  have queue : (0x20000 + 0x80 * n + off - 0x20000) / 0x80 = n := by omega
  have reg : (0x20000 + 0x80 * n + off) % 0x80 = off := by omega
  have block : (decide (0x20000 ≤ 0x20000 + 0x80 * n + off) && decide (0x20000 + 0x80 * n + off < 0x22000)) = true := by
    simp only [Bool.and_eq_true, decide_eq_true_eq]
    omega
  rw [State.write8, if_neg (by omega), if_neg (by omega), if_pos block, queue, reg]

theorem State.write8_part (h : off < 0x10000) : s.write8 p f (0x40000 + off) v = s.writePart p f off v := by
  have reg : 0x40000 + off - 0x40000 = off := by omega
  have noBq : ¬(decide (0x20000 ≤ 0x40000 + off) && decide (0x40000 + off < 0x22000)) = true := by
    simp only [Bool.and_eq_true, decide_eq_true_eq]
    omega
  have block : (decide (0x40000 ≤ 0x40000 + off) && decide (0x40000 + off < 0x50000)) = true := by
    simp only [Bool.and_eq_true, decide_eq_true_eq]
    omega
  rw [State.write8, if_neg (by omega), if_neg (by omega), if_neg noBq, if_pos block, reg]

theorem State.write8_evtCtrl : s.write8 p f 0x70010 v = s.writeEvtCtrl p f v.toNat := rfl

/-! ## The queue pair's registers -/

theorem State.hasQp_iff : s.hasQp p f n = true ↔ s.fnExists p f = true ∧ n < s.qpCount p f ∧ n < 64 := by
  simp [State.hasQp, and_assoc]

theorem exec_registerWrite_qp (has : s.hasQp p f n = true) (ready : s.ready = true) (h : off < 0x40) :
    exec (.registerWrite p f (0x10000 + 0x40 * n + off) .w8 v) s = .next (s.writeQp p f n off v.toNat) := by
  obtain ⟨exists_, -, hn⟩ := State.hasQp_iff.1 has
  rw [exec_registerWrite exists_ ready (by omega), State.write8_qp hn h]

/-- A DISABLED pair takes its configuration (23 R517). -/
theorem State.writeQp_config (w : Nat) (has : s.hasQp p f n = true) (disabled : (s.qp p f n).st = .disabled) :
    s.writeQp p f n 0x00 w = s.updQp p f n (fun q => { q with sqBase := BitVec.ofNat 64 (w / 4096 * 4096) }) ∧
    s.writeQp p f n 0x08 w = s.updQp p f n (fun q => { q with sqSize := w % 2 ^ 17 }) ∧
    s.writeQp p f n 0x10 w = s.updQp p f n (fun q => { q with cqBase := BitVec.ofNat 64 (w / 4096 * 4096) }) ∧
    s.writeQp p f n 0x18 w = s.updQp p f n (fun q => { q with cqSize := w % 2 ^ 17 }) := by
  have free : ((s.qp p f n).st == .disabled) = true := by rw [disabled]; rfl
  refine ⟨?_, ?_, ?_, ?_⟩ <;> simp only [State.writeQp, has, free, Bool.not_true, Bool.false_eq_true, if_false, if_true]

/-- Any other pair refuses it with cause 12 (23 R517). -/
theorem State.writeQp_config_refused (w : Nat) (has : s.hasQp p f n = true) (busy : (s.qp p f n).st ≠ .disabled)
    (reg : off ∈ [0x00, 0x08, 0x10, 0x18]) :
    s.writeQp p f n off w = s.updQp p f n (fun q => { q with cause := 12 }) := by
  have held : ((s.qp p f n).st == .disabled) = false := beq_eq_false_iff_ne.2 busy
  simp only [List.mem_cons, List.not_mem_nil, or_false] at reg
  rcases reg with rfl | rfl | rfl | rfl <;>
    simp only [State.writeQp, has, held, Bool.not_true, Bool.false_eq_true, if_false]

/-- QP_MSIX takes a vector within the table in any state. -/
theorem State.writeQp_msix (w : Nat) (has : s.hasQp p f n = true) :
    s.writeQp p f n 0x30 w = s.updQp p f n (fun q =>
      if s.msixSize p f ≤ w % 2 ^ 11 then { q with cause := 4 } else { q with msix := w % 2 ^ 11 }) := by
  by_cases beyond : s.msixSize p f ≤ w % 2 ^ 11 <;>
    simp only [State.writeQp, has, beyond, Bool.not_true, Bool.false_eq_true, if_false, if_true]

theorem State.writeQp_enable {w : Nat} (has : s.hasQp p f n = true) (on : w % 2 = 1) :
    s.writeQp p f n 0x20 w = s.qpEnableWrite p f n := by
  simp only [State.writeQp, has, on, Bool.not_true, Bool.false_eq_true, if_false, if_true]

theorem State.qpEnableWrite_draining (has : s.hasQp p f n = true) (draining : (s.qp p f n).st = .draining) :
    s.qpEnableWrite p f n = s.updQp p f n (fun q => { q with cause := 12 }) := by
  simp only [State.qpEnableWrite, has, draining, Bool.not_true, Bool.false_eq_true, if_false]

theorem State.qpEnableWrite_enabled (has : s.hasQp p f n = true) (enabled : (s.qp p f n).st = .enabled) :
    s.qpEnableWrite p f n = s := by
  simp only [State.qpEnableWrite, has, enabled, Bool.not_true, Bool.false_eq_true, if_false]

/-! ## The port's, the events' and the partition's registers -/

theorem State.writePort_cto (pf : f = 0) (code : v.toNat % 8 < 6) :
    s.writePort p f 0x18 v = s.updPort p (fun q => { q with cto := v.toNat % 8 }) := by
  subst pf
  simp only [State.writePort, code, Fin.val_zero, decide_true, Bool.and_self, if_true]

theorem State.writePort_portErr (pf : f = 0) :
    s.writePort p f 0x28 v = s.updFn p f (fun x => { x with portErr := x.portErr &&& ~~~(v &&& 0xFF) }) := by
  subst pf
  simp only [State.writePort, Fin.val_zero, if_true]

theorem State.writeEvtCtrl_refused {w : Nat} (on : w / 2 ^ 31 % 2 = 1) (beyond : s.msixSize p f ≤ w / 2 ^ 16 % 2 ^ 11) :
    s.writeEvtCtrl p f w = s := by
  have vecEn : bitsOf w 31 1 = 1 := on
  have vector : s.msixSize p f ≤ bitsOf w 16 11 := beyond
  simp only [State.writeEvtCtrl, vecEn, vector, decide_true, Bool.and_self, if_true]

theorem State.writeEvtCtrl_off {w : Nat} (clear : w / 2 ^ 31 % 2 = 0) :
    s.writeEvtCtrl p f w = s.updFn p f (fun x => { x with
      evClasses := BitVec.ofNat 12 (w / 2), evVector := w / 2 ^ 16 % 2 ^ 11, evVecEn := false }) := by
  have vecEn : decide (bitsOf w 31 1 = 1) = false := by
    rw [show bitsOf w 31 1 = 0 from clear]
    rfl
  simp only [State.writeEvtCtrl, vecEn, Bool.false_and, Bool.false_eq_true, if_false]
  rfl

theorem State.writePart_bar4Base (pf : f = 0) :
    s.writePart p f 0x18 v = s.updPort p (fun q => { q with bar4Base := v.toNat % 256 }) := by
  subst pf
  rfl

theorem State.writePart_ledgerSel (pf : f = 0) :
    s.writePart p f 0x100 v = s.updPort p (fun q => { q with ledgerSel := v.setWidth 16 }) := by
  subst pf
  rfl

end

/-! ## The claim -/

/-- Settles O9: the offset gives the block and the register, whose own lemma gives the write's effect. -/
theorem registerWritesSetTheirFields : Obligations.RegisterWritesSetTheirFields := by
  intro s p f v exists_ ready
  refine ⟨fun n has => ⟨fun disabled => ?_, fun busy off reg => ?_, ?_, fun on draining => ?_, fun on enabled => ?_⟩,
    fun pf code => ?_, fun pf => ?_, fun on beyond => ?_, fun clear => ?_, fun pf => ?_, fun pf => ?_⟩
  · obtain ⟨sqBase, sqSize, cqBase, cqSize⟩ := State.writeQp_config v.toNat has disabled
    refine ⟨?_, ?_, ?_, ?_⟩
    · exact (exec_registerWrite_qp (off := 0) has ready (by decide)).trans (congrArg _ sqBase)
    · exact (exec_registerWrite_qp has ready (by decide)).trans (congrArg _ sqSize)
    · exact (exec_registerWrite_qp has ready (by decide)).trans (congrArg _ cqBase)
    · exact (exec_registerWrite_qp has ready (by decide)).trans (congrArg _ cqSize)
  · have small : off < 0x40 := by
      simp only [List.mem_cons, List.not_mem_nil, or_false] at reg
      omega
    rw [exec_registerWrite_qp has ready small, State.writeQp_config_refused _ has busy reg]
  · rw [exec_registerWrite_qp has ready (by decide), State.writeQp_msix _ has]
  · rw [exec_registerWrite_qp has ready (by decide), State.writeQp_enable has on, State.qpEnableWrite_draining has draining]
  · rw [exec_registerWrite_qp has ready (by decide), State.writeQp_enable has on, State.qpEnableWrite_enabled has enabled]
  · rw [exec_registerWrite exists_ ready (by decide), State.write8_port (by decide), State.writePort_cto pf code]
  · rw [exec_registerWrite exists_ ready (by decide), State.write8_port (by decide), State.writePort_portErr pf]
  · rw [exec_registerWrite exists_ ready (by decide), State.write8_evtCtrl, State.writeEvtCtrl_refused on beyond]
  · rw [exec_registerWrite exists_ ready (by decide), State.write8_evtCtrl, State.writeEvtCtrl_off clear]
  · rw [exec_registerWrite exists_ ready (by decide), State.write8_part (off := 0x18) (by decide), State.writePart_bar4Base pf]
  · rw [exec_registerWrite exists_ ready (by decide), State.write8_part (off := 0x100) (by decide), State.writePart_ledgerSel pf]

end Sys2Proof.Machine
end

section
/-! SUPPORT. PORT_CTRL through resets: an epoch change, a function's reset and an LTR message leave it; PERST_n, a hot reset and
FLR of the PF give it its reset value (23 R515); with them the claim about its resets. -/

namespace Sys2Proof.Machine

/-- PORT_CTRL of port p: the completion timeout code. -/
def State.cto (s : State) (p : Port) : Nat := s.ports[p].cto

theorem State.readReg_portCtrl (s : State) (p : Port) (f : Func) : s.readReg p f 0x18 = BitVec.ofNat 64 (s.cto p) := rfl

/-! ## What leaves PORT_CTRL -/

@[simp] theorem State.updPort_cto (s : State) (p : Port) (g : PortState → PortState) :
    (s.updPort p g).cto p = (g s.ports[p]).cto := by rw [State.cto, State.updPort_self]
@[simp] theorem PortState.updFn_cto (q : PortState) (f : Func) (g : FnState → FnState) : (q.updFn f g).cto = q.cto := rfl
theorem State.updFn_cto (s : State) (p : Port) (f : Func) (g : FnState → FnState) : (s.updFn p f g).cto p = s.cto p := by
  rw [State.updFn_eq, State.updPort_cto, PortState.updFn_cto, State.cto]
theorem State.updItem_cto (s : State) (p : Port) (k : Nat) (g : Item → Item) : (s.updItem p k g).cto p = s.cto p := by
  rw [State.updItem_eq, State.updPort_cto]
  rfl

/-- PORT_CTRL is a field of the ports. -/
theorem State.cto_of_ports {s t : State} (h : t.ports = s.ports) (p : Port) : t.cto p = s.cto p := by
  rw [State.cto, h, State.cto]

theorem foldl_cto {α : Type} {p : Port} {g : State → α → State} (h : ∀ x a, (g x a).cto p = x.cto p) (l : List α) (s : State) :
    (l.foldl g s).cto p = s.cto p :=
  foldl_keeps (fun t => t.cto p = s.cto p) g (fun x a hx => (h x a).trans hx) l s rfl

theorem State.stopTiles_ports (s : State) (p : Port) (k : Nat) : (s.stopTiles p k).ports = s.ports := rfl

/-- Stopping an item's unit reaches no port. -/
theorem State.stopItem_ports (s : State) (p : Port) (i : Item) : (s.stopItem p i).ports = s.ports := by
  have tiles (b : Bool) : (if b then s else s.stopTiles p i.key).ports = s.ports := by cases b <;> rfl
  unfold State.stopItem
  dsimp only
  split
  · split <;> exact tiles _
  · split
    · exact tiles _
    · split
      · exact tiles _
      · split
        · unfold State.failStream
          split <;> exact tiles _
        · exact tiles _

@[simp] theorem State.orphanLocks_cto (s : State) (p : Port) (f : Func) : (s.orphanLocks p f).cto p = s.cto p := by
  rw [State.orphanLocks, State.updFn_cto]

@[simp] theorem State.epochEnd_cto (s : State) (p : Port) (i : Item) : (s.epochEnd p i).cto p = s.cto p := by
  have counted : (s.countF p i.fn .epochDiscard).cto p = s.cto p := s.updFn_cto p i.fn _
  unfold State.epochEnd
  dsimp only
  split
  · rw [State.updItem_cto, counted]
  · split
    · have stopped := (State.cto_of_ports (State.stopTiles_ports _ p i.key) p).trans counted
      split
      · rw [State.updPort_cto]
        exact stopped
      · rw [State.updItem_cto, stopped]
    · have stopped := (State.cto_of_ports (State.stopItem_ports _ p i) p).trans counted
      split
      · rw [State.updPort_cto]
        exact stopped
      · rw [State.updItem_cto, stopped]

@[simp] theorem State.pfEpoch_cto (s : State) (p : Port) : (s.pfEpoch p).cto p = s.cto p := by
  rw [State.pfEpoch, State.updPort_cto]
  rfl

@[simp] theorem State.bumpEpoch_cto (s : State) (p : Port) (fs : List Func) (by' : BitVec 32) :
    (s.bumpEpoch p fs by').cto p = s.cto p := by
  unfold State.bumpEpoch
  dsimp only
  have locked := foldl_cto (fun x f => State.orphanLocks_cto x p f) fs s
  generalize fs.foldl (fun a f => a.orphanLocks p f) s = s1 at locked ⊢
  have ended := foldl_cto (fun x i => State.epochEnd_cto x p i)
    (s1.ports[p].items.filter fun i => fs.contains i.fn && !i.orphan) s1
  generalize List.foldl (fun a i => a.epochEnd p i) s1 _ = s2 at ended ⊢
  have bumped := foldl_cto (fun x f => State.updFn_cto x p f fun y => { y with epoch := y.epoch + by' }) fs s2
  generalize fs.foldl (fun a f => a.updFn p f fun y => { y with epoch := y.epoch + by' }) s2 = s3 at bumped ⊢
  have all : s3.cto p = s.cto p := bumped.trans (ended.trans locked)
  split
  · rw [State.pfEpoch_cto]
    exact all
  · exact all

@[simp] theorem State.resetFn_cto (s : State) (p : Port) (f : Func) : (s.resetFn p f).cto p = s.cto p := by
  rw [State.resetFn, State.updFn_cto, State.dropDoorbells, State.updPort_cto, State.cto]

@[simp] theorem State.updateLtr_cto (s : State) (p : Port) : (s.updateLtr p).cto p = s.cto p := by
  have active (a : Bool) : (s.updPort p fun q => { q with ltrActive := a }).cto p = s.cto p := s.updPort_cto p _
  unfold State.updateLtr
  dsimp only
  split
  · rfl
  · split
    · exact active _
    · exact active _

/-! ## What resets it -/

@[simp] theorem State.hardReset_cto (s : State) (p : Port) : (s.hardReset p).cto p = 2 := by
  rw [State.hardReset, State.updPort_cto]

theorem State.flr_pf_cto (s : State) (p : Port) : (s.flr p 0).cto p = 2 := by
  have exists_ : s.fnExists p 0 = true := rfl
  simp only [State.flr, exists_, Bool.not_true, Bool.false_eq_true, if_false, Fin.val_zero, if_true, State.updateLtr_cto,
    State.updFn_cto, State.updPort_cto]

theorem State.flr_vf_cto (s : State) (p : Port) {f : Func} (vf : f ≠ 0) : (s.flr p f).cto p = s.cto p := by
  have notPf : ¬f.val = 0 := fun e => vf (Fin.ext e)
  unfold State.flr
  split
  · rfl
  · rw [State.updateLtr_cto, State.updFn_cto, State.resetFn_cto, State.bumpEpoch_cto]

/-! ## The claim -/

/-- Settles O22: both hard resets and FLR of the PF write PORT_CTRL last; every part of FLR of a VF leaves it. -/
theorem portCtrlResets : Obligations.PortCtrlResets := by
  intro s p
  have shows {t : State} (h : t.cto p = 2) : t.ports[p].cto = PortState.reset.cto ∧ t.readReg p 0 0x18 = 2 :=
    ⟨h, by rw [State.readReg_portCtrl, h]; rfl⟩
  refine ⟨fun c hc => ?_, fun f vf => ⟨_, rfl, s.flr_vf_cto p vf⟩⟩
  simp only [List.mem_cons, List.not_mem_nil, or_false] at hc
  rcases hc with rfl | rfl | rfl
  · refine ⟨_, rfl, shows ?_⟩
    rw [State.updPort_cto]
    exact State.hardReset_cto _ p
  · exact ⟨_, rfl, shows (State.hardReset_cto _ p)⟩
  · exact ⟨_, rfl, shows (s.flr_pf_cto p)⟩

end Sys2Proof.Machine
end

section
/-! SUPPORT. Batch-queue registers: what counting waiting banks and evaluating the watermarks make of a queue, and which updates
move one queue alone (12 R283 to R290, 23 R520 to R522); the IDLE pack (12 R288); with them the claim about these registers
and the credits. -/

namespace Sys2Proof

open Machine

/-! ## Frames -/

theorem SameMemory.trans {s t u : State} (a : SameMemory s t) (b : SameMemory t u) : SameMemory s u :=
  ⟨b.1.trans a.1, b.2.1.trans a.2.1, b.2.2.trans a.2.2⟩

theorem OtherQueuesKept.trans {p : Port} {m : Nat} {s t u : State} (a : OtherQueuesKept p m s t) (b : OtherQueuesKept p m t u) :
    OtherQueuesKept p m s u :=
  ⟨fun n h => (b.1 n h).trans (a.1 n h), fun r h => (b.2 r h).trans (a.2 r h)⟩

theorem OtherQueuesKept.of_parts {s t : State} (p : Port) (m : Nat) (h : t.parts = s.parts) : OtherQueuesKept p m s t := by
  unfold OtherQueuesKept
  rw [h]
  exact ⟨fun _ _ => rfl, fun _ _ => rfl⟩

end Sys2Proof

namespace Sys2Proof.Machine

/-! ## The queue that an update moves -/

theorem State.setBq_others (s : State) (p : Port) (m : Nat) (g : BatchQueue → BatchQueue) :
    OtherQueuesKept p m s (s.setBq p m g) := by
  refine ⟨fun n h => ?_, fun r h => ?_⟩
  · rw [State.setBq, State.updBq_eq, State.updPart_self, Partition.updBq_other _ _ h]
  · rw [State.setBq, State.updBq_eq, State.updPart_other _ _ h]

/-- In t queue m of partition p is b; the memories and every other queue are those of s. -/
def QueueMoved (p : Port) (m : Nat) (b : BatchQueue) (s t : State) : Prop :=
  t.bq p m = b ∧ SameMemory s t ∧ OtherQueuesKept p m s t

theorem QueueMoved.of_parts {s t : State} (p : Port) (m : Nat) (parts : t.parts = s.parts) (memory : SameMemory s t) :
    QueueMoved p m (s.bq p m) s t :=
  ⟨by rw [State.bq, parts, State.bq], memory, .of_parts p m parts⟩

theorem QueueMoved.trans {p : Port} {m : Nat} {b c : BatchQueue} {s t u : State} (x : QueueMoved p m b s t)
    (y : QueueMoved p m c t u) : QueueMoved p m c s u :=
  ⟨y.1, x.2.1.trans y.2.1, x.2.2.trans y.2.2⟩

theorem QueueMoved.of_posted {s t : State} (p : Port) (m : Nat) (h : OnlyPosted s t) : QueueMoved p m (s.bq p m) s t :=
  .of_parts p m (by rw [h.1]) ⟨by rw [h.1], by rw [h.1], by rw [h.1]⟩

/-- Posting moves no queue. -/
theorem QueueMoved.posted {p : Port} {m : Nat} {b : BatchQueue} {s t u : State} (x : QueueMoved p m b s t)
    (h : OnlyPosted t u) : QueueMoved p m b s u := by
  have still := QueueMoved.of_posted p m h
  rw [x.1] at still
  exact x.trans still

theorem State.setBq_moved (s : State) (p : Port) (m : Nat) (g : BatchQueue → BatchQueue) :
    QueueMoved p m (g (s.bq p m)) s (s.setBq p m g) :=
  ⟨s.setBq_bq_self p m g, ⟨rfl, rfl, rfl⟩, s.setBq_others p m g⟩

/-- An LTR message changes its port and the messages alone. -/
theorem State.updateLtr_only (s : State) (p : Port) :
    s.updateLtr p = { s with ports := (s.updateLtr p).ports, msgs := (s.updateLtr p).msgs } := by
  unfold State.updateLtr
  dsimp only
  split
  · rfl
  · split <;> rfl

theorem State.updateLtr_moved (s : State) (p : Port) (m : Nat) : QueueMoved p m (s.bq p m) s (s.updateLtr p) := by
  rw [State.updateLtr_only]
  exact .of_parts p m rfl ⟨rfl, rfl, rfl⟩

/-! ## What an update of a queue leaves of its record and its slots -/

/-- The records stand in the image, which no queue's update reaches. -/
theorem State.setBq_bqRecord (s : State) (p : Port) (m : Nat) (g : BatchQueue → BatchQueue) :
    (s.setBq p m g).bqRecord p m = s.bqRecord p m := by
  rw [State.bqRecord, State.setBq, State.updBq_eq, State.updPart_self]
  rfl

@[simp] theorem State.setBq_bqDepth (s : State) (p : Port) (m : Nat) (g : BatchQueue → BatchQueue) :
    (s.setBq p m g).bqDepth p m = s.bqDepth p m := by
  rw [State.bqDepth, State.setBq_bqRecord, State.bqDepth]

theorem State.setBq_hostSlot (s : State) (p : Port) (m slot : Nat) {g : BatchQueue → BatchQueue}
    (h : (g (s.bq p m)).ringBase = (s.bq p m).ringBase) : (s.setBq p m g).hostSlot p m slot = s.hostSlot p m slot := by
  rw [State.hostSlot, State.setBq_bq_self, h, State.slotBytes, State.setBq_bqRecord, State.hostSlot, State.slotBytes]

/-! ## Counting the banks that wait -/

theorem BatchQueue.countOne_only (b : BatchQueue) (d : Nat) : ∃ n, b.countOne d = { b with tail := n } := by
  unfold BatchQueue.countOne
  split
  · exact ⟨_, rfl⟩
  · exact ⟨b.tail, rfl⟩

/-- Counting changes TAIL alone. -/
theorem BatchQueue.countClosed_only (b : BatchQueue) (d : Nat) : ∃ n, b.countClosed d = { b with tail := n } := by
  obtain ⟨k, first⟩ := b.countOne_only d
  obtain ⟨n, second⟩ := (b.countOne d).countOne_only d
  exact ⟨n, by rw [BatchQueue.countClosed, second, first]⟩

@[simp] theorem BatchQueue.countClosed_rel (b : BatchQueue) (d : Nat) : (b.countClosed d).rel = b.rel := by
  obtain ⟨n, h⟩ := b.countClosed_only d
  rw [h]
@[simp] theorem BatchQueue.countClosed_read (b : BatchQueue) (d : Nat) : (b.countClosed d).read = b.read := by
  obtain ⟨n, h⟩ := b.countClosed_only d
  rw [h]
@[simp] theorem BatchQueue.countClosed_mark (b : BatchQueue) (d : Nat) : (b.countClosed d).mark = b.mark := by
  obtain ⟨n, h⟩ := b.countClosed_only d
  rw [h]

theorem BatchQueue.countOne_of_none_waits {b : BatchQueue} (d : Nat) (h0 : b.waits false = false) (h1 : b.waits true = false) :
    b.countOne d = b := by
  simp only [BatchQueue.countOne, h0, h1, Bool.or_self, Bool.false_and, Bool.false_eq_true, if_false]

theorem BatchQueue.countClosed_of_none_waits {b : BatchQueue} (d : Nat) (h0 : b.waits false = false)
    (h1 : b.waits true = false) : b.countClosed d = b := by
  rw [BatchQueue.countClosed, BatchQueue.countOne_of_none_waits d h0 h1, BatchQueue.countOne_of_none_waits d h0 h1]

/-- With the fill bank open, only the other bank can wait. -/
theorem BatchQueue.waits_of_fill_open {b : BatchQueue} (fill : b.fillBank.closedSeq = none) :
    (b.waits false || b.waits true) = b.otherBank.closedSeq.any (b.tail ≤ ·) := by
  have own : b.waits b.fill = false := by
    change b.fillBank.closedSeq.any _ = false
    rw [fill, Option.any_none]
  change _ = b.waits !b.fill
  revert own
  cases b.fill <;> intro own <;> simp [own]

/-- A closed bank of sequence TAIL takes a free slot, and no second bank does. -/
theorem BatchQueue.countClosed_of_one_waits {b : BatchQueue} {d : Nat} (other : b.otherBank.closedSeq = some b.tail)
    (fill : b.fillBank.closedSeq = none) (room : b.fillCount < d) : b.countClosed d = { b with tail := b.tail + 1 } := by
  have waits : (b.waits false || b.waits true) = true := by
    rw [BatchQueue.waits_of_fill_open fill, other]
    simp
  have taken : b.countOne d = { b with tail := b.tail + 1 } := by
    rw [BatchQueue.countOne, waits, decide_eq_true room]
    rfl
  have rest : (({ b with tail := b.tail + 1 } : BatchQueue).waits false ||
      ({ b with tail := b.tail + 1 } : BatchQueue).waits true) = false := by
    rw [BatchQueue.waits_of_fill_open (b := { b with tail := b.tail + 1 }) fill]
    change b.otherBank.closedSeq.any _ = false
    rw [other]
    simp
  rw [BatchQueue.countClosed, taken]
  obtain ⟨h0, h1⟩ := Bool.or_eq_false_iff.1 rest
  exact BatchQueue.countOne_of_none_waits d h0 h1

/-! ## The watermarks -/

/-- QHI and QLO as R290 evaluates them. -/
def BatchQueue.evalHigh (b : BatchQueue) : Bool :=
  if b.wmHigh ≤ b.fillCount then true else if b.fillCount + b.wmHyst < b.wmHigh then false else b.qhi
def BatchQueue.evalLow (b : BatchQueue) : Bool :=
  if b.fillCount ≤ b.wmLow then true else if b.wmLow + b.wmHyst < b.fillCount then false else b.qlo

/-- The queue with its marks evaluated, while it is enabled. -/
def BatchQueue.marked (b : BatchQueue) : BatchQueue :=
  if b.enabled then { b with qhi := b.evalHigh, qlo := b.evalLow } else b

theorem BatchQueue.marked_eq (b : BatchQueue) : b.marked = { b with qhi := b.marked.qhi, qlo := b.marked.qlo } := by
  unfold BatchQueue.marked
  split <;> rfl

@[simp] theorem BatchQueue.marked_rel (b : BatchQueue) : b.marked.rel = b.rel := by rw [BatchQueue.marked_eq]
@[simp] theorem BatchQueue.marked_read (b : BatchQueue) : b.marked.read = b.read := by rw [BatchQueue.marked_eq]
@[simp] theorem BatchQueue.marked_tail (b : BatchQueue) : b.marked.tail = b.tail := by rw [BatchQueue.marked_eq]
@[simp] theorem BatchQueue.marked_mark (b : BatchQueue) : b.marked.mark = b.mark := by rw [BatchQueue.marked_eq]
@[simp] theorem BatchQueue.marked_wmHigh (b : BatchQueue) : b.marked.wmHigh = b.wmHigh := by rw [BatchQueue.marked_eq]
@[simp] theorem BatchQueue.marked_wmLow (b : BatchQueue) : b.marked.wmLow = b.wmLow := by rw [BatchQueue.marked_eq]
@[simp] theorem BatchQueue.marked_wmHyst (b : BatchQueue) : b.marked.wmHyst = b.wmHyst := by rw [BatchQueue.marked_eq]

theorem BatchQueue.marked_qhi {b : BatchQueue} (enabled : b.enabled = true) (high : b.wmHigh ≤ b.fillCount) :
    b.marked.qhi = true := by
  rw [BatchQueue.marked, if_pos enabled]
  exact if_pos high

theorem BatchQueue.marked_qlo {b : BatchQueue} (enabled : b.enabled = true) (low : b.fillCount ≤ b.wmLow) :
    b.marked.qlo = true := by
  rw [BatchQueue.marked, if_pos enabled]
  exact if_pos low

theorem State.postAlarm_posted (s : State) (p : Port) (m : Nat) (c : EventClass) : OnlyPosted s (s.postAlarm p m c) :=
  s.postEvent_posted _ _ _ _ _ _ _

/-- On an enabled queue both marks are set, then each alarm that asserts is posted. -/
theorem State.evalMarks_enabled {s : State} {p : Port} {m : Nat} (enabled : (s.bq p m).enabled = true) :
    s.evalMarks p m =
      let b := s.bq p m
      let s1 := s.setBq p m fun x => { x with qhi := b.evalHigh, qlo := b.evalLow }
      let s2 := if b.evalHigh && !b.qhi then s1.postAlarm p m .alarmHigh else s1
      if b.evalLow && !b.qlo then s2.postAlarm p m .alarmLow else s2 := by
  rw [State.evalMarks]
  simp only [enabled, Bool.not_true, Bool.false_eq_true, if_false]
  rfl

theorem State.evalMarks_moved (s : State) (p : Port) (m : Nat) : QueueMoved p m (s.bq p m).marked s (s.evalMarks p m) := by
  have alarm (b : Bool) (x : State) (c : EventClass) : OnlyPosted x (if b then x.postAlarm p m c else x) := by
    cases b
    · exact .refl x
    · exact x.postAlarm_posted p m c
  by_cases enabled : (s.bq p m).enabled = true
  · rw [State.evalMarks_enabled enabled, BatchQueue.marked, if_pos enabled]
    exact (s.setBq_moved p m _).posted ((alarm _ _ _).trans (alarm _ _ _))
  · rw [State.evalMarks, BatchQueue.marked, if_neg enabled]
    simp only [Bool.eq_false_iff.2 enabled, Bool.not_false, if_true]
    exact .of_posted p m (.refl s)

theorem State.countBanks_moved (s : State) (p : Port) (m : Nat) :
    QueueMoved p m ((s.bq p m).countClosed (s.bqDepth p m)).marked s (s.countBanks p m) := by
  have counted := s.setBq_moved p m (·.countClosed (s.bqDepth p m))
  have marked := State.evalMarks_moved (s.setBq p m (·.countClosed (s.bqDepth p m))) p m
  rw [counted.1] at marked
  exact counted.trans marked

/-! ## BQ_RELEASE -/

/-- The queue with REL raised, and MARK gone where REL has passed it (Table 12.7). -/
def BatchQueue.released (b : BatchQueue) (upto : Nat) : BatchQueue :=
  { b with rel := max b.rel upto, mark := b.mark.filter fun k => max b.rel upto ≤ k }

theorem State.releaseTo_moved (s : State) (p : Port) (m upto : Nat) :
    QueueMoved p m (((s.bq p m).released upto).countClosed (s.bqDepth p m)).marked s (s.releaseTo p m upto) := by
  have released := s.setBq_moved p m (·.released upto)
  have counted := State.countBanks_moved (s.setBq p m (·.released upto)) p m
  rw [released.1, State.setBq_bqDepth] at counted
  exact released.trans counted

theorem State.bqRelease_upto {s : State} {p : Port} {f : Func} {m : Nat} {upto : BitVec 64} (ready : s.ready = true)
    (maps : s.mapsBq p f m true = true) (enabled : (s.bq p m).enabled = true) :
    s.bqRelease p f m upto = if (s.bq p m).read < upto.toNat then s.setBq p m (fun b => { b with cause := 13 })
      else s.releaseTo p m upto.toNat := by
  simp only [State.bqRelease, ready, maps, enabled, Bool.not_true, Bool.or_self, Bool.false_eq_true, if_false]

/-! ## BQ_WM -/

/-- The queue with the watermarks of a BQ_WM value (Table 23.13). -/
def BatchQueue.withMarks (b : BatchQueue) (v : BitVec 64) : BatchQueue :=
  { b with wmHigh := v.toNat % 2 ^ 16, wmLow := v.toNat / 2 ^ 16 % 2 ^ 16, wmHyst := v.toNat / 2 ^ 32 % 2 ^ 16 }

/-- A BQ_WM value fits a record of this depth (23 R522). -/
def marksFit (v : BitVec 64) (depth : Nat) : Bool :=
  v.toNat / 2 ^ 16 % 2 ^ 16 < v.toNat % 2 ^ 16 && v.toNat % 2 ^ 16 ≤ depth &&
  v.toNat / 2 ^ 32 % 2 ^ 16 < v.toNat % 2 ^ 16 && v.toNat / 2 ^ 16 % 2 ^ 16 + v.toNat / 2 ^ 32 % 2 ^ 16 < depth

theorem marksFit_iff (v : BitVec 64) (depth : Nat) : marksFit v depth = true ↔
    v.toNat / 2 ^ 16 % 2 ^ 16 < v.toNat % 2 ^ 16 ∧ v.toNat % 2 ^ 16 ≤ depth ∧
    v.toNat / 2 ^ 32 % 2 ^ 16 < v.toNat % 2 ^ 16 ∧ v.toNat / 2 ^ 16 % 2 ^ 16 + v.toNat / 2 ^ 32 % 2 ^ 16 < depth := by
  simp only [marksFit, Bool.and_eq_true, decide_eq_true_eq, and_assoc]

theorem State.bqWm_eq {s : State} {p : Port} {m : Nat} {v : BitVec 64} (ready : s.ready = true) (hm : m < 64) :
    s.bqWm p m v = if marksFit v (s.bqDepth p m) then (s.setBq p m (·.withMarks v)).evalMarks p m
      else s.setBq p m (fun b => { b with cause := 12 }) := by
  have inRange : ¬64 ≤ m := by omega
  have high : bitsOf v.toNat 0 16 = v.toNat % 2 ^ 16 := by rw [bitsOf, Nat.pow_zero, Nat.div_one]
  simp only [State.bqWm, ready, inRange, high, Bool.not_true, decide_false, Bool.or_self, Bool.false_eq_true, if_false]
  rfl

theorem State.bqWm_moved {s : State} {p : Port} {m : Nat} {v : BitVec 64} (ready : s.ready = true) (hm : m < 64)
    (fit : marksFit v (s.bqDepth p m) = true) : QueueMoved p m ((s.bq p m).withMarks v).marked s (s.bqWm p m v) := by
  have set := s.setBq_moved p m (·.withMarks v)
  have marked := State.evalMarks_moved (s.setBq p m (·.withMarks v)) p m
  rw [set.1] at marked
  rw [State.bqWm_eq ready hm, if_pos fit]
  exact set.trans marked

/-! ## The host ring -/

/-- The PF maps every queue's registers but those of the consumer alone (23 R513). -/
theorem State.mapsBq_shared {s : State} {p : Port} {f : Func} {m : Nat} :
    s.mapsBq p f m false = true ↔ s.fnExists p f = true ∧ m < 64 ∧ ((s.bq p m).consumer = f.val ∨ f = 0) := by
  have pf : f.val = 0 ↔ f = 0 := (Fin.ext_iff (b := 0)).symm
  simp only [State.mapsBq, Bool.and_eq_true, Bool.or_eq_true, beq_iff_eq, decide_eq_true_eq, Bool.not_false, and_true, pf,
    and_assoc]

/-- The ring of an enabled queue with a ring is not changed (23 R521). -/
def BatchQueue.ringLocked (b : BatchQueue) : Prop := b.enabled = true ∧ b.ringSize ≠ 0

theorem BatchQueue.ringLocked_iff (b : BatchQueue) : b.ringLocked ↔ (b.enabled && b.ringSize != 0) = true := by
  simp [BatchQueue.ringLocked]

theorem exec_registerWrite_bq {s : State} {p : Port} {f : Func} {m off : Nat} {v : BitVec 64} (exists_ : s.fnExists p f = true)
    (ready : s.ready = true) (hm : m < 64) (h : off < 0x80) :
    exec (.registerWrite p f (0x20000 + 0x80 * m + off) .w8 v) s = .next (s.writeBq p f m off v) := by
  rw [exec_registerWrite exists_ ready (by omega), State.write8_bq hm h]

section
variable {s : State} {p : Port} {m : Nat} {v : BitVec 64} (maps : s.mapsBq p 0 m false = true)
include maps

theorem State.writeBq_ringBase_locked (locked : (s.bq p m).ringLocked) :
    s.writeBq p 0 m 0x08 v = s.setBq p m (fun b => { b with cause := 11 }) := by
  rw [BatchQueue.ringLocked_iff] at locked
  simp [State.writeBq, maps, locked]

theorem State.writeBq_ringBase (free : ¬(s.bq p m).ringLocked) :
    s.writeBq p 0 m 0x08 v = s.setBq p m (fun b => { b with ringBase := BitVec.ofNat 64 (v.toNat / 4096 * 4096) }) := by
  rw [BatchQueue.ringLocked_iff, Bool.not_eq_true] at free
  simp [State.writeBq, maps, free]

theorem State.writeBq_ringSize_locked (locked : (s.bq p m).ringLocked) :
    s.writeBq p 0 m 0x10 v = s.setBq p m (fun b => { b with cause := 11 }) := by
  rw [BatchQueue.ringLocked_iff] at locked
  simp [State.writeBq, maps, locked]

theorem State.writeBq_ringSize_above (above : 4096 < v.toNat % 2 ^ 13) :
    s.writeBq p 0 m 0x10 v = s.setBq p m (fun b => { b with cause := 11 }) := by
  have beyond : decide (v.toNat % 2 ^ 13 ≤ 4096) = false := decide_eq_false (by omega)
  simp only [State.writeBq, beyond, Bool.not_false, Bool.or_true, if_true]
  simp [maps]

theorem State.writeBq_ringSize (free : ¬(s.bq p m).ringLocked) (fits : v.toNat % 2 ^ 13 ≤ 4096) :
    s.writeBq p 0 m 0x10 v = s.setBq p m (fun b => { b with ringSize := v.toNat % 2 ^ 13 }) := by
  rw [BatchQueue.ringLocked_iff, Bool.not_eq_true] at free
  simp only [State.writeBq, free, fits, decide_true, Bool.not_true, Bool.or_self, Bool.false_eq_true, if_false]
  simp [maps]

end

/-! ## The IDLE pack -/

/-- The queue with the credits of a BQ_WANT value added (12 R287). -/
def BatchQueue.want (b : BatchQueue) (v : BitVec 64) : BatchQueue :=
  { b with credits := min 65535 (b.credits + v.toNat % 65536) }

/-- PUSH_IDLE has nothing to deliver and may deliver (12 R288). -/
def State.idles (s : State) (p : Port) (m : Nat) : Bool :=
  (s.bq p m).mode == 0 && (s.bq p m).read == (s.bq p m).tail && s.canDeliver p m

/-- An IDLE pack's header (12 R288, Table 12.5). -/
def State.idlePack (s : State) (p : Port) (m : Nat) : List Byte :=
  let q := s.bq p m
  packHeader 1 q.tail ((q.layout.map fun l => (s.bqCtx p m l).epoch.toNat).getD 0) 0 0 0 64 0

/-- The host slot of the queue's next pack. -/
def State.nextHostSlot (s : State) (p : Port) (m : Nat) : Nat :=
  s.hostSlot p m ((s.bq p m).delivered % (s.bq p m).ringSize)

/-- The queue after an IDLE pack: one credit less, one pack more delivered, READ as it was (12 R288). -/
def BatchQueue.idled (b : BatchQueue) : BatchQueue := { b with credits := b.credits - 1, delivered := b.delivered + 1 }

/-- The IDLE pack stands in the next host slot, it has taken one credit, and is counted. -/
def State.putIdle (s : State) (p : Port) (m : Nat) : State :=
  (((s.hostPut p (s.nextHostSlot p m) (s.idlePack p m)).sendWrites p (s.bq p m).fn (s.nextHostSlot p m) 64 false).setBq p m
    BatchQueue.idled).countP p .batchIdle 1

/-- BQ_WANT adds credits; where the queue then idles, the pack goes and signals the vector. -/
theorem State.bqWant_eq {s : State} {p : Port} {f : Func} {m : Nat} {v : BitVec 64} (ready : s.ready = true)
    (maps : s.mapsBq p f m false = true) (enabled : (s.bq p m).enabled = true) :
    s.bqWant p f m v =
      if (s.setBq p m (·.want v)).idles p m then
        (((s.setBq p m (·.want v)).putIdle p m).signalMsix p ((s.setBq p m (·.want v)).bq p m).fn
          ((s.setBq p m (·.want v)).bq p m).vector).updateLtr p
      else (s.setBq p m (·.want v)).updateLtr p := by
  simp only [State.bqWant, ready, maps, enabled, Bool.not_true, Bool.or_self, Bool.false_eq_true, if_false]
  rfl

theorem State.idles_want_iff {s : State} {p : Port} {m : Nat} {v : BitVec 64} (enabled : (s.bq p m).enabled = true) :
    (s.setBq p m (·.want v)).idles p m = true ↔
      (s.bq p m).mode = 0 ∧ (s.bq p m).read = (s.bq p m).tail ∧ 0 < ((s.bq p m).want v).credits ∧ (s.bq p m).ringSize ≠ 0 ∧
      s.ports[p].hstopN = true ∧ s.asleepFn p (s.bq p m).fn = false := by
  have awake : (s.setBq p m (·.want v)).asleepFn p (s.bq p m).fn = s.asleepFn p (s.bq p m).fn := rfl
  have pin : (s.setBq p m (·.want v)).ports[p].hstopN = s.ports[p].hstopN := rfl
  have mode : ((s.bq p m).want v).mode = (s.bq p m).mode := rfl
  have fn : ((s.bq p m).want v).fn = (s.bq p m).fn := rfl
  have on : ((s.bq p m).want v).enabled = true := enabled
  have read : ((s.bq p m).want v).read = (s.bq p m).read := rfl
  have tail : ((s.bq p m).want v).tail = (s.bq p m).tail := rfl
  have ring : ((s.bq p m).want v).ringSize = (s.bq p m).ringSize := rfl
  rw [State.idles, State.canDeliver]
  simp only [State.setBq_bq_self, mode, read, tail, fn, on, ring, awake, pin]
  simp only [Bool.and_eq_true, beq_iff_eq, bne_iff_ne, decide_eq_true_eq, Bool.not_eq_true', true_and, and_assoc]

/-- Signalling a vector and an LTR message reach no partition and no memory. -/
theorem State.signalled_moved (s : State) (p : Port) (f : Func) (v m : Nat) :
    QueueMoved p m (s.bq p m) s ((s.signalMsix p f v).updateLtr p) ∧ ((s.signalMsix p f v).updateLtr p).parts = s.parts := by
  have posted := s.signalMsix_posted p f v
  have ltr := State.updateLtr_moved (s.signalMsix p f v) p m
  have signal := QueueMoved.of_posted p m posted
  rw [signal.1] at ltr
  refine ⟨signal.trans ltr, ?_⟩
  rw [State.updateLtr_only]
  exact (congrArg State.parts posted.1 :)

/-! ## What the IDLE pack stores -/

theorem State.sendWrites_stores (s : State) (p : Port) (f : Func) (a n : Nat) (relaxed : Bool) :
    (s.sendWrites p f a n relaxed).parts = s.parts ∧ (s.sendWrites p f a n relaxed).slab = s.slab ∧
    (s.sendWrites p f a n relaxed).hbm = s.hbm ∧ (s.sendWrites p f a n relaxed).host = s.host := ⟨rfl, rfl, rfl, rfl⟩

theorem State.countP_memory (s : State) (p : Port) (c : PCnt) (n : Nat) : SameMemory s (s.countP p c n) := ⟨rfl, rfl, rfl⟩

theorem State.countP_bq (s : State) (p : Port) (c : PCnt) (n m : Nat) : (s.countP p c n).bq p m = s.bq p m := by
  rw [State.countP_eq, State.bq, State.updPart_self, State.bq]

theorem State.countP_others (s : State) (p : Port) (c : PCnt) (n m : Nat) : OtherQueuesKept p m s (s.countP p c n) := by
  refine ⟨fun n _ => ?_, fun r h => ?_⟩
  · rw [State.countP_eq, State.updPart_self]
  · rw [State.countP_eq, State.updPart_other _ _ h]

theorem State.countP_cnt (s : State) (p : Port) (c : PCnt) (n : Nat) :
    (s.countP p c n).parts[p].cnt[c.ix] = s.parts[p].cnt[c.ix] + BitVec.ofNat 64 n := by
  rw [State.countP_eq, State.updPart_self]
  simp

theorem State.setBq_cnt (s : State) (p : Port) (m : Nat) (g : BatchQueue → BatchQueue) :
    (s.setBq p m g).parts[p].cnt = s.parts[p].cnt := by
  rw [State.setBq, State.updBq_eq, State.updPart_self]
  rfl

/-- The IDLE pack reaches the host's memory, then the queue and its counter. -/
theorem State.putIdle_spec (s : State) (p : Port) (m : Nat) : ∃ x : State, x.parts = s.parts ∧ x.slab = s.slab ∧
    x.hbm = s.hbm ∧ x.host = s.host.sets (hostKey p (s.nextHostSlot p m)) (s.idlePack p m) ∧
    s.putIdle p m = (x.setBq p m BatchQueue.idled).countP p .batchIdle 1 := by
  obtain ⟨parts, slab, hbm, host⟩ := State.sendWrites_stores (s.hostPut p (s.nextHostSlot p m) (s.idlePack p m)) p (s.bq p m).fn
    (s.nextHostSlot p m) 64 false
  rw [State.hostPut_parts] at parts
  rw [State.hostPut_slab] at slab
  rw [State.hostPut_hbm] at hbm
  rw [State.hostPut_host] at host
  exact ⟨_, parts, slab, hbm, host, by rw [State.putIdle]⟩

theorem State.putIdle_does (s : State) (p : Port) (m : Nat) : (s.putIdle p m).bq p m = (s.bq p m).idled ∧
    (s.putIdle p m).parts[p].cnt[PCnt.batchIdle.ix] = s.parts[p].cnt[PCnt.batchIdle.ix] + 1 ∧
    OtherQueuesKept p m s (s.putIdle p m) ∧ (s.putIdle p m).slab = s.slab ∧ (s.putIdle p m).hbm = s.hbm ∧
    (s.putIdle p m).host = s.host.sets (hostKey p (s.nextHostSlot p m)) (s.idlePack p m) := by
  obtain ⟨x, parts, slab, hbm, host, put⟩ := s.putIdle_spec p m
  obtain ⟨-, ⟨slab', hbm', host'⟩, others⟩ := x.setBq_moved p m BatchQueue.idled
  obtain ⟨slab'', hbm'', host''⟩ := State.countP_memory (x.setBq p m BatchQueue.idled) p .batchIdle 1
  rw [put]
  refine ⟨?_, ?_, ?_, ?_, ?_, ?_⟩
  · rw [State.countP_bq, State.setBq_bq_self, State.bq, parts, State.bq]
  · rw [State.countP_cnt, State.setBq_cnt, parts]
    rfl
  · exact ((OtherQueuesKept.of_parts p m parts).trans others).trans (State.countP_others _ p _ _ m)
  · rw [slab'', slab', slab]
  · rw [hbm'', hbm', hbm]
  · rw [host'', host', host]

theorem State.nextHostSlot_want (s : State) (p : Port) (m : Nat) (v : BitVec 64) :
    (s.setBq p m (·.want v)).nextHostSlot p m = s.nextHostSlot p m := by
  rw [State.nextHostSlot, State.setBq_bq_self, State.setBq_hostSlot _ _ _ _ rfl, State.nextHostSlot]
  rfl

/-- A host ring of at most 4,096 slots of at most 16 MiB that ends within the address space holds every slot's header. -/
theorem State.nextHostSlot_fits {s : State} {p : Port} {m : Nat}
    (room : (s.bq p m).ringBase.toNat + 4096 * 16777216 ≤ 2 ^ 64) (slots : s.slotBytes p m ≤ 16777216)
    (some_ : (s.bq p m).ringSize ≠ 0) (ring : (s.bq p m).ringSize ≤ 4096) : s.nextHostSlot p m + 64 ≤ 2 ^ 64 := by
  have slot : (s.bq p m).delivered % (s.bq p m).ringSize < (s.bq p m).ringSize := Nat.mod_lt _ (by omega)
  have offset : (s.bq p m).delivered % (s.bq p m).ringSize * s.slotBytes p m ≤ 4095 * 16777216 :=
    Nat.mul_le_mul (by omega) slots
  rw [State.nextHostSlot, State.hostSlot]
  omega

/-! ## BQ_WANT -/

section
variable {s : State} {p : Port} {f : Func} {m : Nat} {v : BitVec 64} (ready : s.ready = true)
  (maps : s.mapsBq p f m false = true) (enabled : (s.bq p m).enabled = true)
include ready maps enabled

/-- Where the queue does not idle, credits are all that BQ_WANT gives. -/
theorem State.bqWant_credits (busy : ¬(s.setBq p m (·.want v)).idles p m = true) :
    QueueMoved p m ((s.bq p m).want v) s (s.bqWant p f m v) := by
  have wanted := s.setBq_moved p m (·.want v)
  have ltr := State.updateLtr_moved (s.setBq p m (·.want v)) p m
  rw [wanted.1] at ltr
  rw [State.bqWant_eq ready maps enabled, if_neg busy]
  exact wanted.trans ltr

/-- Where it idles, an IDLE pack goes out on the credits added. -/
theorem State.bqWant_idle (idle : (s.setBq p m (·.want v)).idles p m = true) :
    (s.bqWant p f m v).bq p m = ((s.bq p m).want v).idled ∧
    (s.bqWant p f m v).parts[p].cnt[PCnt.batchIdle.ix] = s.parts[p].cnt[PCnt.batchIdle.ix] + 1 ∧
    OtherQueuesKept p m s (s.bqWant p f m v) ∧ (s.bqWant p f m v).slab = s.slab ∧ (s.bqWant p f m v).hbm = s.hbm ∧
    (s.bqWant p f m v).host = s.host.sets (hostKey p (s.nextHostSlot p m)) ((s.setBq p m (·.want v)).idlePack p m) := by
  obtain ⟨queue, ⟨slab, hbm, host⟩, others⟩ := s.setBq_moved p m (·.want v)
  obtain ⟨queue', counted, others', slab', hbm', host'⟩ := State.putIdle_does (s.setBq p m (·.want v)) p m
  obtain ⟨⟨queue'', ⟨slab'', hbm'', host''⟩, others''⟩, parts⟩ := State.signalled_moved
    ((s.setBq p m (·.want v)).putIdle p m) p ((s.setBq p m (·.want v)).bq p m).fn ((s.setBq p m (·.want v)).bq p m).vector m
  rw [State.bqWant_eq ready maps enabled, if_pos idle]
  refine ⟨?_, ?_, (others.trans others').trans others'', ?_, ?_, ?_⟩
  · rw [queue'', queue', queue]
  · rw [parts, counted, State.setBq_cnt]
  · rw [slab'', slab', slab]
  · rw [hbm'', hbm', hbm]
  · rw [host'', host', host, State.nextHostSlot_want]

end

/-! ## Reading a written host range -/

theorem hostKey_of_lt {p : Port} {a : Nat} (h : a < 2 ^ 64) : hostKey p a = p.val * 2 ^ 64 + a := by
  rw [hostKey, Nat.mod_eq_of_lt h]

/-- A read within bytes just written gives them. -/
theorem State.hostGet_of_sets {s t : State} {p : Port} {a : Nat} {bs : List Byte} (off n : Nat)
    (host : t.host = s.host.sets (hostKey p a) bs) (sorted : s.host.sorted = true) (fits : a + bs.length ≤ 2 ^ 64)
    (within : off + n ≤ bs.length) : t.hostGet p (a + off) n = slice bs off n := by
  apply List.ext_getElem
  · simp only [State.hostGet, slice, List.length_map, List.length_range, List.length_take, List.length_drop]
    omega
  · intro i h1 h2
    have hi : i < n := by simpa [State.hostGet] using h1
    have inside : off + i < bs.length := by omega
    have key : hostKey p (a + off + i) = hostKey p a + (off + i) := by
      rw [hostKey_of_lt (by omega), hostKey_of_lt (by omega)]
      omega
    simp only [State.hostGet, slice, List.getElem_map, List.getElem_range, List.getElem_take, List.getElem_drop, host,
      Mem.get_sets bs s.host _ _ sorted, key, Nat.le_add_right, if_true, Nat.add_sub_cancel_left,
      List.getElem?_eq_getElem inside, Option.getD_some]

@[simp] theorem leBytes_length (n v : Nat) : (leBytes n v).length = n := by
  induction n generalizing v with
  | zero => rfl
  | succ n ih => simp [leBytes, ih]

theorem packHeader_length (flags seq epoch samples tensors holes total first : Nat) :
    (packHeader flags seq epoch samples tensors holes total first).length = 64 := by
  simp [packHeader]

/-- A pack header begins with magic, version and flags. -/
theorem packHeader_start (flags seq epoch samples tensors holes total first : Nat) :
    slice (packHeader flags seq epoch samples tensors holes total first) 0 8 =
      leBytes 4 0x4B424154 ++ leBytes 2 1 ++ leBytes 2 flags := by
  simp [slice, packHeader, leBytes]

/-- SEQUENCE follows them. -/
theorem packHeader_seq (flags seq epoch samples tensors holes total first : Nat) :
    slice (packHeader flags seq epoch samples tensors holes total first) 8 8 = leBytes 8 seq := by
  simp [slice, packHeader, leBytes]

/-- A pack header stored below the address space's end reads as magic, version, flags and SEQUENCE, and leaves every other
byte. -/
theorem State.host_of_packHeader {s t : State} {p : Port} {a flags seq epoch samples tensors holes total first : Nat}
    (host : t.host = s.host.sets (hostKey p a) (packHeader flags seq epoch samples tensors holes total first))
    (sorted : s.host.sorted = true) (fits : a + 64 ≤ 2 ^ 64) :
    t.hostGet p a 8 = leBytes 4 0x4B424154 ++ leBytes 2 1 ++ leBytes 2 flags ∧ t.hostGet p (a + 8) 8 = leBytes 8 seq ∧
    ∀ k, k < p.val * 2 ^ 64 + a ∨ p.val * 2 ^ 64 + a + 64 ≤ k → t.host.get k = s.host.get k := by
  have length := packHeader_length flags seq epoch samples tensors holes total first
  have pack (off n : Nat) (within : off + n ≤ 64) :=
    State.hostGet_of_sets off n host sorted (by rw [length]; exact fits) (by rw [length]; exact within)
  refine ⟨?_, ?_, fun k outside => ?_⟩
  · exact (pack 0 8 (by decide)).trans (packHeader_start ..)
  · exact (pack 8 8 (by decide)).trans (packHeader_seq ..)
  · rw [host]
    refine Mem.get_sets_other _ _ _ _ sorted ?_
    rw [length, hostKey_of_lt (by omega)]
    exact outside

/-! ## The claim -/

/-- Settles O27: each register by its own lemma, the queue that a release or new watermarks leave as counted and marked, and
the IDLE pack as putIdle. -/
theorem queueRegistersAndCredits : Obligations.QueueRegistersAndCredits := by
  refine ⟨fun s p m ready hm => ⟨fun f upto exists_ consumer enabled => ?_, fun v => ⟨fun fit => ?_, fun unfit => ?_,
    fun pf => ?_⟩⟩, fun s p f m v ready exists_ hm enabled who => ?_⟩
  · have release := State.bqRelease_upto (upto := upto) ready (State.mapsBq_own.2 ⟨exists_, hm, consumer⟩) enabled
    refine ⟨fun within => ⟨_, rfl, ?_⟩, fun past => ?_⟩
    · rw [release, if_neg (by omega)]
      obtain ⟨queue, memory, others⟩ := s.releaseTo_moved p m upto.toNat
      rw [queue]
      refine ⟨by simp [BatchQueue.released], by simp [BatchQueue.released], fun h0 h1 => ?_, fun other fill room => ?_,
        by simp [BatchQueue.released], memory, others⟩
      · rw [BatchQueue.marked_tail,
          BatchQueue.countClosed_of_none_waits (b := (s.bq p m).released upto.toNat) _ h0 h1, BatchQueue.released]
      · rw [BatchQueue.marked_tail,
          BatchQueue.countClosed_of_one_waits (b := (s.bq p m).released upto.toNat) other fill room, BatchQueue.released]
    · exact congrArg _ (release.trans (if_pos past))
  · refine ⟨_, rfl, ?_⟩
    obtain ⟨queue, -, others⟩ := State.bqWm_moved ready hm ((marksFit_iff v _).2 fit)
    rw [queue]
    exact ⟨by simp [BatchQueue.withMarks], by simp [BatchQueue.withMarks], by simp [BatchQueue.withMarks],
      fun on high => BatchQueue.marked_qhi on high, fun on low => BatchQueue.marked_qlo on low,
      by simp [BatchQueue.withMarks], others⟩
  · exact congrArg _ ((State.bqWm_eq ready hm).trans (if_neg fun fit => unfit ((marksFit_iff v _).1 fit)))
  · have maps : s.mapsBq p 0 m false = true := State.mapsBq_shared.2 ⟨pf, hm, .inr rfl⟩
    have write (off : Nat) (h : off < 0x80) := exec_registerWrite_bq (v := v) pf ready hm h
    refine ⟨fun locked => ⟨?_, ?_⟩, fun above => ?_, fun free => ?_, fun free fits => ?_⟩
    · rw [write _ (by decide), State.writeBq_ringBase_locked maps locked]
    · rw [write _ (by decide), State.writeBq_ringSize_locked maps locked]
    · rw [write _ (by decide), State.writeBq_ringSize_above maps above]
    · rw [write _ (by decide), State.writeBq_ringBase maps free]
    · rw [write _ (by decide), State.writeBq_ringSize maps free fits]
  · have maps : s.mapsBq p f m false = true := State.mapsBq_shared.2 ⟨exists_, hm, who⟩
    refine ⟨fun busy => ⟨_, rfl, ?_⟩, fun idle wf room slots ring => ⟨_, rfl, ?_⟩⟩
    · exact State.bqWant_credits ready maps enabled fun h => busy ((State.idles_want_iff enabled).1 h)
    · obtain ⟨queue, counted, others, slab, hbm, host⟩ :=
        State.bqWant_idle ready maps enabled ((State.idles_want_iff (v := v) enabled).2 idle)
      obtain ⟨-, -, -, someRing, -, -⟩ := idle
      obtain ⟨start, sequence, outside⟩ := State.host_of_packHeader host ((Mem.wf_iff _).1 wf).1
        (State.nextHostSlot_fits room slots someRing ring)
      have tail : ((s.setBq p m (·.want v)).bq p m).tail = (s.bq p m).tail := by rw [State.setBq_bq_self, BatchQueue.want]
      rw [tail] at sequence
      exact ⟨queue, counted, start, sequence, outside, slab, hbm, others⟩

end Sys2Proof.Machine
end
